-- ==== Sys2Proof/Word.lean ====
section
/-! DEFINITION. The plain data types of the 5120: bytes, counters and the segment entry. -/

namespace Sys2Proof

/-- One byte of a frame or of packet memory. -/
abbrev Byte := BitVec 8

/-- A value of the Time Base: microseconds, modulo 2^32 (00_scope §5, R148). -/
abbrev Stamp := BitVec 32

/-- A counter of 48 bits that wraps (00_scope §5, R72, R187). -/
abbrev Counter48 := BitVec 48

/-- A station index as a message carries it (R193, 12.4): 16 bits, so 512 and above can be carried. -/
abbrev StationIndex := BitVec 16

/-- One entry of a segment list: a cell index in a 16-bit field and a byte count in a 9-bit field (R17). -/
structure Segment where
  cell  : BitVec 16
  count : BitVec 9
  deriving DecidableEq, Repr

/-- How an 8-byte word of packet memory reads against the ECC code stored with it (R28, R29): with no error, with a
single-bit error, which the code corrects, or with an error it detects and cannot correct. -/
inductive Ecc where
  | sound | single | uncorrectable
  deriving DecidableEq, Repr, Inhabited

end Sys2Proof
end

