-- ==== Sys2Proof/Syntax.lean ====
section
/-! DEFINITION. The commands of the 5120: one constructor per row of spec/opcode_table.json, in the table's order. A
frame operand is the bytes between the frame's delimiters (R191); a header operand is the 8 bytes of a carrier header. -/

namespace Sys2Proof

inductive Instr where
  /-- POWER_ON_RESET (R189): RESET_N, with the SELFTEST strap as sampled. -/
  | powerOnReset (selfTest : Bool)
  /-- SELF_TEST (R34): the test ends; `failed` are the cells that failed. -/
  | selfTest (failed : List Nat)
  /-- SOFT_RESET (R188). -/
  | softReset
  /-- INGRESS_SPACE_CLAIM (R7). -/
  | ingressSpaceClaim (header : List Byte)
  /-- DOWN_FRAME_RECEIVED (R7). -/
  | downFrameReceived (frame : List Byte)
  /-- REQUEST_FRAME_RECEIVED (R175). -/
  | requestFrameReceived (frame : List Byte)
  /-- SYSTEM_LINK_BAD_FRAME (R5). -/
  | systemLinkBadFrame (frame : List Byte)
  /-- ADMISSION_DECISION (R38). -/
  | admissionDecision
  /-- ADMISSION_RETRY (R46). -/
  | admissionRetry
  /-- APPEND (R49). -/
  | append
  /-- TRANSMITTER_CHOICE (R9). -/
  | transmitterChoice
  /-- DISPOSAL_MESSAGE_SENT (R161). -/
  | disposalMessageSent
  /-- UP_FRAME_SENT (R11). -/
  | upFrameSent
  /-- START_EVENT_SENT (R36). -/
  | startEventSent
  /-- RECEIVE_LOCK_CHANGE (R12). -/
  | receiveLockChange (lock : Bool)
  /-- LINK_UP (R13). -/
  | linkUp
  /-- LINK_DOWN (R13). -/
  | linkDown
  /-- RADIO_LINK_BAD_FRAME (R15). -/
  | radioLinkBadFrame (frame : List Byte)
  /-- UPLINK_SPACE_CLAIM (R126). -/
  | uplinkSpaceClaim (header : List Byte)
  /-- UP_MESSAGE (R127). -/
  | upMessage (frame : List Byte)
  /-- DOZE (R68). -/
  | doze (frame : List Byte)
  /-- WAKE (R69). -/
  | wake (frame : List Byte)
  /-- POLL (R70). -/
  | poll (frame : List Byte)
  /-- MEDIUM_HOLD (R141). -/
  | mediumHold (frame : List Byte)
  /-- MEDIUM_RELEASE (R141). -/
  | mediumRelease (frame : List Byte)
  /-- DONE (R113). -/
  | done (frame : List Byte)
  /-- GRANT_TIMEOUT (R118). -/
  | grantTimeout (slot : Nat)
  /-- ARBITER_CHOICE (R102). -/
  | arbiterChoice
  /-- GRANT_FORMATION (R105). -/
  | grantFormation
  /-- FEED_FAULT (R110): the Feeder's walk, gone on with, comes to a fault in this frame of the grant, which names this
  cell or none. -/
  | feedFault (frame : Nat) (cell : Option Nat)
  /-- STREAM_END (R111). -/
  | streamEnd
  /-- FAULT_CLAIM (R164): the waiting fault claim at position `n` is taken. -/
  | faultClaim (n : Nat)
  /-- RECLAIM_SCAN_START (R32). -/
  | reclaimScanStart
  /-- RECLAIM_SCAN_VISIT (R32). -/
  | reclaimScanVisit
  /-- RECLAIM_SCAN_END (R32). -/
  | reclaimScanEnd
  /-- SWEEP_TIMER (R151). -/
  | sweepTimer
  /-- SWEEP_VISIT (R152). -/
  | sweepVisit
  /-- PURGE_STEP (R155). -/
  | purgeStep
  /-- IDENTIFY (R179). -/
  | identify
  /-- SET_OPTIONS (R181). -/
  | setOptions
  /-- START (R138). -/
  | start
  /-- STOP (R143). -/
  | stop
  /-- FREEZE (R139). -/
  | freeze
  /-- THAW (R140). -/
  | thaw
  /-- STATION_PROGRAM (R60); `claims` entries at most are executed before another block's step (R59). -/
  | stationProgram (claims : Nat)
  /-- STATION_REMOVE (R63). -/
  | stationRemove (claims : Nat)
  /-- STATION_HOLD (R64); here a claim is one map position. -/
  | stationHold (claims : Nat)
  /-- STATION_RELEASE (R65). -/
  | stationRelease (claims : Nat)
  /-- STATION_CLEAR_FAULT (R66). -/
  | stationClearFault (claims : Nat)
  /-- STATION_READ (R182); a claim is the report of one record. -/
  | stationRead (claims : Nat)
  /-- BACKLOG_MAP (R74). -/
  | backlogMap
  /-- CLASS_WRITE (R78). -/
  | classWrite
  /-- RATE_WRITE (R80). -/
  | rateWrite
  /-- TABLE_COMMIT (R81). -/
  | tableCommit
  /-- TABLE_READ (R186). -/
  | tableRead
  /-- COUNTER_READ (R187); a claim is one counter. -/
  | counterRead (claims : Nat)
  /-- PART_RESET (R188). -/
  | partReset
  /-- UNKNOWN_REQUEST (R177). -/
  | unknownRequest
  /-- CORRECTED_ECC_ERROR (R28): the Feeder's walk, gone on with, comes to this word with a single-bit error; a word is
  named by its address divided by 8. -/
  | correctedEccError (word : Nat)
  deriving DecidableEq, Repr

end Sys2Proof
end

