-- ==== Sys2Proof/Decode.lean ====
section
/-! DEFINITION. No row of spec/opcode_table.json gives bits: a command of this block is not a word. -/

namespace Sys2Proof

/-- The command a word spells by the table's bits: none, since the table gives bits to no row (log 26). -/
def decodeTableWord (_nbits _w : Nat) : Option Instr := none

end Sys2Proof
end

