-- ==== Sys2Proof/Machine/Bytes.lean ====
section
/-! DEFINITION. Byte order and the frame check (00_scope §5, R191). -/

namespace Sys2Proof.Machine

/-- The `n` bytes of `v`, most significant first (00_scope §5: byte order). -/
def beBytes : Nat → Nat → List Byte
  | 0, _ => []
  | n + 1, v => BitVec.ofNat 8 (v / 256 ^ n) :: beBytes n v

/-- The number that bytes spell, most significant first. -/
def beNat (bytes : List Byte) : Nat := bytes.foldl (fun v b => 256 * v + b.toNat) 0

/-- The byte at an offset; 0 past the end (only read where a length check has passed). -/
def byteAt (bytes : List Byte) (offset : Nat) : Byte := bytes.getD offset 0

/-- The field of `n` bytes at an offset. -/
def fieldAt (bytes : List Byte) (offset n : Nat) : Nat := beNat ((bytes.drop offset).take n)

/-- `n` zero bytes: a reserved field as the part sends it (R192). -/
def zeros (n : Nat) : List Byte := List.replicate n 0

/-- The generator of the frame check (R191). -/
def crcPoly : BitVec 32 := 0x04C11DB7

/-- One bit enters the frame-check register. -/
def crcBit (r : BitVec 32) (b : Bool) : BitVec 32 :=
  let shifted := r <<< 1
  if r.msb != b then shifted ^^^ crcPoly else shifted

/-- `n` bits of a byte enter, least significant first (R191). -/
def crcBits : Nat → BitVec 32 → Nat → BitVec 32
  | 0, r, _ => r
  | n + 1, r, v => crcBits n (crcBit r (v % 2 == 1)) (v / 2)

/-- The register after all the bytes, preset to all ones (R191). -/
def crcRegister (bytes : List Byte) : BitVec 32 :=
  bytes.foldl (fun r b => crcBits 8 r b.toNat) 0xFFFFFFFF

/-- The frame check: the final remainder bit-reversed and complemented (R191). -/
def crc32 (bytes : List Byte) : BitVec 32 := ~~~ (crcRegister bytes).reverse

/-- A map of positions as bytes, position 0 the most significant bit of the first byte (12.4). -/
def mapBytes : Nat → (Nat → Bool) → List Byte
  | 0, _ => []
  | n + 1, f =>
    BitVec.ofNat 8 ((List.range 8).foldl (fun v k => 2 * v + (f k).toNat) 0) :: mapBytes n (fun k => f (k + 8))

/-- Position `i` of a map carried as bytes: bit 7 - (i mod 8) of byte floor(i / 8) (12.4). -/
def mapBit (bytes : List Byte) (i : Nat) : Bool := (byteAt bytes (i / 8)).getLsbD (7 - i % 8)

end Sys2Proof.Machine
end

