-- ==== Sys2Proof/Config.lean ====
section
/-! DEFINITION. What is fixed for the part: its sizes, its thresholds, its two identity numbers, and the free values. -/

namespace Sys2Proof.Config

/-- Descriptors of the Descriptor Pool (R17). -/
abbrev descriptorCount : Nat := 8192
/-- Cells of the Cell Pool (R21). -/
abbrev cellCount : Nat := 16384
/-- Bytes of one cell (R21). -/
abbrev cellBytes : Nat := 256
/-- Words of 8 bytes in one cell, each with an ECC code (R28). -/
abbrev cellWords : Nat := 32
/-- Station records (R53). -/
abbrev stationCount : Nat := 512
/-- Most frames of one grant (R75). -/
abbrev grantFrames : Nat := 64
/-- Grant Slots (R99). -/
abbrev slotCount : Nat := 4
/-- Descriptors held back for refusals (R20). -/
abbrev reserve : Nat := 32
/-- Ingress Buffer space in bytes (R7). -/
abbrev ingressSpace : Nat := 32768
/-- Uplink Buffer space in bytes (R125). -/
abbrev uplinkSpace : Nat := 65536
/-- Longest frame the part stores, in bytes (R7, R126). -/
abbrev maxFrame : Nat := 4096
/-- Shortest frame admission accepts, in bytes (R40). -/
abbrev minFrame : Nat := 14
/-- Request Queue places (R175). -/
abbrev requestPlaces : Nat := 8
/-- Event Queue places (R190). -/
abbrev eventPlaces : Nat := 32
/-- Longest REQUEST body handed on whole, in bytes (R6). -/
abbrev maxRequestBody : Nat := 1024
/-- Most records of one DISPOSAL message (R161). -/
abbrev disposalRecords : Nat := 32
/-- The floor of a deficit, in microseconds (R87, R88). -/
abbrev deficitFloor : Int := -1048575
/-- Lock held this long moves the link UP, in microseconds (R12). -/
abbrev lockUpTime : Nat := 1000
/-- Lock lost this long moves the link DOWN, in microseconds (R12). -/
abbrev lockDownTime : Nat := 100
/-- PAUSE turns ON below this many free general descriptors (R36). -/
abbrev pauseOnDescs : Nat := 256
/-- PAUSE turns ON below this many free cells (R36). -/
abbrev pauseOnCells : Nat := 512
/-- PAUSE may turn OFF from this many free general descriptors (R36). -/
abbrev pauseOffDescs : Nat := 512
/-- PAUSE may turn OFF from this many free cells (R36). -/
abbrev pauseOffCells : Nat := 1024
/-- The part code (R179). -/
abbrev partCode : Nat := 0x5120
/-- The revision number (R179). -/
abbrev revision : Nat := 1
/-- The self-test result when no test was run (R34). -/
abbrev noSelfTest : BitVec 16 := 0xFFFF

/-- What damage does to a stored descriptor (R17, 2.3.1): new values of the fields parity covers, and whether the
stored parity still agrees with them (it does when the damage came with a write). -/
structure Damage where
  cookie   : BitVec 32
  station  : StationIndex
  length   : BitVec 24
  stamp    : Stamp
  lifetime : BitVec 16
  segs     : List Segment
  parityOk : Bool
  deriving DecidableEq, Repr

/-- FREE VALUE (log 9): the descriptor damaged, and how, as the n-th value of the free-value counter is passed. The spec
says that descriptors are damaged and never when. -/
opaque descriptorDamage : Nat → Option (Nat × Damage)

/-- FREE VALUE (log 7): the word of packet memory whose reading against its ECC code changes, and to what, as the n-th
value of the free-value counter is passed. The spec says that words show errors, some lasting, and never when. -/
opaque memoryDamage : Nat → Option (Nat × Ecc)

/-- FREE VALUE (log 30): the byte at an address of the pattern the self-test writes; R34 gives no pattern. -/
opaque selfTestPattern : Nat → Byte

/-- FREE VALUE (log 30): the byte an address of a failed cell holds after the self-test run at the n-th value of the
free-value counter. -/
opaque failedByte : Nat → Nat → Byte

/-- FREE VALUE (log 30): how a word of a failed cell reads against its code after that test. -/
opaque failedWord : Nat → Nat → Ecc

/-- FREE VALUE (log 19): the kind code a RADIO_PROTOCOL event carries for a damaged frame of no bytes at all. R15 says
the event carries the kind code found in the carrier header, and such a frame has none. -/
opaque absentKindCode : Byte

end Sys2Proof.Config
end

