-- ==== Sys2Proof/Machine/Table.lean ====
section
/-! DEFINITION. A table with one entry per index, held as the list of the entries that differ from a default, in
strictly rising index: one canonical form, so that equal tables are equal data. -/

namespace Sys2Proof.Machine

/-- The entries that differ from the default, by rising index. -/
abbrev Table (α : Type) := List (Nat × α)

/-- The entry at an index; the default where none is listed. -/
def Table.get {α : Type} (dflt : α) : Table α → Nat → α
  | [], _ => dflt
  | (k, v) :: rest, i => if k = i then v else Table.get dflt rest i

/-- Write one entry, keeping the canonical form: the default is not listed. -/
def Table.set {α : Type} [DecidableEq α] (dflt : α) : Table α → Nat → α → Table α
  | [], i, v => if v = dflt then [] else [(i, v)]
  | (k, w) :: rest, i, v =>
    if i < k then (if v = dflt then (k, w) :: rest else (i, v) :: (k, w) :: rest)
    else if i = k then (if v = dflt then rest else (i, v) :: rest)
    else (k, w) :: Table.set dflt rest i v

/-- The table whose entry at each index below `n` is `f` of it, and the default from `n` on. -/
def Table.tabulate {α : Type} [DecidableEq α] (dflt : α) (n : Nat) (f : Nat → α) : Table α :=
  ((List.range n).map fun i => (i, f i)).filter fun e => decide (e.2 ≠ dflt)

/-- Every index of the list is at least `lo`, the indices rise strictly, and no entry is the default. -/
def Table.wfFrom {α : Type} [DecidableEq α] (dflt : α) : Nat → Table α → Bool
  | _, [] => true
  | lo, (k, v) :: rest => decide (lo ≤ k) && decide (v ≠ dflt) && Table.wfFrom dflt (k + 1) rest

/-- The canonical form. -/
def Table.wf {α : Type} [DecidableEq α] (dflt : α) (t : Table α) : Bool := Table.wfFrom dflt 0 t

end Sys2Proof.Machine
end

