-- ==== Sys2Proof/Machine/Memory.lean ====
section
/-! DEFINITION. Packet memory: 16,384 cells of 256 bytes (R21), as (address, byte) pairs in canonical form. Byte `k` of
cell `c` has address 256 c + k. -/

namespace Sys2Proof.Machine

/-- The bytes of packet memory that differ from what an unlisted address reads as. -/
abbrev Memory := List Host.Cell

/-- What a byte nothing has written reads as: DESIGN CHOICE 0 (log 6). The feed walk reads no such byte (R47). -/
def Memory.blank : Byte := 0

/-- Read one byte. -/
def Memory.read (m : Memory) (a : Nat) : Byte := Table.get Memory.blank m a

/-- Write one byte. -/
def Memory.write (m : Memory) (a : Nat) (b : Byte) : Memory := Table.set Memory.blank m a b

/-- Write bytes from an address up. -/
def Memory.writeBytes (m : Memory) (a : Nat) : List Byte → Memory
  | [] => m
  | b :: rest => (m.write a b).writeBytes (a + 1) rest

/-- Read `n` bytes from an address up. -/
def Memory.readBytes (m : Memory) (a : Nat) : Nat → List Byte
  | 0 => []
  | n + 1 => m.read a :: m.readBytes (a + 1) n

/-- The canonical form: addresses strictly rising, no entry equal to what an unlisted address reads as. -/
def Memory.wf (m : Memory) : Bool := Table.wf Memory.blank m

/-- The address of byte `k` of cell `c`. -/
def Memory.cellAddress (c k : Nat) : Nat := Config.cellBytes * c + k

end Sys2Proof.Machine
end

