-- ==== Sys2Proof/Machine/Runs.lean ====
section
/-! DEFINITION. An ordered list of numbers held as runs of successive numbers. The free descriptor list and the free
cell list are kept so: they hold 8,192 and 16,384 numbers after a reset, in one run each (R17, R22). `toList` is the list
the manual speaks of; the operations are those of a queue on it. -/

namespace Sys2Proof.Machine

/-- Runs `(a, k)`, each standing for the numbers a, a + 1, …, a + k. -/
abbrev Runs := List (Nat × Nat)

/-- The numbers of a list of runs, head first. -/
def Runs.toList : Runs → List Nat
  | [] => []
  | (a, k) :: rest => List.range' a (k + 1) ++ Runs.toList rest

/-- How many numbers there are. -/
def Runs.count : Runs → Nat
  | [] => 0
  | (_, k) :: rest => k + 1 + Runs.count rest

/-- Take the head. -/
def Runs.pop : Runs → Option (Nat × Runs)
  | [] => none
  | (a, 0) :: rest => some (a, rest)
  | (a, k + 1) :: rest => some (a, (a + 1, k) :: rest)

/-- Take `n` numbers from the head, in order; none if there are fewer. -/
def Runs.popN : Nat → Runs → Option (List Nat × Runs)
  | 0, r => some ([], r)
  | n + 1, r =>
    match r.pop with
    | none => none
    | some (x, r') =>
      match Runs.popN n r' with
      | none => none
      | some (xs, r'') => some (x :: xs, r'')

/-- Append at the tail; a number that follows the last run joins it. -/
def Runs.push : Runs → Nat → Runs
  | [], x => [(x, 0)]
  | [(a, k)], x => if x = a + k + 1 then [(a, k + 1)] else [(a, k), (x, 0)]
  | run :: next :: rest, x => run :: Runs.push (next :: rest) x

/-- The numbers from 0 to `n` - 1, ascending. -/
def Runs.upTo : Nat → Runs
  | 0 => []
  | n + 1 => [(0, n)]

/-- The numbers from `lo` to `n` - 1, ascending, that are no index of a table in canonical form (R34: the cells that
passed, where the table lists those that failed). -/
def Runs.gaps {α : Type} (n : Nat) : Table α → Nat → Runs
  | [], lo => if lo < n then [(lo, n - 1 - lo)] else []
  | (k, _) :: rest, lo => if lo < k then (lo, k - 1 - lo) :: Runs.gaps n rest (k + 1) else Runs.gaps n rest (k + 1)

end Sys2Proof.Machine
end

