-- ==== Sys2Proof/Machine/State.lean ====
section
/-! DEFINITION. The state of the 5120, block by block as 00_scope §3 lists them, and its value after reset. -/

namespace Sys2Proof.Machine

/-! ### Names shared by several blocks -/

/-- The reasons of responses and disposal records, in the one code space of 12.3. -/
inductive Reason where
  | unknownRequest | badLength | badState | badField | noCursor | rateUnset | retireFull
  | stationBusy | stationFaulted | addressLocked | notFaulted | notFrozen | unknownStation
  | delivered | failed | noCompletion | expired | removed | stopped | stationFault | chainFault | memoryError
  | notRunning | halted | addressMismatch | queueFull | noBuffer
  deriving DecidableEq, Repr

/-- The causes a walk reports (R24). -/
inductive FaultCause where
  | descParity | notPresent | foreign | badCount | lengthMismatch | uncorrectable
  deriving DecidableEq, Repr

/-- The phase a fault is found in (10.1). -/
inductive Phase where
  | feed | release | reclaim
  deriving DecidableEq, Repr

/-- The causes of a RADIO_PROTOCOL event (R15, R113, R130). -/
inductive ProtocolCause where
  | badFrame | badKind | badBody | earlyDone | badOutcomes | upTooLong
  deriving DecidableEq, Repr

/-! ### Buffer Manager -/

/-- The place of a descriptor (R17, R18). -/
inductive Place where
  | free | ingress | queued | inGrant | reclaim | disposal
  deriving DecidableEq, Repr

/-- A descriptor (R17). The stored parity is kept as whether it agrees with the fields it covers (log 8). -/
structure Descriptor where
  cookie   : BitVec 32
  station  : StationIndex
  length   : BitVec 24
  stamp    : Stamp
  lifetime : BitVec 16
  segs     : List Segment
  parityOk : Bool
  place    : Place
  reason   : Option Reason
  badCell  : Option Nat
  deriving DecidableEq, Repr

/-- A descriptor on the free list: place FREE, every other field absent or zero (R17, R19). -/
def Descriptor.cleared : Descriptor :=
  { cookie := 0, station := 0, length := 0, stamp := 0, lifetime := 0, segs := [], parityOk := true,
    place := .free, reason := none, badCell := none }

/-- An entry of the Cell Owner Table (R21). -/
inductive Owner where
  | free | retired | desc (d : Nat)
  deriving DecidableEq, Repr

/-- The Reclaim Scan under way: the descriptor scanned and the next entry to visit (R32). -/
structure Scan where
  desc : Nat
  next : Nat
  deriving DecidableEq, Repr

/-- `ecc` tells of each word of packet memory, by its address divided by 8, how it reads against its code (R28). -/
structure BufferManager where
  descs          : Table Descriptor
  freeDescs      : Runs
  owners         : Table Owner
  freeCells      : Runs
  reclaim        : List Nat
  scan           : Option Scan
  selfTestResult : BitVec 16
  pauseWanted    : Bool
  mem            : Memory
  ecc            : Table Ecc
  deriving DecidableEq, Repr

/-! ### Station Table -/

/-- The admin state of a record (R53, R55). -/
inductive Admin where
  | free | active | purging | faulted
  deriving DecidableEq, Repr

inductive RateLock where
  | follow | locked
  deriving DecidableEq, Repr

/-- The uplink share of a record (R53). -/
inductive Share where
  | s0 | s25 | s50 | s100
  deriving DecidableEq, Repr

inductive Power where
  | awake | dozing
  deriving DecidableEq, Repr

/-- The list membership of a record (R53, R92). -/
inductive Membership where
  | none | entry | round
  deriving DecidableEq, Repr

/-- The eight counters of a record (R72). -/
structure StationCounters where
  downlinkAirtime  : Counter48
  uplinkAirtime    : Counter48
  framesDelivered  : Counter48
  framesFailed     : Counter48
  framesDropped    : Counter48
  bytesDelivered   : Counter48
  grants           : Counter48
  uplinkDiscarded  : Counter48
  deriving DecidableEq, Repr

def StationCounters.zero : StationCounters :=
  { downlinkAirtime := 0, uplinkAirtime := 0, framesDelivered := 0, framesFailed := 0, framesDropped := 0,
    bytesDelivered := 0, grants := 0, uplinkDiscarded := 0 }

/-- A station record (R53). -/
structure Station where
  admin     : Admin
  address   : BitVec 48
  cls       : Fin 8
  rate      : Fin 64
  rateLock  : RateLock
  share     : Share
  power     : Power
  hold      : Bool
  faultFlag : Bool
  deficit   : Int
  queue     : List Nat
  slot      : Option Nat
  poll      : Bool
  list      : Membership
  counters  : StationCounters
  deriving DecidableEq, Repr

/-- Every field at its FREE value (R56). -/
def Station.free : Station :=
  { admin := .free, address := 0, cls := 0, rate := 0, rateLock := .follow, share := .s0, power := .awake,
    hold := false, faultFlag := false, deficit := 0, queue := [], slot := none, poll := false, list := .none,
    counters := StationCounters.zero }

/-! ### Airtime Scheduler and Frame Feeder -/

/-- The scheduler state (R133). -/
inductive SchedState where
  | off | running | freezing | frozen | stopping | halted
  deriving DecidableEq, Repr

/-- The freeze causes (R134). -/
inductive Cause where
  | host | radio | link
  deriving DecidableEq, Repr

/-- The freeze cause set (R134). -/
structure CauseSet where
  host  : Bool
  radio : Bool
  link  : Bool
  deriving DecidableEq, Repr

/-- A class entry (R75): airtimes in microseconds, the maximum age in milliseconds. -/
structure ClassEntry where
  quantum    : Nat
  maxAirtime : Nat
  maxFrames  : Nat
  queueLimit : Nat
  maxAge     : Nat
  deriving DecidableEq, Repr

/-- The reset values of a class entry (R75). -/
def ClassEntry.default : ClassEntry :=
  { quantum := 1000, maxAirtime := 4000, maxFrames := 32, queueLimit := 256, maxAge := 500 }

/-- A rate entry (R76): overhead in microseconds, cost in sixteenths of a microsecond per 64 bytes. -/
structure RateEntry where
  overhead : Nat
  cost     : Nat
  deriving DecidableEq, Repr

/-- The reset values of a rate entry: the code is unset (R76). -/
def RateEntry.unset : RateEntry := { overhead := 0, cost := 0 }

/-- A timer: it runs from 0 to `limit` microseconds. -/
structure Timer where
  limit   : Nat
  elapsed : Nat
  deriving DecidableEq, Repr

inductive GrantKind where
  | round | poll
  deriving DecidableEq, Repr

/-- The stream state of an OPEN slot (R99). The slot's grant timer runs exactly while the slot is SENT (R112), so it is
held here. -/
inductive Stream where
  | streaming
  | sent (timer : Timer)
  deriving DecidableEq, Repr

/-- A frame of a grant: its descriptor and the length read at formation (R99). -/
structure GrantFrame where
  desc   : Nat
  length : Nat
  deriving DecidableEq, Repr

/-- What an OPEN slot holds (R99). -/
structure Grant where
  serial   : BitVec 8
  station  : Nat
  kind     : GrantKind
  frames   : List GrantFrame
  estimate : Nat
  stream   : Stream
  deriving DecidableEq, Repr

/-- The slot arbiter's candidate between choice and formation (R102, R103). -/
structure Candidate where
  station : Nat
  kind    : GrantKind
  deriving DecidableEq, Repr

structure Scheduler where
  state       : SchedState
  causes      : CauseSet
  liveClass   : Table ClassEntry
  shadowClass : Table ClassEntry
  liveRate    : Table RateEntry
  shadowRate  : Table RateEntry
  entryList   : List Nat
  roundList   : List Nat
  pollQueue   : List Nat
  slots       : Table (Option Grant)
  serial      : BitVec 8
  candidate   : Option Candidate
  deriving DecidableEq, Repr

/-- A feed walk under way, as it stands at the segment it has reached (R24, R27): the descriptor as the walk's one read
gave it, the entries from that segment on, the sum of the counts before it, the bytes that could still be passed on when
it began, how many words of it have been read, and the bytes passed on so far. -/
structure FeedWalk where
  read  : Descriptor
  rest  : List Segment
  sum   : Nat
  left  : Nat
  word  : Nat
  bytes : List Byte
  deriving DecidableEq, Repr

/-- What the Frame Feeder is streaming (R108): the slot, the frame being fed counted from 0, and the segment its walk
has reached counted from 1. `walk` is that walk, once it has begun. -/
structure Feed where
  slot    : Nat
  frame   : Nat
  segment : Nat
  walk    : Option FeedWalk
  deriving DecidableEq, Repr

/-! ### Radio Link Interface -/

/-- The trailer of a frame section (R16). -/
inductive Trailer where
  | complete | abort
  deriving DecidableEq, Repr

/-- One frame section of a GRANT as sent (R16). -/
structure Section where
  length  : Nat
  bytes   : List Byte
  trailer : Trailer
  deriving DecidableEq, Repr

/-- How far a GRANT on the Radio Link has come: still in progress, ended with its end delimiter, or cut off without a
frame check (R1, R13, R16). -/
inductive StreamEnd where
  | inProgress | whole | cut
  deriving DecidableEq, Repr

/-- The GRANT last begun on the Radio Link, with the sections sent of it (R16). -/
structure GrantOut where
  slot     : Nat
  serial   : BitVec 8
  station  : Nat
  kind     : GrantKind
  count    : Nat
  estimate : Nat
  lengths  : List Nat
  sections : List Section
  ended    : StreamEnd
  deriving DecidableEq, Repr

structure RadioLink where
  up     : Bool
  lock   : Bool
  settle : Nat
  stream : Option GrantOut
  deriving DecidableEq, Repr

/-! ### System Link Receiver and Admission Unit -/

/-- A DOWN frame in the Ingress Buffer (R7): its fixed part, the declared frame length, and the frame bytes kept. -/
structure IngressEntry where
  station  : StationIndex
  cookie   : BitVec 32
  lifetime : BitVec 16
  declared : BitVec 24
  bytes    : List Byte
  deriving DecidableEq, Repr

structure Receiver where
  ingress : List IngressEntry
  claim   : Option Nat
  deriving DecidableEq, Repr

/-- The state of the Admission Unit (R37). The frame in hand is the Ingress Buffer head. -/
inductive Admission where
  | idle
  | waiting
  | writing (desc : Nat)
  deriving DecidableEq, Repr

/-! ### Uplink Unit, Age Sweep, Purge Engine -/

/-- An entry of the Uplink Buffer: what its UP frame will carry (R131). -/
structure UpEntry where
  station : StationIndex
  airtime : BitVec 16
  rate    : Byte
  charge  : Nat
  stamp   : Stamp
  bytes   : List Byte
  deriving DecidableEq, Repr

structure Uplink where
  entries : List UpEntry
  claim   : Option Nat
  deriving DecidableEq, Repr

structure Sweep where
  timer    : Option Timer
  position : Option Nat
  heldBack : Bool
  deriving DecidableEq, Repr

/-- The purposes of purge entries (R154). -/
inductive Purpose where
  | stop | fault | remove
  deriving DecidableEq, Repr

structure PurgeEntry where
  station : Nat
  purpose : Purpose
  deriving DecidableEq, Repr

/-! ### Request Processor, Event Queue, transmitter -/

/-- A request frame as the Request Queue holds it (R6, R175). -/
structure Request where
  code       : Byte
  tag        : BitVec 16
  overLength : Bool
  body       : List Byte
  deriving DecidableEq, Repr

inductive Status where
  | accepted | partly | refused
  deriving DecidableEq, Repr

/-- A response (R176): `done` and `station` as PARTIAL and RATE_UNSET carry them, `result` the bytes after the fixed
part. -/
structure Response where
  code    : Byte
  tag     : BitVec 16
  status  : Status
  reason  : Option Reason
  done    : Nat
  station : Nat
  result  : List Byte
  deriving DecidableEq, Repr

/-- The request in execution, how many of its claims are done, and the report bytes so far (R59, R176, R185, R187). -/
structure Execution where
  request : Request
  done    : Nat
  out     : List Byte
  deriving DecidableEq, Repr

/-- An armed STATION READ cursor (R183). -/
structure Cursor where
  next   : Nat
  window : Nat
  deriving DecidableEq, Repr

inductive ReportFormat where
  | compact | full
  deriving DecidableEq, Repr

inductive LifetimeMode where
  | honor | ignore
  deriving DecidableEq, Repr

/-- The six Options (R180): timeout and sweep interval in milliseconds. -/
structure Options where
  format       : ReportFormat
  lifetime     : LifetimeMode
  slots        : Nat
  grantTimeout : Nat
  sweep        : Nat
  retireLimit  : Nat
  deriving DecidableEq, Repr

/-- The reset values of the Options (R180). -/
def Options.default : Options :=
  { format := .compact, lifetime := .honor, slots := 2, grantTimeout := 20, sweep := 50, retireLimit := 256 }

structure RequestProcessor where
  queue     : List Request
  executing : Option Execution
  held      : Option Response
  stopped   : Bool
  cursor    : Option Cursor
  lost      : BitVec 16
  options   : Options
  deriving DecidableEq, Repr

/-- The events (R190) with the fields each carries. -/
inductive Event where
  | start (power : Bool) (selfTest : BitVec 16)
  | frozen (causes : CauseSet)
  | thawed (cause : Cause)
  | stopped (causes : CauseSet)
  | halted (retired limit : Nat)
  | stationFreed (station : Nat)
  | stationFaulted (station : Nat)
  | fault (cause : FaultCause) (phase : Phase) (station : Nat) (cookie : BitVec 32) (cell : Option Nat) (segment : Nat)
  | lateDone (slot serial : Byte)
  | radioProtocol (cause : ProtocolCause) (kind : Byte) (slot serial : Byte) (station : StationIndex)
  | radioLink (up : Bool)
  deriving DecidableEq, Repr

structure EventRecord where
  stamp : Stamp
  event : Event
  deriving DecidableEq, Repr

structure EventQueue where
  records : List EventRecord
  lost    : BitVec 16
  deriving DecidableEq, Repr

/-- A disposal record (R161). -/
structure DisposalRecord where
  cookie  : BitVec 32
  station : StationIndex
  reason  : Option Reason
  length  : BitVec 24
  deriving DecidableEq, Repr

/-- What a frame to the network processor carries (R3, 12.4). -/
inductive OutBody where
  | pause (on : Bool) (freeGeneral freeCells : Nat)
  | response (r : Response)
  | event (e : EventRecord)
  | disposal (stamp : Stamp) (records : List DisposalRecord)
  | up (entry : UpEntry)
  deriving DecidableEq, Repr

/-- A frame on the System Link line, with its pause flag (R2). -/
structure OutFrame where
  pauseFlag : Bool
  body      : OutBody
  deriving DecidableEq, Repr

/-- What the alternation mark names (R9). -/
inductive Alternation where
  | disposal | up
  deriving DecidableEq, Repr

structure Transmitter where
  line      : Option OutFrame
  pauseSent : Bool
  mark      : Alternation
  response  : Option Response
  deriving DecidableEq, Repr

/-! ### Faults handed on, part-wide counters -/

/-- A fault claim waiting to be taken at its record (R164): the station, the admin state its record held when the fault
was found, and the phase. -/
structure FaultClaim where
  station : Nat
  admin   : Admin
  phase   : Phase
  deriving DecidableEq, Repr

/-- The eleven part-wide counters in the order of R187. -/
structure PartCounters where
  badFrames       : Counter48
  ingressFull     : Counter48
  grantsIssued    : Counter48
  grantTimeouts   : Counter48
  lateDones       : Counter48
  protocolErrors  : Counter48
  unknownUplink   : Counter48
  notesIgnored    : Counter48
  correctedEcc    : Counter48
  chainFaults     : Counter48
  memoryFaults    : Counter48
  deriving DecidableEq, Repr

def PartCounters.zero : PartCounters :=
  { badFrames := 0, ingressFull := 0, grantsIssued := 0, grantTimeouts := 0, lateDones := 0, protocolErrors := 0,
    unknownUplink := 0, notesIgnored := 0, correctedEcc := 0, chainFaults := 0, memoryFaults := 0 }

/-! ### The part -/

/-- The state of the part. `pending` is the command queue; `freeCtr` is the model's own counter for free values. -/
structure State where
  pending     : List Instr
  inReset     : Bool
  timeBase    : Stamp
  rx          : Receiver
  tx          : Transmitter
  radio       : RadioLink
  adm         : Admission
  bm          : BufferManager
  stations    : Table Station
  sched       : Scheduler
  feeder      : Option Feed
  uplink      : Uplink
  sweep       : Sweep
  purge       : List PurgeEntry
  disposal    : List Nat
  rp          : RequestProcessor
  events      : EventQueue
  faultClaims : List FaultClaim
  ctr         : PartCounters
  freeCtr     : Nat
  deriving DecidableEq, Repr

/-- Why a step stops with a fault. The 5120 never stops: a frame at fault, a refused frame or request, and HALTED are
results the spec gives (R45, R145, R163, R176), so no step faults and the type has no constructor. -/
inductive Fault where
  deriving DecidableEq, Repr

/-- Why a step refuses a command. -/
inductive Refusal where
  /-- A command whose meaning is not written; raised by no meaning, only by an arm of `exec` for such a command. Safe:
  the machine stops. No arm raises it now. -/
  | notModelled (mnemonic : String)
  deriving DecidableEq, Repr

/-! ### Reset values, block by block -/

/-- Packet memory management after a reset with no test run (2.8). The data bytes of the device, and how its words read
against their codes, are not touched by a reset (log 6, log 7). -/
def BufferManager.afterReset (mem : Memory) (ecc : Table Ecc) : BufferManager :=
  { descs := [], freeDescs := Runs.upTo Config.descriptorCount, owners := [], freeCells := Runs.upTo Config.cellCount,
    reclaim := [], scan := none, selfTestResult := Config.noSelfTest, pauseWanted := false, mem := mem,
    ecc := ecc }

/-- The scheduler after a reset: OFF, with LINK as the only cause exactly when the Radio Link is DOWN (R133). -/
def Scheduler.afterReset (linkUp : Bool) : Scheduler :=
  { state := .off, causes := { host := false, radio := false, link := !linkUp }, liveClass := [], shadowClass := [],
    liveRate := [], shadowRate := [], entryList := [], roundList := [], pollQueue := [], slots := [], serial := 0,
    candidate := none }

def RequestProcessor.afterReset : RequestProcessor :=
  { queue := [], executing := none, held := none, stopped := false, cursor := none, lost := 0,
    options := Options.default }

/-- Every block at its reset values, before the START event is placed. What a reset does not set is carried in: the
command queue, the receive lock, packet memory and the free-value counter. -/
def State.blocksReset (pending : List Instr) (lock linkUp : Bool) (mem : Memory) (ecc : Table Ecc) (freeCtr : Nat) :
    State :=
  { pending := pending
    inReset := true
    timeBase := 0
    rx := { ingress := [], claim := none }
    tx := { line := none, pauseSent := false, mark := .up, response := none }
    radio := { up := linkUp, lock := lock, settle := 0, stream := none }
    adm := .idle
    bm := BufferManager.afterReset mem ecc
    stations := []
    sched := Scheduler.afterReset linkUp
    feeder := none
    uplink := { entries := [], claim := none }
    sweep := { timer := none, position := none, heldBack := false }
    purge := []
    disposal := []
    rp := RequestProcessor.afterReset
    events := { records := [], lost := 0 }
    faultClaims := []
    ctr := PartCounters.zero
    freeCtr := freeCtr }

/-- The end of a reset (R189): the START event is placed in the empty Event Queue, and from then on the links are
served. -/
def State.endReset (s : State) (power : Bool) : State :=
  { s with
    inReset := false
    events := { records := [{ stamp := s.timeBase, event := .start power s.bm.selfTestResult }], lost := 0 } }

/-- The machine right after a power-on reset with the SELFTEST strap low (log 3). -/
def State.reset : State := (State.blocksReset [] false false [] [] 0).endReset true

end Sys2Proof.Machine
end

