-- ==== Sys2Proof/Machine/Flags.lean ====
section
/-! DEFINITION. The conditions and figures the rules derive from the state: counts, eligibility, thresholds, ages,
estimates, what the transmitter counts as waiting. Nothing here changes the state. -/

namespace Sys2Proof.Machine

/-- a / b rounded up. -/
def ceilDiv (a b : Nat) : Nat := (a + b - 1) / b

/-! ### Packet memory -/

/-- A descriptor of the pool. -/
def BufferManager.desc (b : BufferManager) (d : Nat) : Descriptor := Table.get Descriptor.cleared b.descs d

/-- The owner entry of a cell (R21). -/
def BufferManager.owner (b : BufferManager) (c : Nat) : Owner := Table.get Owner.free b.owners c

/-- The free general count (R20). -/
def BufferManager.freeGeneral (b : BufferManager) : Nat := b.freeDescs.count - Config.reserve

/-- The free cell count (R22). -/
def BufferManager.freeCellCount (b : BufferManager) : Nat := b.freeCells.count

/-- The retired count: the size of the Retired Set (R30). -/
def BufferManager.retiredCount (b : BufferManager) : Nat := b.owners.countP fun e => e.2 == .retired

/-- The PAUSE state wanted, evaluated from the two counts (R36): between the bounds it stays as it was. -/
def BufferManager.evaluatedPause (b : BufferManager) : Bool :=
  if b.freeGeneral < Config.pauseOnDescs ∨ b.freeCellCount < Config.pauseOnCells then true
  else if Config.pauseOffDescs ≤ b.freeGeneral ∧ Config.pauseOffCells ≤ b.freeCellCount then false
  else b.pauseWanted

/-! ### Stations -/

/-- The station record of an index; an index of no listed record reads FREE (R56). -/
def State.station (s : State) (i : Nat) : Station := Table.get Station.free s.stations i

/-- A descriptor of the pool. -/
def State.desc (s : State) (d : Nat) : Descriptor := s.bm.desc d

/-- Eligibility: the five conditions (R57). -/
def Station.eligible (r : Station) : Bool :=
  r.admin == .active && r.power == .awake && !r.hold && !r.queue.isEmpty && r.slot.isNone

/-- The percentage of a share (R53). -/
def Share.percent : Share → Nat
  | .s0 => 0
  | .s25 => 25
  | .s50 => 50
  | .s100 => 100

/-- The live class entry of a record (R75). -/
def State.liveClass (s : State) (r : Station) : ClassEntry :=
  Table.get ClassEntry.default s.sched.liveClass r.cls.val

/-- The live rate row of a record (R76). -/
def State.liveRate (s : State) (r : Station) : RateEntry :=
  Table.get RateEntry.unset s.sched.liveRate r.rate.val

/-- A deficit charged by an airtime, held at the floor (R88, R89, R90). -/
def chargedDeficit (deficit : Int) (airtime : Nat) : Int := max (deficit - airtime) Config.deficitFloor

/-- The part of an uplink airtime that is charged (R90). -/
def uplinkCharge (airtime : Nat) (share : Share) : Nat := airtime * share.percent / 100

/-! ### Airtime and age -/

/-- The estimate of a frame of `length` bytes under a rate row, in microseconds (R84). -/
def frameEstimate (row : RateEntry) (length : Nat) : Nat :=
  row.overhead + ceilDiv (ceilDiv length 64 * row.cost) 16

/-- The age of a frame stamped `stamp` at `now`, modulo 2^32 (R149). -/
def age (now stamp : Stamp) : Nat := (now - stamp).toNat

/-- The effective lifetime in milliseconds (R149). -/
def effectiveLifetime (mode : LifetimeMode) (lifetime maxAge : Nat) : Nat :=
  match mode with
  | .ignore => maxAge
  | .honor => if lifetime = 0 ∨ maxAge ≤ lifetime then maxAge else lifetime

/-- Whether a frame queued for a station is expired at this moment (R104, R149). -/
def State.expired (s : State) (r : Station) (d : Nat) : Bool :=
  decide (1000 * effectiveLifetime s.rp.options.lifetime (s.desc d).lifetime.toNat (s.liveClass r).maxAge
    < age s.timeBase (s.desc d).stamp)

/-! ### Scheduler -/

/-- What a Grant Slot holds; none when it is FREE (R99). -/
def State.slot (s : State) (k : Nat) : Option Grant := Table.get none s.sched.slots k

/-- How many slots are open (R133). -/
def State.openSlots (s : State) : Nat := (List.range Config.slotCount).countP fun k => (s.slot k).isSome

/-- The lowest-numbered FREE usable slot (R99, R107). -/
def State.freeSlot (s : State) : Option Nat :=
  (List.range s.rp.options.slots).find? fun k => decide (k < Config.slotCount) && (s.slot k).isNone

/-- The states in which NOT_SENT frames are requeued, START is not needed and admission passes check 1: RUNNING,
FREEZING and FROZEN (R39, R115). -/
def SchedState.open : SchedState → Bool
  | .running | .freezing | .frozen => true
  | .off | .stopping | .halted => false

/-- The states in which the sweep timer runs (R151); from these less HALTED, and STOPPING, the part can halt (R145). -/
def SchedState.sweeps : SchedState → Bool
  | .running | .freezing | .frozen | .halted => true
  | .off | .stopping => false

/-- The states a retired count at the limit moves to HALTED (R145). -/
def SchedState.canHalt : SchedState → Bool
  | .running | .freezing | .frozen | .stopping => true
  | .off | .halted => false

def CauseSet.get (c : CauseSet) : Cause → Bool
  | .host => c.host
  | .radio => c.radio
  | .link => c.link

def CauseSet.put (c : CauseSet) (k : Cause) (present : Bool) : CauseSet :=
  match k with
  | .host => { c with host := present }
  | .radio => { c with radio := present }
  | .link => { c with link := present }

/-- The set holds no cause. -/
def CauseSet.isEmpty (c : CauseSet) : Bool := !c.host && !c.radio && !c.link

/-- The three conditions of R101, with no candidate already in hand. -/
def State.arbiterReady (s : State) : Bool :=
  s.sched.state == .running && s.freeSlot.isSome && s.feeder.isNone && s.sched.candidate.isNone

/-- A STOP entry is on the Purge List (R144). -/
def State.hasStopEntry (s : State) : Bool := s.purge.any fun e => e.purpose == .stop

/-- The station has an entry on the Purge List (R157). -/
def State.onPurgeList (s : State) (i : Nat) : Bool := s.purge.any fun e => e.station == i

/-! ### Buffers -/

/-- The bytes a DOWN frame keeps of a body of `bodyLength` bytes: all of it up to the fixed part and 4,096 frame bytes
(R7). -/
def keptBody (bodyLength : Nat) : Nat := min bodyLength (8 + Config.maxFrame)

/-- The space of an Ingress Buffer entry (R7): 8 plus the body bytes kept. -/
def IngressEntry.space (e : IngressEntry) : Nat := 8 + (8 + e.bytes.length)

/-- The free space of the Ingress Buffer; space set aside for an arriving frame is not free (R7). -/
def Receiver.freeSpace (r : Receiver) : Nat :=
  Config.ingressSpace - ((r.ingress.map IngressEntry.space).sum + r.claim.getD 0)

/-- The space of an Uplink Buffer entry (R125). -/
def UpEntry.space (e : UpEntry) : Nat := 16 + e.bytes.length

/-- The free space of the Uplink Buffer (R125). -/
def Uplink.freeSpace (u : Uplink) : Nat :=
  Config.uplinkSpace - ((u.entries.map UpEntry.space).sum + u.claim.getD 0)

/-! ### The System Link line -/

/-- The frame on the line is one whose end is a command of its own: a DISPOSAL message, an UP frame, the START event,
or the ACCEPTED response to PART RESET, whose end begins the soft reset (R11, R36, R161, R188). -/
def OutFrame.ownEnd (f : OutFrame) : Bool :=
  match f.body with
  | .pause _ _ _ => false
  | .response r => r.code == 0x3F && r.status == .accepted
  | .event e => match e.event with
    | .start _ _ => true
    | _ => false
  | .disposal _ _ => true
  | .up _ => true

/-- Whether the START event is the next event to be sent. -/
def EventQueue.startFirst (q : EventQueue) : Bool :=
  match q.records with
  | e :: _ => match e.event with
    | .start _ _ => true
    | _ => false
  | [] => false

/-- The frame on the line is the EVENT frame that carries the START event. -/
def OutFrame.carriesStart (f : OutFrame) : Bool :=
  match f.body with
  | .event e => match e.event with
    | .start _ _ => true
    | _ => false
  | _ => false

/-- The START event's EVENT frame has not been sent yet: the event waits, or its frame is on the line (R11, R189). -/
def State.startUnsent (s : State) : Bool := s.events.startFirst || s.tx.line.any OutFrame.carriesStart

end Sys2Proof.Machine
end

