-- ==== Sys2Proof/Machine/PacketMemory.lean ====
section
/-! DEFINITION. The operations of the Buffer Manager on its own state: claims, allocation, freeing, retirement, the two
walks of the Chain Walker, and the return of descriptors (02_packet_memory). -/

namespace Sys2Proof.Machine

/-- R36: the wanted PAUSE state is evaluated when either free count has changed from what it was in `old`, unless `held`:
R189 has the first evaluation follow the START event's frame. -/
def BufferManager.evaluateFrom (held : Bool) (old b : BufferManager) : BufferManager :=
  { b with
    pauseWanted :=
      if held ∨ (b.freeGeneral = old.freeGeneral ∧ b.freeCellCount = old.freeCellCount) then b.pauseWanted
      else b.evaluatedPause }

def BufferManager.setDesc (b : BufferManager) (d : Nat) (x : Descriptor) : BufferManager :=
  { b with descs := Table.set Descriptor.cleared b.descs d x }

def BufferManager.setOwner (b : BufferManager) (c : Nat) (o : Owner) : BufferManager :=
  { b with owners := Table.set Owner.free b.owners c o }

/-- A freed cell: owner FREE and the free cell list tail in one step (R22). -/
def BufferManager.freeCell (b : BufferManager) (c : Nat) : BufferManager :=
  { b.setOwner c .free with freeCells := b.freeCells.push c }

/-- A retired cell is not on the free cell list (R30). -/
def BufferManager.retireCell (b : BufferManager) (c : Nat) : BufferManager := b.setOwner c .retired

/-- The owner entry of each taken cell names the taking descriptor (R21). -/
def BufferManager.own (b : BufferManager) (d : Nat) : List Nat → BufferManager
  | [] => b
  | c :: rest => (b.setOwner c (.desc d)).own d rest

/-- Cells a frame needs (R21). -/
def cellsFor (length : Nat) : Nat := ceilDiv length Config.cellBytes

/-- The segment list over the taken cells: 256 bytes each but the last, which takes what is left (R21). -/
def segmentsOver : List Nat → Nat → List Segment
  | [], _ => []
  | [c], left => [{ cell := BitVec.ofNat 16 c, count := BitVec.ofNat 9 left }]
  | c :: next :: rest, left =>
    { cell := BitVec.ofNat 16 c, count := 256 } :: segmentsOver (next :: rest) (left - Config.cellBytes)

/-- A claim to queue (R20, R21): the descriptor taken, the cells taken, and the pools after; none is NO_BUFFER. -/
def BufferManager.claimToQueue (b : BufferManager) (length : Nat) : Option (Nat × List Nat × BufferManager) :=
  if 1 ≤ b.freeGeneral ∧ cellsFor length ≤ b.freeCellCount then
    match b.freeDescs.pop, b.freeCells.popN (cellsFor length) with
    | some (d, descs), some (cells, rest) =>
      some (d, cells, BufferManager.own { b with freeDescs := descs, freeCells := rest } d cells)
    | _, _ => none
  else none

/-- A claim to refuse (R20): the free list head with no cells; none when no descriptor is free. -/
def BufferManager.claimToRefuse (b : BufferManager) : Option (Nat × BufferManager) :=
  match b.freeDescs.pop with
  | some (d, descs) => some (d, { b with freeDescs := descs })
  | none => none

/-- A descriptor whose record has been sent returns: cleared, FREE, at the free list tail (R19). -/
def BufferManager.returnDesc (b : BufferManager) (d : Nat) : BufferManager :=
  { b.setDesc d Descriptor.cleared with freeDescs := b.freeDescs.push d }

def BufferManager.returnDescs (b : BufferManager) : List Nat → BufferManager
  | [] => b
  | d :: rest => (b.returnDesc d).returnDescs rest

/-! ### The Chain Walker -/

/-- What a failed walk reports (R24). -/
structure WalkFault where
  cause   : FaultCause
  segment : Nat
  cell    : Option Nat
  deriving DecidableEq, Repr

/-- Checks 1 to 3 of R24 on segment entry `k` of descriptor `d`. -/
def BufferManager.entryFault (b : BufferManager) (d k : Nat) (g : Segment) : Option WalkFault :=
  if Config.cellCount ≤ g.cell.toNat then some { cause := .notPresent, segment := k, cell := none }
  else if b.owner g.cell.toNat ≠ .desc d then some { cause := .foreign, segment := k, cell := some g.cell.toNat }
  else if ¬ (1 ≤ g.count.toNat ∧ g.count.toNat ≤ Config.cellBytes) then
    some { cause := .badCount, segment := k, cell := some g.cell.toNat }
  else none

/-- Check 4 of R24: the byte counts sum to the length. -/
def sumFault (sum length entries : Nat) : Option WalkFault :=
  if sum = length then none else some { cause := .lengthMismatch, segment := entries, cell := none }

/-- The entries of a release walk from entry `k` on (R26): each that passes has its cell freed, or retired if it is the
bad cell, before the next is taken. -/
def BufferManager.releaseEntries (d : Nat) (bad : Option Nat) (length : Nat) :
    List Segment → Nat → Nat → BufferManager → Option WalkFault × BufferManager
  | [], k, sum, b => (sumFault sum length (k - 1), b)
  | g :: rest, k, sum, b =>
    match b.entryFault d k g with
    | some f => (some f, b)
    | none =>
      releaseEntries d bad length rest (k + 1) (sum + g.count.toNat)
        (if bad = some g.cell.toNat then b.retireCell g.cell.toNat else b.freeCell g.cell.toNat)

/-- A release walk (R24, R26): parity first, then the entries. -/
def BufferManager.releaseWalk (b : BufferManager) (d : Nat) : Option WalkFault × BufferManager :=
  let x := b.desc d
  if x.parityOk then BufferManager.releaseEntries d x.badCell x.length.toNat x.segs 1 0 b
  else (some { cause := .descParity, segment := 0, cell := none }, b)

/-- How word `w` of cell `c` reads against its code (R28). -/
def BufferManager.wordEcc (b : BufferManager) (c w : Nat) : Ecc := Table.get Ecc.sound b.ecc (Config.cellWords * c + w)

/-- The first word of cell `c`, from word `start` on and below word `below`, that shows an error. -/
def BufferManager.firstError (b : BufferManager) (c start below : Nat) : Option Nat :=
  (List.range' start (below - start)).find? fun w => b.wordEcc c w != .sound

/-- How far a feed walk comes before it meets an error or its end: clean, with the bytes of the frame; at a fault, with
the bytes passed on before it; or past a word with a single-bit error, in segment `segment`. -/
inductive FeedEnd where
  | clean (bytes : List Byte)
  | fault (f : WalkFault) (bytes : List Byte)
  | corrected (segment : Nat) (walk : FeedWalk)
  deriving DecidableEq, Repr

/-- The entries of a feed walk of descriptor `d`, read as `x`, from entry `k` on (R24, R27 to R29): `left` bytes may still
be passed on at entry `k`, `word` words of it have been read, `bytes` have been passed on. An entry is checked when none
of its words has been read. A word with a single-bit error is passed on corrected. -/
def BufferManager.feedEntries (b : BufferManager) (d : Nat) (x : Descriptor) :
    List Segment → Nat → Nat → Nat → Nat → List Byte → FeedEnd
  | [], k, sum, _, _, bytes =>
    match sumFault sum x.length.toNat (k - 1) with
    | none => .clean bytes
    | some f => .fault f bytes
  | g :: rest, k, sum, left, word, bytes =>
    match if word = 0 then b.entryFault d k g else none with
    | some f => .fault f bytes
    | none =>
      let c := g.cell.toNat
      let n := min g.count.toNat left
      let upTo := fun m => bytes ++ b.mem.readBytes (Memory.cellAddress c (8 * word)) (m - 8 * word)
      match b.firstError c word (ceilDiv n 8) with
      | none => b.feedEntries d x rest (k + 1) (sum + g.count.toNat) (left - n) 0 (upTo n)
      | some w =>
        if b.wordEcc c w = .uncorrectable then
          .fault { cause := .uncorrectable, segment := k, cell := some c } (upTo (8 * w))
        else
          .corrected k
            { read := x, rest := g :: rest, sum := sum, left := left, word := w + 1, bytes := upTo (min (8 * (w + 1)) n) }

/-- A walk begins with one read of the descriptor (R24). -/
def Descriptor.openWalk (x : Descriptor) : FeedWalk :=
  { read := x, rest := x.segs, sum := 0, left := x.length.toNat, word := 0, bytes := [] }

/-- A feed walk of descriptor `d` gone on with from segment `k` (R24, R27): the parity of its read, then its entries. -/
def BufferManager.feedOn (b : BufferManager) (d k : Nat) (w : FeedWalk) : FeedEnd :=
  if w.read.parityOk then b.feedEntries d w.read w.rest k w.sum w.left w.word w.bytes
  else .fault { cause := .descParity, segment := 0, cell := none } w.bytes

/-- A feed walk from its start. -/
def BufferManager.feedWalk (b : BufferManager) (d : Nat) : FeedEnd := b.feedOn d 1 (b.desc d).openWalk

/-! ### Writes and late refusals -/

/-- The frame bytes written into the cells of a segment list, each cell filled with zeros beyond its count (R47). -/
def Memory.writeFrame (m : Memory) : List Segment → List Byte → Memory
  | [], _ => m
  | g :: rest, bytes =>
    let part := bytes.take g.count.toNat
    (m.writeBytes (Memory.cellAddress g.cell.toNat 0) (part ++ zeros (Config.cellBytes - part.length))).writeFrame rest
      (bytes.drop g.count.toNat)

/-- The codes after the cells of a segment list have been written to their ends: every word of them agrees with its code
(R28, R47). -/
def eccAfterWrite (ecc : Table Ecc) (segs : List Segment) : Table Ecc :=
  ecc.filter fun e => !(segs.any fun g => g.cell.toNat == e.1 / Config.cellWords)

/-- The Admission Unit's write of a frame: the data and its codes (R28, R47). -/
def BufferManager.store (b : BufferManager) (segs : List Segment) (bytes : List Byte) : BufferManager :=
  { b with mem := b.mem.writeFrame segs bytes, ecc := eccAfterWrite b.ecc segs }

/-- A late refusal gives back the cells of the segment list in order, with no chain check; whether a cell may be freed is
asked of the Cell Owner Table (02 intro, R50; log 18). -/
def BufferManager.giveBack (b : BufferManager) (d : Nat) : List Segment → BufferManager
  | [] => b
  | g :: rest =>
    (if b.owner g.cell.toNat = .desc d then b.freeCell g.cell.toNat else b).giveBack d rest

end Sys2Proof.Machine
end

