-- ==== Sys2Proof/Machine/Ops.lean ====
section
/-! DEFINITION. The operations the meanings share: events, counters, list membership, the scheduler state machine, the
Purge List, releases, faults, the end of a grant's stream and of a grant. -/

namespace Sys2Proof.Machine

/-! ### Events and counters -/

/-- A 16-bit count that saturates (R175, R190). -/
def saturate16 (c : BitVec 16) : BitVec 16 := if c = 0xFFFF then c else c + 1

/-- A 48-bit count that wraps. -/
def addTo (c : Counter48) (n : Nat) : Counter48 := c + BitVec.ofNat 48 n

/-- An event joins the tail with its stamp, or is lost and counted (R190). -/
def EventQueue.put (q : EventQueue) (now : Stamp) (e : Event) : EventQueue :=
  if q.records.length < Config.eventPlaces then { q with records := q.records ++ [{ stamp := now, event := e }] }
  else { q with lost := saturate16 q.lost }

def State.record (s : State) (e : Event) : State := { s with events := s.events.put s.timeBase e }

def State.setStation (s : State) (i : Nat) (r : Station) : State :=
  { s with stations := Table.set Station.free s.stations i r }

def State.setDesc (s : State) (d : Nat) (x : Descriptor) : State := { s with bm := s.bm.setDesc d x }

def State.setSlot (s : State) (k : Nat) (g : Option Grant) : State :=
  { s with sched := { s.sched with slots := Table.set none s.sched.slots k g } }

/-- A rise of a record's counters; a FREE record counts nothing (R45, R72). -/
def State.count (s : State) (i : Nat) (f : StationCounters → StationCounters) : State :=
  if (s.station i).admin = .free then s
  else s.setStation i { s.station i with counters := f (s.station i).counters }

/-- The counters a release with a reason raises (R72, R159). -/
def Reason.counts (reason : Reason) (length : Nat) (c : StationCounters) : StationCounters :=
  match reason with
  | .delivered =>
    { c with framesDelivered := addTo c.framesDelivered 1, bytesDelivered := addTo c.bytesDelivered length }
  | .failed | .noCompletion | .memoryError | .chainFault => { c with framesFailed := addTo c.framesFailed 1 }
  | _ => { c with framesDropped := addTo c.framesDropped 1 }

/-! ### Scheduler lists and eligibility -/

/-- A station joins a list tail, with its membership in the same step (R92, R93): the Round List when its slot was freed
or its deficit is 0 or below, the Entry List otherwise. -/
def State.joinList (s : State) (i : Nat) (freed : Bool) : State :=
  let r := s.station i
  if freed ∨ r.deficit ≤ 0 then
    { s.setStation i { r with list := .round } with sched := { s.sched with roundList := s.sched.roundList ++ [i] } }
  else
    { s.setStation i { r with list := .entry } with sched := { s.sched with entryList := s.sched.entryList ++ [i] } }

/-- A station leaves its list, those behind it moving up (R94). -/
def State.leaveList (s : State) (i : Nat) : State :=
  { s.setStation i { s.station i with list := .none } with
    sched := { s.sched with
      entryList := s.sched.entryList.filter (· ≠ i)
      roundList := s.sched.roundList.filter (· ≠ i) } }

/-- The hand-over of a change of eligibility (R57). The hand-overs of a ROUND candidate are held by its candidacy and
change no list (R103). -/
def State.relist (s : State) (i : Nat) (was freed : Bool) : State :=
  if s.sched.candidate = some { station := i, kind := .round } then s
  else if !was && (s.station i).eligible then s.joinList i freed
  else if was && !(s.station i).eligible then s.leaveList i
  else s

/-- One claim on a record: the change and its effect on the lists in one step (R57). -/
def State.change (s : State) (i : Nat) (freed : Bool) (f : Station → Station) : State :=
  (s.setStation i (f (s.station i))).relist i (s.station i).eligible freed

/-- A pending poll is set to no and the station leaves the Poll Queue, in one step (R71). -/
def State.cancelPoll (s : State) (i : Nat) : State :=
  if (s.station i).poll then
    { s.setStation i { s.station i with poll := false } with
      sched := { s.sched with pollQueue := s.sched.pollQueue.filter (· ≠ i) } }
  else s

/-! ### The scheduler state machine -/

/-- What a change of scheduler state does to the sweep timer and the held-back pass (R151). -/
def Sweep.onState (w : Sweep) (interval : Nat) (old new : SchedState) : Sweep :=
  if new = .stopping then { w with timer := none, heldBack := false }
  else if new.sweeps && !old.sweeps then { w with timer := some { limit := 1000 * interval, elapsed := 0 } }
  else w

def State.setSched (s : State) (new : SchedState) : State :=
  { s with
    sched := { s.sched with state := new }
    sweep := s.sweep.onState s.rp.options.sweep s.sched.state new }

def State.setCause (s : State) (c : Cause) (present : Bool) : State :=
  { s with sched := { s.sched with causes := s.sched.causes.put c present } }

/-- Entering FROZEN records the cause set (R147). -/
def State.enterFrozen (s : State) : State := (s.setSched .frozen).record (.frozen s.sched.causes)

/-- A cause is added (R134, R135). -/
def State.addCause (s : State) (c : Cause) : State :=
  if s.sched.causes.get c then s
  else
    let s' := s.setCause c true
    if s.sched.state = .running then (if s.openSlots = 0 then s'.enterFrozen else s'.setSched .freezing) else s'

/-- A cause is removed (R134, R137). -/
def State.removeCause (s : State) (c : Cause) : State :=
  if s.sched.causes.get c then
    let s' := s.setCause c false
    if s'.sched.causes.isEmpty && (s.sched.state == .freezing || s.sched.state == .frozen) then
      (s'.setSched .running).record (.thawed c)
    else s'
  else s

/-- STOPPING moves to OFF when no STOP entry is left and no slot is open (R144). -/
def State.checkStopped (s : State) : State :=
  if s.sched.state = .stopping ∧ s.hasStopEntry = false ∧ s.openSlots = 0 then
    let s' := (s.setCause .host false).setSched .off
    s'.record (.stopped s'.sched.causes)
  else s

/-- The freeing of a slot as the scheduler takes it (R136, R144). -/
def State.slotFreed (s : State) : State :=
  if s.sched.state = .freezing ∧ s.openSlots = 0 then s.enterFrozen else s.checkStopped

/-- The hand-over of the retired count or of the retire limit (R145). -/
def State.checkRetired (s : State) : State :=
  if s.sched.state.canHalt ∧ s.rp.options.retireLimit ≤ s.bm.retiredCount then
    (s.setSched .halted).record (.halted s.bm.retiredCount s.rp.options.retireLimit)
  else s

/-- The Buffer Manager's state after an operation, with a rise of the retired count handed on (R30) and the PAUSE state
evaluated (R36) once the START event has been sent (R189). The HALTED event of a release so comes before the release's
other events (log 27). -/
def State.withPools (s : State) (b : BufferManager) : State :=
  let s' := { s with bm := BufferManager.evaluateFrom s.startUnsent s.bm b }
  if s.bm.retiredCount < b.retiredCount then s'.checkRetired else s'

/-! ### Purge List and teardown -/

/-- REMOVE ranks above FAULT, and FAULT above STOP (R154). -/
def Purpose.rank : Purpose → Nat
  | .stop => 0
  | .fault => 1
  | .remove => 2

/-- The Purge List after an entry is asked for: a new entry at the tail, or the station's entry upgraded in its place
(R154). -/
def askPurge (list : List PurgeEntry) (i : Nat) (p : Purpose) : List PurgeEntry :=
  if list.any fun e => e.station == i then
    list.map fun e => if e.station = i ∧ e.purpose.rank < p.rank then { e with purpose := p } else e
  else list ++ [{ station := i, purpose := p }]

/-- Whether asking for an entry upgrades a STOP entry, which is handed to the scheduler (R154). -/
def upgradesStop (list : List PurgeEntry) (i : Nat) (p : Purpose) : Bool :=
  list.any fun e => e.station == i && e.purpose == .stop && p != .stop

/-- A PURGING station with no purge entry, an empty queue and no slot becomes FREE (R157). -/
def State.checkTeardown (s : State) (i : Nat) : State :=
  let r := s.station i
  if r.admin = .purging ∧ s.onPurgeList i = false ∧ r.queue = [] ∧ r.slot = none then
    (s.setStation i Station.free).record (.stationFreed i)
  else s

/-! ### Faults -/

/-- A fault is counted and reported (R163). -/
def State.reportFault (s : State) (phase : Phase) (station : Nat) (cookie : BitVec 32) (f : WalkFault) : State :=
  let ctr :=
    if f.cause = .uncorrectable then { s.ctr with memoryFaults := addTo s.ctr.memoryFaults 1 }
    else { s.ctr with chainFaults := addTo s.ctr.chainFaults 1 }
  { s with ctr := ctr }.record (.fault f.cause phase station cookie f.cell f.segment)

/-- A chain fault of the FEED or RELEASE phase is handed on as a fault claim (R164). -/
def State.claimFault (s : State) (phase : Phase) (station : Nat) : State :=
  { s with faultClaims := s.faultClaims ++ [{ station := station, admin := (s.station station).admin, phase := phase }] }

/-- Escalation (R168). -/
def State.escalate (s : State) (i : Nat) : State :=
  let s := (s.change i false fun r => { r with admin := .faulted }).cancelPoll i
  let upgraded := upgradesStop s.purge i .fault
  let s := { s with purge := askPurge s.purge i .fault }.record (.stationFaulted i)
  if upgraded then s.checkStopped else s

/-- A fault claim is taken at its record (R164). -/
def State.takeClaim (s : State) (c : FaultClaim) : State :=
  if c.admin = .active ∧ (s.station c.station).admin = .active then
    if (s.station c.station).faultFlag then s.escalate c.station
    else s.setStation c.station { s.station c.station with faultFlag := true }
  else s

/-! ### Releases -/

/-- The descriptor's last place: the Disposal List tail on a clean walk, the Reclaim Queue tail otherwise (R26, R158). -/
def State.dispose (s : State) (d : Nat) (reason : Reason) : State :=
  { s.setDesc d { s.desc d with reason := some reason, place := .disposal } with disposal := s.disposal ++ [d] }

def State.toReclaim (s : State) (d : Nat) : State :=
  let s := s.setDesc d { s.desc d with reason := some .chainFault, place := .reclaim }
  { s with bm := { s.bm with reclaim := s.bm.reclaim ++ [d] } }

/-- A release (R26, R158): the descriptor has left the queue or slot of station `i` in the step that asks for it. -/
def State.release (s : State) (i d : Nat) (reason : Reason) : State :=
  let x := s.desc d
  if x.reason = some .chainFault then (s.toReclaim d).count i (Reason.counts .chainFault 0)
  else
    match s.bm.releaseWalk d with
    | (none, b) => ((s.withPools b).dispose d reason).count i (reason.counts x.length.toNat)
    | (some f, b) =>
      ((((s.withPools b).reportFault .release i x.cookie f).claimFault .release i).toReclaim d).count i
        (Reason.counts .chainFault 0)

/-- Releases asked for in one step, in order (R158). -/
def State.releases (s : State) (i : Nat) : List (Nat × Reason) → State
  | [] => s
  | (d, reason) :: rest => (s.release i d reason).releases i rest

/-! ### Grants -/

/-- The mark of the Feeder on a descriptor in a slot (R110). -/
def Descriptor.mark (x : Descriptor) : Option Reason :=
  match x.reason with
  | some .chainFault => some .chainFault
  | some .memoryError => some .memoryError
  | _ => none

/-- The end of the stream in one step (R111): the slot SENT, its timer started at the grant timeout as it stands (R112),
the Feeder idle. -/
def State.endStream (s : State) (ended : StreamEnd) : State :=
  match s.feeder with
  | none => s
  | some f =>
    let s := match s.slot f.slot with
      | some g =>
        s.setSlot f.slot
          (some { g with stream := .sent { limit := 1000 * s.rp.options.grantTimeout, elapsed := 0 } })
      | none => s
    { s with
      feeder := none
      radio := { s.radio with stream := s.radio.stream.map fun g => { g with ended := ended } } }

/-- The end of a grant (R117): the slot FREE and its timer stopped, the station's slot none and its list joined, teardown
before the scheduler's own event. -/
def State.closeSlot (s : State) (k i : Nat) : State :=
  (((s.setSlot k none).change i true fun r => { r with slot := none }).checkTeardown i).slotFreed

/-! ### Responses -/

/-- A response waiting at the Request Processor is handed to the transmitter when that holds no unsent response (R176). -/
def State.handOver (s : State) : State :=
  match s.tx.response, s.rp.held with
  | none, some r => { s with tx := { s.tx with response := some r }, rp := { s.rp with held := none } }
  | _, _ => s

/-- The request in execution is answered: the cursor is set in the step that makes the response (R183), and the response
is handed over in the same step if it can be (R176), so that an event of the step is sent after it (log 31). -/
def State.finish (s : State) (r : Response) (cursor : Option Cursor) : State :=
  { s with rp := { s.rp with executing := none, held := some r, cursor := cursor } }.handOver

end Sys2Proof.Machine
end

