-- ==== Sys2Proof/Machine/Clock.lean ====
section
/-! DEFINITION. The passing of one microsecond: what a step does on an empty queue (log 2). Timers count up to their
limits; the command of a timer that has reached its limit is then enabled. -/

namespace Sys2Proof.Machine

/-- A timer counts to its limit. -/
def Timer.tick (t : Timer) : Timer := if t.elapsed < t.limit then { t with elapsed := t.elapsed + 1 } else t

/-- Grant timers run while their slot is SENT (R112). -/
def Grant.tick (g : Grant) : Grant :=
  match g.stream with
  | .streaming => g
  | .sent t => { g with stream := .sent t.tick }

/-- The settle timer counts lock held in DOWN, and lock lost in UP (R12). -/
def RadioLink.tick (r : RadioLink) : RadioLink :=
  if r.up = false ∧ r.lock = true ∧ r.settle < Config.lockUpTime then { r with settle := r.settle + 1 }
  else if r.up = true ∧ r.lock = false ∧ r.settle < Config.lockDownTime then { r with settle := r.settle + 1 }
  else r

/-- Damage changes the fields parity covers and whether the stored parity still agrees with them (R17). It strikes
descriptors that wait or are in flight, and none that is being scanned (log 9). -/
def BufferManager.damage (b : BufferManager) : Option (Nat × Config.Damage) → BufferManager
  | none => b
  | some (d, x) =>
    let old := b.desc d
    if (old.place = .queued ∨ old.place = .inGrant ∨ old.place = .reclaim) ∧ b.scan.map Scan.desc ≠ some d
        ∧ 1 ≤ x.segs.length ∧ x.segs.length ≤ 16 then
      b.setDesc d
        { old with
          cookie := x.cookie, station := x.station, length := x.length, stamp := x.stamp, lifetime := x.lifetime,
          segs := x.segs, parityOk := x.parityOk }
    else b

/-- A word of packet memory comes to read another way against its code (R28, log 7). -/
def BufferManager.damageWord (b : BufferManager) : Option (Nat × Ecc) → BufferManager
  | none => b
  | some (w, e) =>
    if w < Config.cellCount * Config.cellWords then { b with ecc := Table.set Ecc.sound b.ecc w e } else b

/-- One microsecond. During a reset the Time Base and the timers stand (R34, R148). -/
def State.tick (s : State) : State :=
  if s.inReset then s
  else
    { s with
      timeBase := s.timeBase + 1
      radio := s.radio.tick
      sched := { s.sched with slots := s.sched.slots.map fun e => (e.1, e.2.map Grant.tick) }
      sweep := { s.sweep with timer := s.sweep.timer.map Timer.tick }
      bm := (s.bm.damage (Config.descriptorDamage s.freeCtr)).damageWord (Config.memoryDamage s.freeCtr)
      freeCtr := s.freeCtr + 1 }

end Sys2Proof.Machine
end

