-- ==== Sys2Proof/Machine/GrantMechanism.lean ====
section
/-! DEFINITION. The slot arbiter, grant formation and the Frame Feeder (06 §6.2 to 6.4, R28, R97). -/

namespace Sys2Proof.Machine

/-! ### Choice (R102) -/

/-- The oldest poll whose station's hold is clear and whose in-flight slot is none (R102). -/
def State.pollCandidate (s : State) : Option Nat :=
  s.sched.pollQueue.find? fun i => !(s.station i).hold && (s.station i).slot.isNone

/-- How many top-ups of `quantum` bring a deficit above 0. -/
def topUpsNeeded (deficit : Int) (quantum : Nat) : Nat :=
  if 0 < deficit then 0 else (-deficit).toNat / quantum + 1

/-- The top-ups all members of the Round List need together: the top-up of R97 makes no more before it finds a head with
a deficit above 0. -/
def State.topUpBound (s : State) : Nat :=
  (s.sched.roundList.map fun i => topUpsNeeded (s.station i).deficit (s.liveClass (s.station i)).quantum).sum

/-- One top-up of the head `i` of the Round List: the quantum added, the station moved to the tail (R97). -/
def State.topUpHead (s : State) (i : Nat) (rest : List Nat) : State :=
  let r := s.station i
  { s.setStation i { r with deficit := r.deficit + (s.liveClass r).quantum } with
    sched := { s.sched with roundList := rest ++ [i] } }

/-- The top-up of R97, at most `n` times: the head with a deficit above 0, and the state after. -/
def State.topUp : Nat → State → Option Nat × State
  | n, s =>
    match s.sched.roundList with
    | [] => (none, s)
    | i :: rest =>
      if 0 < (s.station i).deficit then (some i, s)
      else
        match n with
        | 0 => (none, s)
        | n + 1 => State.topUp n (s.topUpHead i rest)

def State.setCandidate (s : State) (c : Option Candidate) : State := { s with sched := { s.sched with candidate := c } }

/-- A candidate taken from the Entry List or the Round List leaves its list in the choice (R102). -/
def State.takeRound (s : State) (i : Nat) : State := (s.leaveList i).setCandidate (some { station := i, kind := .round })

/-- ARBITER_CHOICE (R101, R102): a poll first, then the Entry List head, then the Round List by R97. -/
def execArbiterChoice (s : State) : Host.Outcome State Fault Refusal :=
  .next
    (if s.arbiterReady then
      match s.pollCandidate with
      | some i => s.setCandidate (some { station := i, kind := .poll })
      | none =>
        match s.sched.entryList with
        | i :: _ => s.takeRound i
        | [] =>
          match State.topUp s.topUpBound s with
          | (some i, s') => s'.takeRound i
          | (none, s') => s'
    else s)

/-! ### Formation (R103 to R106) -/

/-- The recheck of R103. -/
def State.grantable (s : State) (c : Candidate) : Bool :=
  let r := s.station c.station
  s.sched.state == .running && s.freeSlot.isSome && s.feeder.isNone &&
    match c.kind with
    | .round => r.eligible
    | .poll => r.admin == .active && r.power == .dozing && r.poll && !r.hold && r.slot.isNone

/-- The head leaves the queue of a station. No list is changed: the station is the candidate, or the caller hands the
change of eligibility over itself. -/
def State.popQueue (s : State) (i : Nat) : State :=
  s.setStation i { s.station i with queue := (s.station i).queue.drop 1 }

/-- A frame examined that may not be sent (R104): the reason it is released with. -/
def State.unfit (s : State) (i d : Nat) : Option Reason :=
  if Config.maxFrame < (s.desc d).length.toNat then some .chainFault
  else if s.expired (s.station i) d then some .expired
  else none

/-- A frame leaves the queue head and enters the grant (R105). -/
def State.place (s : State) (i d : Nat) : State := (s.popQueue i).setDesc d { s.desc d with place := .inGrant }

/-- The frame as the grant records it (R99). -/
def State.grantFrame (s : State) (d : Nat) : GrantFrame := { desc := d, length := (s.desc d).length.toNat }

/-- ROUND formation over the queue (R105): `limit` is the grant limit, `most` the frames per grant, `row` the rate row;
the frames so far and their running sum. -/
def State.formRound (i most : Nat) (limit : Int) (row : RateEntry) :
    List Nat → List GrantFrame → Nat → State → List GrantFrame × Nat × State
  | [], frames, sum, s => (frames, sum, s)
  | d :: rest, frames, sum, s =>
    if frames ≠ [] ∧ most ≤ frames.length then (frames, sum, s)
    else
      match s.unfit i d with
      | some reason => formRound i most limit row rest frames sum ((s.popQueue i).release i d reason)
      | none =>
        let e := frameEstimate row (s.desc d).length.toNat
        if frames = [] ∨ ((sum + e : Nat) : Int) ≤ limit then
          formRound i most limit row rest (frames ++ [s.grantFrame d]) (sum + e) (s.place i d)
        else (frames, sum, s)

/-- POLL formation over the queue (R106): the first fit frame, or none. -/
def State.formPoll (i : Nat) (row : RateEntry) : List Nat → State → List GrantFrame × Nat × State
  | [], s => ([], 0, s)
  | d :: rest, s =>
    match s.unfit i d with
    | some reason => formPoll i row rest ((s.popQueue i).release i d reason)
    | none => ([s.grantFrame d], frameEstimate row (s.desc d).length.toNat, s.place i d)

/-- Issue (R107) in slot `k`: the slot OPEN, the counters raised, the Feeder streaming. With the link DOWN the GRANT is
ended before its first byte (R13, R108). -/
def State.issue (s : State) (k i : Nat) (kind : GrantKind) (frames : List GrantFrame) (estimate : Nat) : State :=
  let grant : Grant :=
    { serial := s.sched.serial, station := i, kind := kind, frames := frames, estimate := estimate, stream := .streaming }
  let out : GrantOut :=
    { slot := k, serial := s.sched.serial, station := i, kind := kind, count := frames.length, estimate := estimate,
      lengths := frames.map GrantFrame.length, sections := [], ended := .inProgress }
  let s := (s.setSlot k (some grant)).setStation i { s.station i with slot := some k }
  let s := s.count i fun c => { c with grants := addTo c.grants 1 }
  let s :=
    { s with
      sched := { s.sched with serial := s.sched.serial + 1 }
      ctr := { s.ctr with grantsIssued := addTo s.ctr.grantsIssued 1 }
      feeder := some { slot := k, frame := 0, segment := 1, walk := none }
      radio := { s.radio with stream := some out } }
  if s.radio.up then s else s.endStream .cut

/-- Formation of a candidate that may be granted (R105, R106). -/
def State.form (s : State) (c : Candidate) : State :=
  let i := c.station
  let r := s.station i
  let k := s.freeSlot.getD 0
  match c.kind with
  | .round =>
    let cls := s.liveClass r
    match State.formRound i cls.maxFrames (min r.deficit cls.maxAirtime) (s.liveRate r) r.queue [] 0 s with
    | ([], _, s') => s'
    | (frames, estimate, s') => s'.issue k i .round frames estimate
  | .poll =>
    match State.formPoll i (s.liveRate r) r.queue s with
    | (frames, estimate, s') => (s'.cancelPoll i).issue k i .poll frames estimate

/-- GRANT_FORMATION (R103 to R107): the candidacy ends, with a grant or without. A ROUND candidate not granted that is
eligible joins a list tail by its deficit. -/
def execGrantFormation (s : State) : Host.Outcome State Fault Refusal :=
  .next
    (match s.sched.candidate with
    | none => s
    | some c =>
      let s := s.setCandidate none
      if s.grantable c then s.form c
      else if c.kind = .round ∧ (s.station c.station).eligible then s.joinList c.station false
      else s)

/-! ### The Frame Feeder (R108 to R111) -/

/-- A frame section holds exactly the recorded length of bytes: those passed on, then zeros (R16, R109, R110). A clean walk
of a damaged descriptor may pass on another count of bytes, and its section is cut or filled up all the same (log 28). -/
def sectionOf (recorded : Nat) (bytes : List Byte) (trailer : Trailer) : Section :=
  let sent := bytes.take recorded
  { length := recorded, bytes := sent ++ zeros (recorded - sent.length), trailer := trailer }

/-- Where feeding comes to: the end of the frame list, a fault in frame `n`, or past a word of frame `n` with a
single-bit error. The fault comes with the descriptor as its walk read it and the bytes passed on before it. -/
inductive FeedStop where
  | finished
  | fault (n : Nat) (fr : GrantFrame) (read : Descriptor) (f : WalkFault) (bytes : List Byte)
  | corrected (n segment : Nat) (walk : FeedWalk)
  deriving DecidableEq, Repr

/-- The frames of a grant fed one after another (R109), from frame `n`, whose walk has come to a segment if it has begun:
the sections of the frames fed clean, and what stops the feeding (log 15). -/
def BufferManager.feedFrames (b : BufferManager) :
    List GrantFrame → Nat → Option (Nat × FeedWalk) → List Section × FeedStop
  | [], _, _ => ([], .finished)
  | fr :: rest, n, begun =>
    let w := begun.getD (1, (b.desc fr.desc).openWalk)
    match b.feedOn fr.desc w.1 w.2 with
    | .clean bytes =>
      let after := b.feedFrames rest (n + 1) none
      (sectionOf fr.length bytes .complete :: after.1, after.2)
    | .fault f bytes => ([], .fault n fr w.2.read f bytes)
    | .corrected segment walk => ([], .corrected n segment walk)

def State.sendSections (s : State) (sections : List Section) : State :=
  { s with radio := { s.radio with stream := s.radio.stream.map fun g => { g with sections := g.sections ++ sections } } }

/-- The grant the Feeder is streaming. -/
def State.fed (s : State) : Option (Feed × Grant) :=
  match s.feeder with
  | none => none
  | some f =>
    match s.slot f.slot with
    | none => none
    | some g => some (f, g)

/-- What the Feeder does next: the frames it feeds clean from its place on, and where that comes to. -/
def State.feedNext (s : State) (f : Feed) (g : Grant) : List Section × FeedStop :=
  s.bm.feedFrames (g.frames.drop f.frame) f.frame (f.walk.map fun w => (f.segment, w))

/-- A fault ends frame `fr` early (R110): marked by its disposal reason, its bad cell recorded (R29), reported with the
cookie read at the start of the walk (R163) and, if it is a chain fault, claimed (R164). -/
def State.markFault (s : State) (station : Nat) (fr : GrantFrame) (read : Descriptor) (f : WalkFault) : State :=
  let x := s.desc fr.desc
  if f.cause = .uncorrectable then
    (s.setDesc fr.desc { x with reason := some .memoryError, badCell := f.cell }).reportFault .feed station read.cookie f
  else
    ((s.setDesc fr.desc { x with reason := some .chainFault }).reportFault .feed station read.cookie f).claimFault .feed
      station

/-- FEED_FAULT (R110): the frames before frame `frame` are fed clean and the walk of that frame fails, at `cell` if the
fault names one. -/
def execFeedFault (frame : Nat) (cell : Option Nat) (s : State) : Host.Outcome State Fault Refusal :=
  .next
    (match s.fed with
    | none => s
    | some (f, g) =>
      match s.feedNext f g with
      | (sections, .fault n fr read fault bytes) =>
        if n = frame ∧ fault.cell = cell then
          { s.sendSections (sections ++ [sectionOf fr.length bytes .abort]) with
            feeder := some { f with frame := n + 1, segment := 1, walk := none } }.markFault g.station fr read fault
        else s
      | _ => s)

/-- STREAM_END (R111): the frames left are fed clean and the end delimiter has been sent. -/
def execStreamEnd (s : State) : Host.Outcome State Fault Refusal :=
  .next
    (match s.fed with
    | none => s
    | some (f, g) =>
      if s.radio.up then
        match s.feedNext f g with
        | (sections, .finished) => (s.sendSections sections).endStream .whole
        | _ => s
      else s)

/-- The word a walk has read last, by its address divided by 8. -/
def FeedWalk.lastWord (w : FeedWalk) : Option Nat :=
  w.rest.head?.map fun g => Config.cellWords * g.cell.toNat + (w.word - 1)

/-- CORRECTED_ECC_ERROR (R28): the next word in error that the Feeder's walk reads is `word`, with a single-bit error; it
is passed on corrected and counted, and not written back. -/
def execCorrectedEccError (word : Nat) (s : State) : Host.Outcome State Fault Refusal :=
  .next
    (match s.fed with
    | none => s
    | some (f, g) =>
      match s.feedNext f g with
      | (sections, .corrected n segment walk) =>
        if walk.lastWord = some word then
          { s.sendSections sections with
            feeder := some { f with frame := n, segment := segment, walk := some walk }
            ctr := { s.ctr with correctedEcc := addTo s.ctr.correctedEcc 1 } }
        else s
      | _ => s)

end Sys2Proof.Machine
end

