-- ==== Sys2Proof/Machine/AgeingAndPurge.lean ====
section
/-! DEFINITION. The Age Sweep and the Purge Engine (09 §9.2, 9.3). -/

namespace Sys2Proof.Machine

/-- SWEEP_TIMER (R151, R153): the timer has reached its interval; a pass begins or is held back, and the timer starts
again at the interval in the Options. -/
def execSweepTimer (s : State) : Host.Outcome State Fault Refusal :=
  .next
    (match s.sweep.timer with
    | none => s
    | some t =>
      if t.limit ≤ t.elapsed then
        { s with
          sweep :=
            { timer := some { limit := 1000 * s.rp.options.sweep, elapsed := 0 }
              position := some (s.sweep.position.getD 0)
              heldBack := s.sweep.heldBack || s.sweep.position.isSome } }
      else s)

/-- The expired head frames of a station are released, in order, until the head is unexpired (R152). -/
def State.sweepQueue (i : Nat) : List Nat → State → State
  | [], s => s
  | d :: rest, s =>
    if s.expired (s.station i) d then sweepQueue i rest ((s.popQueue i).release i d .expired) else s

/-- One visit, taken whole at the record, with its effect on the lists (R150, R152). -/
def State.sweepStation (s : State) (i : Nat) : State :=
  (State.sweepQueue i (s.station i).queue s).relist i (s.station i).eligible false

/-- The sweep after the visit to `i` (R152, R153). -/
def Sweep.advance (w : Sweep) (i : Nat) : Sweep :=
  if i + 1 < Config.stationCount then { w with position := some (i + 1) }
  else if w.heldBack then { w with position := some 0, heldBack := false }
  else { w with position := none }

/-- SWEEP_VISIT (R152). -/
def execSweepVisit (s : State) : Host.Outcome State Fault Refusal :=
  .next
    (match s.sweep.position with
    | none => s
    | some i =>
      let s := s.sweepStation i
      { s with sweep := s.sweep.advance i })

/-- The reason of a purpose (R154). -/
def Purpose.reason : Purpose → Reason
  | .stop => .stopped
  | .fault => .stationFault
  | .remove => .removed

/-- The head of the queue is released with a reason, with its effect on the lists (R155). -/
def State.purgeHead (s : State) (i : Nat) (reason : Reason) : State :=
  match (s.station i).queue with
  | [] => s
  | d :: _ => ((s.popQueue i).release i d reason).relist i (s.station i).eligible false

/-- The head entry leaves the Purge List (R156): the record is checked for teardown, the scheduler for OFF. -/
def State.purgeEntryLeaves (s : State) (i : Nat) : State :=
  ({ s with purge := s.purge.drop 1 }.checkTeardown i).checkStopped

/-- PURGE_STEP (R155). The events of the release come before STATION_FREED and STOPPED (log 27). -/
def execPurgeStep (s : State) : Host.Outcome State Fault Refusal :=
  .next
    (match s.purge with
    | [] => s
    | e :: _ =>
      let s := s.purgeHead e.station e.purpose.reason
      if (s.station e.station).queue = [] then s.purgeEntryLeaves e.station else s)

end Sys2Proof.Machine
end

