-- ==== Sys2Proof/Machine/Operands.lean ====
section
/-! DEFINITION. Reading what arrives: the checks of R4, the carrier header (12.1), and the bodies of frames and requests
(12.4, 12.5). A frame is the list of bytes between its delimiters. Reserved fields are not read (R192). -/

namespace Sys2Proof.Machine

/-! ### Carrier header -/

def frameKind (f : List Byte) : Byte := byteAt f 0
/-- The body length in the carrier header (12.1). -/
def frameBodyLength (f : List Byte) : Nat := fieldAt f 2 3
def frameCode (f : List Byte) : Byte := byteAt f 5
def frameTag (f : List Byte) : BitVec 16 := BitVec.ofNat 16 (fieldAt f 6 2)
/-- The body bytes received: what lies between the header and the frame check. -/
def frameBody (f : List Byte) : List Byte := (f.drop 8).take (f.length - 12)

/-- Kind codes (12.3). -/
def kindDown : Byte := 0x01
def kindRequest : Byte := 0x02
def kindDone : Byte := 0x31
def kindUp : Byte := 0x32
def kindNote : Byte := 0x33

/-- The two receiving directions (R3). -/
inductive Side where
  | system | radio
  deriving DecidableEq, Repr

/-- The kinds accepted in a direction (R3). -/
def Side.accepts : Side → Byte → Bool
  | .system, k => k == kindDown || k == kindRequest
  | .radio, k => k == kindDone || k == kindUp || k == kindNote

/-- The fixed part of a kind, in bytes (12.4, 12.5). -/
def fixedPart (k : Byte) : Nat :=
  if k = kindRequest then 0 else if k = kindNote then 4 else 8

/-- The checks of R4 in order: the cause of the first that fails, none for a sound frame. -/
def frameFault (side : Side) (f : List Byte) : Option ProtocolCause :=
  if f.length < 12 then some .badFrame
  else if beNat (f.drop (f.length - 4)) ≠ (crc32 (f.take (f.length - 4))).toNat then some .badFrame
  else if f.length - 12 ≠ frameBodyLength f then some .badFrame
  else if ¬ side.accepts (frameKind f) then some .badKind
  else if (frameBody f).length < fixedPart (frameKind f) then some .badBody
  else if frameKind f = kindNote ∧ ¬ (1 ≤ (byteAt (frameBody f) 0).toNat ∧ (byteAt (frameBody f) 0).toNat ≤ 5) then
    some .badBody
  else none

/-- A sound frame of a kind. -/
def sound (side : Side) (kind : Byte) (f : List Byte) : Bool := frameFault side f == none && frameKind f == kind

/-- A sound NOTE with a note code (12.3). -/
def soundNote (code : Nat) (f : List Byte) : Bool :=
  sound .radio kindNote f && (byteAt (frameBody f) 0).toNat == code

/-- The kind code found in the carrier header of a damaged frame (R15). -/
def reportedKind (f : List Byte) : Byte :=
  match f with
  | [] => Config.absentKindCode
  | k :: _ => k

/-! ### Bodies -/

/-- The Ingress Buffer entry of a DOWN frame (R7, 12.4). -/
def ingressEntryOf (f : List Byte) : IngressEntry :=
  let body := frameBody f
  { station := BitVec.ofNat 16 (fieldAt body 0 2)
    cookie := BitVec.ofNat 32 (fieldAt body 2 4)
    lifetime := BitVec.ofNat 16 (fieldAt body 6 2)
    declared := BitVec.ofNat 24 (body.length - 8)
    bytes := (body.drop 8).take Config.maxFrame }

/-- The request a REQUEST frame hands on (R6): over 1,024 body bytes, the header alone, marked over-length. -/
def requestOf (f : List Byte) : Request :=
  let body := frameBody f
  { code := frameCode f
    tag := frameTag f
    overLength := decide (Config.maxRequestBody < body.length)
    body := if Config.maxRequestBody < body.length then [] else body }

/-- The station index a NOTE carries (12.5). -/
def noteStation (f : List Byte) : Nat := fieldAt (frameBody f) 2 2

/-- The outcomes of 12.3. -/
inductive FrameOutcome where
  | acked | notAcked | notSent | discarded
  deriving DecidableEq, Repr

def FrameOutcome.ofByte (b : Byte) : Option FrameOutcome :=
  match b.toNat with
  | 0 => some .acked
  | 1 => some .notAcked
  | 2 => some .notSent
  | 3 => some .discarded
  | _ => none

/-- A DONE message (12.5). -/
structure DoneMsg where
  slot     : Byte
  serial   : Byte
  airtime  : Nat
  rate     : Byte
  outcomes : List Byte
  deriving DecidableEq, Repr

def doneOf (f : List Byte) : DoneMsg :=
  let body := frameBody f
  { slot := byteAt body 0, serial := byteAt body 1, airtime := fieldAt body 2 2, rate := byteAt body 4,
    outcomes := body.drop 8 }

/-- The outcomes of a list of bytes; none if one names no outcome (R113). -/
def outcomesOf : List Byte → Option (List FrameOutcome)
  | [] => some []
  | b :: rest =>
    match FrameOutcome.ofByte b, outcomesOf rest with
    | some o, some os => some (o :: os)
    | _, _ => none

/-- An UP message (12.5). -/
structure UpMessage where
  station : StationIndex
  airtime : BitVec 16
  rate    : Byte
  bytes   : List Byte
  deriving DecidableEq, Repr

def upMessageOf (f : List Byte) : UpMessage :=
  let body := frameBody f
  { station := BitVec.ofNat 16 (fieldAt body 0 2), airtime := BitVec.ofNat 16 (fieldAt body 2 2), rate := byteAt body 4,
    bytes := body.drop 8 }

/-! ### Requests -/

/-- The nineteen requests (12.3). -/
inductive RequestKind where
  | identify | setOptions | start | stop | freeze | thaw
  | stationProgram | stationRemove | stationHold | stationRelease | stationClearFault | stationRead | backlogMap
  | classWrite | rateWrite | tableCommit | tableRead | counterRead | partReset
  deriving DecidableEq, Repr

/-- The request a code names (12.3, R177 check 1). -/
def RequestKind.ofCode (code : Byte) : Option RequestKind :=
  match code.toNat with
  | 0x01 => some .identify
  | 0x02 => some .setOptions
  | 0x03 => some .start
  | 0x04 => some .stop
  | 0x05 => some .freeze
  | 0x06 => some .thaw
  | 0x10 => some .stationProgram
  | 0x11 => some .stationRemove
  | 0x12 => some .stationHold
  | 0x13 => some .stationRelease
  | 0x15 => some .stationClearFault
  | 0x16 => some .stationRead
  | 0x17 => some .backlogMap
  | 0x20 => some .classWrite
  | 0x21 => some .rateWrite
  | 0x22 => some .tableCommit
  | 0x23 => some .tableRead
  | 0x24 => some .counterRead
  | 0x3F => some .partReset
  | _ => none

/-- Check 4 of R177: the body length the request, and its entry count where it has one, calls for (12.4, R58, R77,
R79). -/
def RequestKind.lengthOk (k : RequestKind) (body : List Byte) : Bool :=
  let counted (at_ most fixed each : Nat) : Bool :=
    let n := (byteAt body at_).toNat
    decide (1 ≤ n ∧ n ≤ most ∧ body.length = fixed + each * n)
  match k with
  | .identify | .start | .stop | .freeze | .thaw | .backlogMap | .partReset => body.length == 0
  | .setOptions => body.length == 8
  | .stationProgram => counted 0 16 4 12
  | .stationRemove | .stationClearFault => counted 0 16 2 2
  | .stationHold | .stationRelease => body.length == 64
  | .stationRead => body.length == 6
  | .classWrite => counted 1 16 4 10
  | .rateWrite => counted 1 32 4 4
  | .tableCommit | .counterRead => body.length == 1
  | .tableRead => body.length == 4

/-- Validity by scheduler state (R178): the reason a request is refused with, none if it is valid. -/
def RequestKind.stateFault (k : RequestKind) (st : SchedState) : Option Reason :=
  match k with
  | .identify | .stationRead | .backlogMap | .tableRead | .counterRead | .partReset => none
  | .setOptions | .stationProgram | .stationRemove | .stationHold | .stationRelease | .stationClearFault
  | .classWrite | .rateWrite | .tableCommit => if st = .halted then some .badState else none
  | .start => if st = .off then none else some .badState
  | .stop | .freeze => if st.open then none else some .badState
  | .thaw =>
    match st with
    | .freezing | .frozen => none
    | .running => some .notFrozen
    | .off | .stopping | .halted => some .badState

/-- The Options a SET OPTIONS body carries, none if a value is outside its range (R180, R181). -/
def optionsOf (body : List Byte) : Option Options :=
  let slots := (byteAt body 2).toNat
  let timeout := (byteAt body 3).toNat
  let sweep := fieldAt body 4 2
  let limit := fieldAt body 6 2
  if (byteAt body 0).toNat ≤ 1 ∧ (byteAt body 1).toNat ≤ 1 ∧ 1 ≤ slots ∧ slots ≤ 4 ∧ 1 ≤ timeout ∧ timeout ≤ 255
      ∧ 10 ≤ sweep ∧ sweep ≤ 1000 ∧ 16 ≤ limit ∧ limit ≤ 1024 then
    some { format := if (byteAt body 0).toNat = 0 then .compact else .full
           lifetime := if (byteAt body 1).toNat = 0 then .honor else .ignore
           slots := slots, grantTimeout := timeout, sweep := sweep, retireLimit := limit }
  else none

/-- An entry of STATION PROGRAM whose fields are in range (R60, 12.4). -/
structure ProgramEntry where
  index    : Nat
  address  : BitVec 48
  cls      : Fin 8
  rate     : Fin 64
  rateLock : RateLock
  share    : Share
  deriving DecidableEq, Repr

def shareOf : Nat → Option Share
  | 0 => some .s0
  | 25 => some .s25
  | 50 => some .s50
  | 100 => some .s100
  | _ => none

def rateLockOf : Nat → Option RateLock
  | 0 => some .follow
  | 1 => some .locked
  | _ => none

/-- The station index entry `k` of a STATION PROGRAM carries, entries counted from 0. -/
def programIndex (body : List Byte) (k : Nat) : Nat := fieldAt body (4 + 12 * k) 2

/-- Checks 1 to 3 of R60 on entry `k`, counted from 0: the entry if they pass. -/
def programEntryOf (body : List Byte) (k : Nat) : Option ProgramEntry :=
  let at_ := 4 + 12 * k
  let cls := (byteAt body (at_ + 8)).toNat
  let rate := (byteAt body (at_ + 9)).toNat
  let address := fieldAt body (at_ + 2) 6
  if programIndex body k < Config.stationCount ∧ address ≠ 0 then
    if hc : cls < 8 then
      if hr : rate < 64 then
        match rateLockOf (byteAt body (at_ + 10)).toNat, shareOf (byteAt body (at_ + 11)).toNat with
        | some lock, some share =>
          some { index := programIndex body k, address := BitVec.ofNat 48 address, cls := ⟨cls, hc⟩, rate := ⟨rate, hr⟩,
                 rateLock := lock, share := share }
        | _, _ => none
      else none
    else none
  else none

/-- The station index entry `k` of a STATION REMOVE or STATION CLEAR FAULT carries, counted from 0. -/
def listIndex (body : List Byte) (k : Nat) : Nat := fieldAt body (2 + 2 * k) 2

/-- Class entry `k` of a CLASS WRITE, counted from 0 (12.4). -/
def classEntryOf (body : List Byte) (k : Nat) : ClassEntry :=
  let at_ := 4 + 10 * k
  { quantum := fieldAt body at_ 2, maxAirtime := fieldAt body (at_ + 2) 2, maxFrames := (byteAt body (at_ + 4)).toNat,
    queueLimit := fieldAt body (at_ + 6) 2, maxAge := fieldAt body (at_ + 8) 2 }

/-- The ranges of R75. -/
def ClassEntry.inRange (e : ClassEntry) : Bool :=
  decide (100 ≤ e.quantum ∧ e.quantum ≤ 20000 ∧ 200 ≤ e.maxAirtime ∧ e.maxAirtime ≤ 10000 ∧ 1 ≤ e.maxFrames
    ∧ e.maxFrames ≤ 64 ∧ 1 ≤ e.queueLimit ∧ e.queueLimit ≤ 1024 ∧ 10 ≤ e.maxAge ∧ e.maxAge ≤ 5000)

/-- Rate entry `k` of a RATE WRITE, counted from 0 (12.4). -/
def rateEntryOf (body : List Byte) (k : Nat) : RateEntry :=
  { overhead := fieldAt body (4 + 4 * k) 2, cost := fieldAt body (6 + 4 * k) 2 }

/-- The class that entry `k`, counted from 0, of a run from `start` reaches (R78, R186). -/
def classIndex (start k : Nat) : Nat := (start + k) % 8

/-- The rate code that entry `k`, counted from 0, of a run from `start` reaches: within the page of the start (R80,
R186). -/
def rateIndex (start k : Nat) : Nat := 16 * (start / 16) + (start - 16 * (start / 16) + k) % 16

/-- The station index report `k`, counted from 0, of a read reaches (R184). -/
def readIndex (start window k : Nat) : Nat :=
  if window = 0 then (start + k) % 512
  else window * (start / window) + (start - window * (start / window) + k) % window

end Sys2Proof.Machine
end

