-- ==== Sys2Proof/Machine/RadioLinkInterface.lean ====
section
/-! DEFINITION. The Radio Link Interface (01 §1.4) and the notes of the wireless MAC (04 §4.4, R141). -/

namespace Sys2Proof.Machine

/-! ### Link state -/

/-- RECEIVE_LOCK_CHANGE (R12): the count of the settle timer starts or starts again. -/
def execReceiveLockChange (lock : Bool) (s : State) : Host.Outcome State Fault Refusal :=
  .next (if s.radio.lock = lock then s else { s with radio := { s.radio with lock := lock, settle := 0 } })

/-- LINK_UP (R13, R142): lock has been held for 1 ms in DOWN. The RADIO_LINK event precedes the scheduler's own. -/
def execLinkUp (s : State) : Host.Outcome State Fault Refusal :=
  .next
    (if s.radio.up = false ∧ s.radio.lock = true ∧ Config.lockUpTime ≤ s.radio.settle then
      ({ s with radio := { s.radio with up := true, settle := 0 } }.record (.radioLink true)).removeCause .link
    else s)

/-- LINK_DOWN (R13, R142): lock has been lost for 100 us in UP. A partial message is discarded, a GRANT in progress is
cut, and LINK is added after the slot is SENT. -/
def execLinkDown (s : State) : Host.Outcome State Fault Refusal :=
  .next
    (if s.radio.up = true ∧ s.radio.lock = false ∧ Config.lockDownTime ≤ s.radio.settle then
      (({ s with
          radio := { s.radio with up := false, settle := 0 }
          uplink := { s.uplink with claim := none } }.record (.radioLink false)).endStream .cut).addCause .link
    else s)

/-- A Radio Link protocol error is counted and reported (R15, R113, R130). -/
def State.protocolError (s : State) (cause : ProtocolCause) (kind slot serial : Byte) (station : StationIndex) : State :=
  { s with ctr := { s.ctr with protocolErrors := addTo s.ctr.protocolErrors 1 } }.record
    (.radioProtocol cause kind slot serial station)

/-- RADIO_LINK_BAD_FRAME (R15, R126). -/
def execRadioLinkBadFrame (frame : List Byte) (s : State) : Host.Outcome State Fault Refusal :=
  .next
    (if s.inReset then s
    else
      match frameFault .radio frame with
      | none => s
      | some cause =>
        { s with uplink := { s.uplink with claim := none } }.protocolError cause (reportedKind frame) 0 0 0)

/-! ### Notes -/

/-- A note that is ignored is counted (R67). -/
def State.ignoreNote (s : State) : State :=
  { s with ctr := { s.ctr with notesIgnored := addTo s.ctr.notesIgnored 1 } }

/-- The admin state of the record a note names; FREE for an index of 512 or above, which is treated alike (R67). -/
def State.noteAdmin (s : State) (i : Nat) : Admin := if i < Config.stationCount then (s.station i).admin else .free

/-- A DOZE taken at its record (R67, R68). -/
def State.doze (s : State) (i : Nat) : State :=
  match s.noteAdmin i with
  | .free | .purging => s.ignoreNote
  | .faulted => s.setStation i { s.station i with power := .dozing }
  | .active => s.change i false fun r => { r with power := .dozing }

/-- A WAKE taken at its record (R67, R69): a pending poll is cancelled before the station may join a list. -/
def State.wake (s : State) (i : Nat) : State :=
  match s.noteAdmin i with
  | .free | .purging => s.ignoreNote
  | .faulted => s.setStation i { s.station i with power := .awake }
  | .active =>
    if (s.station i).power = .dozing then (s.cancelPoll i).change i false fun r => { r with power := .awake } else s

/-- A POLL taken at its record (R67, R70, R71). -/
def State.takePoll (s : State) (i : Nat) : State :=
  match s.noteAdmin i with
  | .free | .purging | .faulted => s.ignoreNote
  | .active =>
    if (s.station i).power = .dozing ∧ (s.station i).poll = false then
      { s.setStation i { s.station i with poll := true } with
        sched := { s.sched with pollQueue := s.sched.pollQueue ++ [i] } }
    else s.ignoreNote

/-- DOZE (R68). -/
def execDoze (frame : List Byte) (s : State) : Host.Outcome State Fault Refusal :=
  .next (if s.inReset ∨ ¬ soundNote 1 frame then s else s.doze (noteStation frame))

/-- WAKE (R69). -/
def execWake (frame : List Byte) (s : State) : Host.Outcome State Fault Refusal :=
  .next (if s.inReset ∨ ¬ soundNote 2 frame then s else s.wake (noteStation frame))

/-- POLL (R70). -/
def execPoll (frame : List Byte) (s : State) : Host.Outcome State Fault Refusal :=
  .next (if s.inReset ∨ ¬ soundNote 3 frame then s else s.takePoll (noteStation frame))

/-- MEDIUM_HOLD (R141). -/
def execMediumHold (frame : List Byte) (s : State) : Host.Outcome State Fault Refusal :=
  .next (if s.inReset ∨ ¬ soundNote 4 frame then s else s.addCause .radio)

/-- MEDIUM_RELEASE (R141). -/
def execMediumRelease (frame : List Byte) (s : State) : Host.Outcome State Fault Refusal :=
  .next (if s.inReset ∨ ¬ soundNote 5 frame then s else s.removeCause .radio)

end Sys2Proof.Machine
end

