-- ==== Sys2Proof/Machine/CompletionUnit.lean ====
section
/-! DEFINITION. DONE messages and grant timeouts (06 §6.5 to 6.7). -/

namespace Sys2Proof.Machine

/-- What becomes of an unmarked NOT_SENT frame (R115): none is requeued, otherwise the reason it is released with. -/
def State.notSentReason (s : State) (r : Station) : Option Reason :=
  if r.admin = .active ∧ s.sched.state.open then none
  else if r.admin = .purging then some .removed
  else if r.admin = .faulted then some .stationFault
  else some .stopped

/-- What becomes of a frame at a valid DONE (R114): its mark decides before its outcome. -/
def State.endReason (s : State) (r : Station) (d : Nat) (o : FrameOutcome) : Option Reason :=
  match (s.desc d).mark with
  | some m => some m
  | none =>
    match o with
    | .acked => some .delivered
    | .notAcked => some .failed
    | .discarded => some .failed
    | .notSent => s.notSentReason r

/-- The frames of a grant with what becomes of each, in grant order. -/
def State.endings (s : State) (r : Station) (frames : List GrantFrame) (outcomes : List FrameOutcome) :
    List (Nat × Option Reason) :=
  List.zipWith (fun fr o => (fr.desc, s.endReason r fr.desc o)) frames outcomes

/-- The frames that go back to the queue, in grant order. -/
def requeued (endings : List (Nat × Option Reason)) : List Nat :=
  (endings.filter fun e => e.2.isNone).map Prod.fst

/-- The frames that are released, in grant order. -/
def released : List (Nat × Option Reason) → List (Nat × Reason)
  | [] => []
  | (d, some reason) :: rest => (d, reason) :: released rest
  | (_, none) :: rest => released rest

/-- Requeued descriptors are QUEUED again (R115). -/
def State.queueAgain (s : State) : List Nat → State
  | [] => s
  | d :: rest => (s.setDesc d { s.desc d with place := .queued }).queueAgain rest

/-- The station's fields at a valid DONE (R115, R116): requeued frames ahead of the queue, the charge, the airtime
counter, the rate code under FOLLOW, and the fault flag of an ACTIVE station with no CHAIN_FAULT mark in the grant. -/
def Station.atDone (r : Station) (back : List Nat) (m : DoneMsg) (chainMark : Bool) : Station :=
  { r with
    queue := back ++ r.queue
    deficit := chargedDeficit r.deficit m.airtime
    counters := { r.counters with downlinkAirtime := addTo r.counters.downlinkAirtime m.airtime }
    rate := if h : r.rateLock = .follow ∧ m.rate.toNat < 64 then ⟨m.rate.toNat, h.2⟩ else r.rate
    faultFlag := r.faultFlag && !(r.admin == .active && !chainMark) }

/-- A frame of the grant carries a CHAIN_FAULT mark (R116). -/
def State.chainMarked (s : State) (frames : List GrantFrame) : Bool :=
  frames.any fun fr => (s.desc fr.desc).reason == some .chainFault

/-- Fault claims of this station's streams are taken before its valid DONE (R170, log 14). -/
def State.settleFeedClaims (s : State) (i : Nat) : State :=
  let mine := s.faultClaims.filter fun c => c.station == i && c.phase == .feed
  let rest := s.faultClaims.filter fun c => !(c.station == i && c.phase == .feed)
  mine.foldl State.takeClaim { s with faultClaims := rest }

/-- A valid DONE (R114 to R117), taken in one step at the slot, the record and its queue. -/
def State.validDone (s : State) (k : Nat) (g : Grant) (m : DoneMsg) (outcomes : List FrameOutcome) : State :=
  let s := s.settleFeedClaims g.station
  let endings := s.endings (s.station g.station) g.frames outcomes
  let back := requeued endings
  let r := (s.station g.station).atDone back m (s.chainMarked g.frames)
  (((s.queueAgain back).setStation g.station r).releases g.station (released endings)).closeSlot k g.station

/-- A late DONE is counted and reported (R113). -/
def State.lateDone (s : State) (m : DoneMsg) : State :=
  { s with ctr := { s.ctr with lateDones := addTo s.ctr.lateDones 1 } }.record (.lateDone m.slot m.serial)

/-- The test of R113. -/
def State.takeDone (s : State) (m : DoneMsg) : State :=
  match (if m.slot.toNat < Config.slotCount then s.slot m.slot.toNat else none) with
  | none => s.lateDone m
  | some g =>
    if g.serial ≠ m.serial then s.lateDone m
    else
      match g.stream with
      | .streaming => s.protocolError .earlyDone kindDone m.slot m.serial 0
      | .sent _ =>
        match (if m.outcomes.length = g.frames.length then outcomesOf m.outcomes else none) with
        | none => s.protocolError .badOutcomes kindDone m.slot m.serial 0
        | some outcomes => s.validDone m.slot.toNat g m outcomes

/-- DONE (R113). -/
def execDone (frame : List Byte) (s : State) : Host.Outcome State Fault Refusal :=
  .next (if s.inReset ∨ ¬ sound .radio kindDone frame then s else s.takeDone (doneOf frame))

/-- The reasons of a timeout (R118): the mark, or NO_COMPLETION. -/
def State.timeoutReasons (s : State) (frames : List GrantFrame) : List (Nat × Reason) :=
  frames.map fun fr => (fr.desc, (s.desc fr.desc).mark.getD .noCompletion)

/-- A grant ends by its timeout (R118): every frame released, the recorded estimate charged (R89). The events of the
releases come before those of the slot's freeing (log 27). -/
def State.timeout (s : State) (k : Nat) (g : Grant) : State :=
  let r := s.station g.station
  let reasons := s.timeoutReasons g.frames
  let s := s.setStation g.station { r with deficit := chargedDeficit r.deficit g.estimate }
  let s := { s with ctr := { s.ctr with grantTimeouts := addTo s.ctr.grantTimeouts 1 } }
  (s.releases g.station reasons).closeSlot k g.station

/-- GRANT_TIMEOUT (R118): the slot's timer has reached the timeout. -/
def execGrantTimeout (k : Nat) (s : State) : Host.Outcome State Fault Refusal :=
  .next
    (match s.slot k with
    | none => s
    | some g =>
      match g.stream with
      | .streaming => s
      | .sent t => if t.limit ≤ t.elapsed then s.timeout k g else s)

end Sys2Proof.Machine
end

