-- ==== Sys2Proof/Machine/DownlinkAdmission.lean ====
section
/-! DEFINITION. Downlink admission (03). -/

namespace Sys2Proof.Machine

/-- Frame bytes 0 to 5 equal the address, most significant byte first (R42). -/
def IngressEntry.addressIs (e : IngressEntry) (address : BitVec 48) : Bool :=
  beNat (e.bytes.take 6) == address.toNat

/-- Check 1 (R39). -/
def SchedState.admissionFault : SchedState → Option Reason
  | .running | .freezing | .frozen => none
  | .off | .stopping => some .notRunning
  | .halted => some .halted

/-- Check 2 (R40). -/
def IngressEntry.lengthFault (e : IngressEntry) : Option Reason :=
  if Config.minFrame ≤ e.declared.toNat ∧ e.declared.toNat ≤ Config.maxFrame then none else some .badLength

/-- Checks 3 to 7 in order (R41, R42, R43). -/
def State.stationFault (s : State) (e : IngressEntry) : Option Reason :=
  let i := e.station.toNat
  let r := s.station i
  if ¬ i < Config.stationCount ∨ r.admin = .free then some .unknownStation
  else if r.admin = .purging then some .stationBusy
  else if r.admin = .faulted then some .stationFaulted
  else if ¬ e.addressIs r.address then some .addressMismatch
  else if ¬ r.queue.length < (s.liveClass r).queueLimit then some .queueFull
  else none

/-- Checks 1 to 7 of the decision (R38): the reason of the first that fails. -/
def State.decisionFault (s : State) (e : IngressEntry) : Option Reason :=
  s.sched.state.admissionFault <|> e.lengthFault <|> s.stationFault e

/-- Checks 1 and 3 to 7, made again at the append (R49). -/
def State.appendFault (s : State) (e : IngressEntry) : Option Reason :=
  s.sched.state.admissionFault <|> s.stationFault e

/-- Admission of the head frame ends: its space is freed and the unit is IDLE (R8, R37). -/
def State.admissionEnds (s : State) : State :=
  { s with adm := .idle, rx := { s.rx with ingress := s.rx.ingress.drop 1 } }

/-- A refused frame of an index below 512 with a record that is not FREE is counted dropped (R45). -/
def State.countRefusal (s : State) (e : IngressEntry) : State :=
  if e.station.toNat < Config.stationCount then
    s.count e.station.toNat fun c => { c with framesDropped := addTo c.framesDropped 1 }
  else s

/-- The descriptor of a refused frame (R45). -/
def refusedDesc (e : IngressEntry) (reason : Reason) : Descriptor :=
  { Descriptor.cleared with
    cookie := e.cookie, station := e.station, length := e.declared, place := .disposal, reason := some reason }

/-- A refusal (R45): with a descriptor, the record goes to the Disposal List tail; with none free, the unit waits
(R46). -/
def State.refuse (s : State) (e : IngressEntry) (reason : Reason) : State :=
  match s.bm.claimToRefuse with
  | none => { s with adm := .waiting }
  | some (d, b) =>
    let s := s.withPools (b.setDesc d (refusedDesc e reason))
    ({ s with disposal := s.disposal ++ [d] }.countRefusal e).admissionEnds

/-- The descriptor of an accepted frame while it is written (R47, R48). -/
def acceptedDesc (e : IngressEntry) (cells : List Nat) : Descriptor :=
  { Descriptor.cleared with
    cookie := e.cookie, station := e.station, length := e.declared, lifetime := e.lifetime,
    segs := segmentsOver cells e.declared.toNat, place := .ingress }

/-- The decision on the head frame, taken whole (R38). -/
def State.decideAdmission (s : State) (e : IngressEntry) : State :=
  match s.decisionFault e with
  | some reason => s.refuse e reason
  | none =>
    match s.bm.claimToQueue e.declared.toNat with
    | none => s.refuse e .noBuffer
    | some (d, cells, b) => { s.withPools (b.setDesc d (acceptedDesc e cells)) with adm := .writing d }

/-- ADMISSION_DECISION (R37, R38): the unit is IDLE with a frame at the head. -/
def execAdmissionDecision (s : State) : Host.Outcome State Fault Refusal :=
  .next
    (match s.adm, s.rx.ingress with
    | .idle, e :: _ => s.decideAdmission e
    | _, _ => s)

/-- ADMISSION_RETRY (R46): the unit is WAITING and a descriptor is free again; the whole decision is made afresh. -/
def execAdmissionRetry (s : State) : Host.Outcome State Fault Refusal :=
  .next
    (match s.adm, s.rx.ingress with
    | .waiting, e :: _ => if s.bm.freeDescs.count = 0 then s else s.decideAdmission e
    | _, _ => s)

/-- An accepted frame joins its station's queue tail (R49), which can make the station eligible (R51). -/
def State.enqueue (s : State) (e : IngressEntry) (d : Nat) : State :=
  ((s.setDesc d { s.desc d with stamp := s.timeBase, place := .queued, parityOk := true }).change e.station.toNat false
    fun r => { r with queue := r.queue ++ [d] }).admissionEnds

/-- A late refusal (R50): the cells given back, no new descriptor claimed. -/
def State.refuseLate (s : State) (e : IngressEntry) (d : Nat) (reason : Reason) : State :=
  let s := s.withPools ((s.bm.giveBack d (s.desc d).segs).setDesc d (refusedDesc e reason))
  ({ s with disposal := s.disposal ++ [d] }.countRefusal e).admissionEnds

/-- APPEND (R47, R49): the write has ended. That the bytes enter packet memory in this step is log 16. -/
def execAppend (s : State) : Host.Outcome State Fault Refusal :=
  .next
    (match s.adm, s.rx.ingress with
    | .writing d, e :: _ =>
      let s := { s with bm := s.bm.store (s.desc d).segs e.bytes }
      match s.appendFault e with
      | none => s.enqueue e d
      | some reason => s.refuseLate e d reason
    | _, _ => s)

end Sys2Proof.Machine
end

