-- ==== Sys2Proof/Machine/FaultsAndReclaim.lean ====
section
/-! DEFINITION. Fault claims (R164) and the Reclaim Scan (R32). -/

namespace Sys2Proof.Machine

/-- FAULT_CLAIM (R164): the waiting claim at position `n` is taken at its record. -/
def execFaultClaim (n : Nat) (s : State) : Host.Outcome State Fault Refusal :=
  .next
    (match s.faultClaims[n]? with
    | none => s
    | some c => { s with faultClaims := s.faultClaims.eraseIdx n }.takeClaim c)

/-- RECLAIM_SCAN_START (R32, R163): the head descriptor is read once; a parity failure is reported and the scan goes on
with the fields as read. -/
def execReclaimScanStart (s : State) : Host.Outcome State Fault Refusal :=
  .next
    (match s.bm.scan, s.bm.reclaim with
    | none, d :: _ =>
      let x := s.desc d
      let s' := { s with bm := { s.bm with scan := some { desc := d, next := 0 } } }
      if x.parityOk then s'
      else s'.reportFault .reclaim x.station.toNat x.cookie { cause := .descParity, segment := 0, cell := none }
    | _, _ => s)

/-- RECLAIM_SCAN_VISIT (R32): the next owner entry is visited, and retired if it names the descriptor. -/
def execReclaimScanVisit (s : State) : Host.Outcome State Fault Refusal :=
  .next
    (match s.bm.scan with
    | none => s
    | some sc =>
      if sc.next < Config.cellCount then
        let b := if s.bm.owner sc.next = .desc sc.desc then s.bm.retireCell sc.next else s.bm
        s.withPools { b with scan := some { sc with next := sc.next + 1 } }
      else s)

/-- RECLAIM_SCAN_END (R32): entry 16383 has been visited; the descriptor joins the Disposal List. -/
def execReclaimScanEnd (s : State) : Host.Outcome State Fault Refusal :=
  .next
    (match s.bm.scan with
    | none => s
    | some sc =>
      if Config.cellCount ≤ sc.next then
        { s with bm := { s.bm with scan := none, reclaim := s.bm.reclaim.drop 1 } }.dispose sc.desc .chainFault
      else s)

end Sys2Proof.Machine
end

