-- ==== Sys2Proof/Machine/Layout.lean ====
section
/-! DEFINITION. Code values (12.3) and the byte layouts of what the part sends (12.1, 12.4, 12.5). -/

namespace Sys2Proof.Machine

/-! ### Codes -/

/-- 12.3, reasons: one code space for responses and disposal records. -/
def Reason.code : Reason → Nat
  | .unknownRequest => 0x01 | .badLength => 0x02 | .badState => 0x03 | .badField => 0x04 | .noCursor => 0x05
  | .rateUnset => 0x06 | .retireFull => 0x07 | .stationBusy => 0x08 | .stationFaulted => 0x09
  | .addressLocked => 0x0A | .notFaulted => 0x0B | .notFrozen => 0x0C | .unknownStation => 0x0D
  | .delivered => 0x20 | .failed => 0x21 | .noCompletion => 0x22 | .expired => 0x23 | .removed => 0x24
  | .stopped => 0x25 | .stationFault => 0x26 | .chainFault => 0x27 | .memoryError => 0x28
  | .notRunning => 0x30 | .halted => 0x31 | .addressMismatch => 0x32 | .queueFull => 0x33 | .noBuffer => 0x34

def optionReasonCode : Option Reason → Nat
  | none => 0
  | some r => r.code

def FaultCause.code : FaultCause → Nat
  | .descParity => 1 | .notPresent => 2 | .foreign => 3 | .badCount => 4 | .lengthMismatch => 5 | .uncorrectable => 6

def Phase.code : Phase → Nat
  | .feed => 1 | .release => 2 | .reclaim => 3

def ProtocolCause.code : ProtocolCause → Nat
  | .badFrame => 1 | .badKind => 2 | .badBody => 3 | .earlyDone => 4 | .badOutcomes => 5 | .upTooLong => 6

def SchedState.code : SchedState → Nat
  | .off => 0 | .running => 1 | .freezing => 2 | .frozen => 3 | .stopping => 4 | .halted => 5

def Admin.code : Admin → Nat
  | .free => 0 | .active => 1 | .purging => 2 | .faulted => 3

def Membership.code : Membership → Nat
  | .none => 0 | .entry => 1 | .round => 2

def GrantKind.code : GrantKind → Nat
  | .round => 1 | .poll => 2

def Trailer.code : Trailer → Nat
  | .complete => 1 | .abort => 2

def Status.code : Status → Nat
  | .accepted => 0 | .partly => 1 | .refused => 2

def ReportFormat.code : ReportFormat → Nat
  | .compact => 0 | .full => 1

def LifetimeMode.code : LifetimeMode → Nat
  | .honor => 0 | .ignore => 1

/-- Bit 0 HOST, bit 1 RADIO, bit 2 LINK. -/
def CauseSet.code (c : CauseSet) : Nat := c.host.toNat + 2 * c.radio.toNat + 4 * c.link.toNat

/-- A set holding one cause (THAWED, 12.4). -/
def Cause.code : Cause → Nat
  | .host => 1 | .radio => 2 | .link => 4

def Event.code : Event → Nat
  | .start _ _ => 1 | .frozen _ => 2 | .thawed _ => 3 | .stopped _ => 4 | .halted _ _ => 5
  | .stationFreed _ => 6 | .stationFaulted _ => 7 | .fault _ _ _ _ _ _ => 8 | .lateDone _ _ => 9
  | .radioProtocol _ _ _ _ _ => 10 | .radioLink _ => 11

/-! ### Bodies -/

/-- The twelve bytes of event fields from offset 4 of an EVENT body, before padding (12.4). -/
def Event.fields : Event → List Byte
  | .start power selfTest =>
    beBytes 1 (if power then 1 else 2) ++ beBytes 1 Config.revision ++ beBytes 2 Config.partCode
      ++ beBytes 2 selfTest.toNat
  | .frozen c => beBytes 1 c.code
  | .stopped c => beBytes 1 c.code
  | .thawed c => beBytes 1 c.code
  | .halted retired limit => beBytes 2 retired ++ beBytes 2 limit
  | .stationFreed i => beBytes 2 i
  | .stationFaulted i => beBytes 2 i
  | .fault cause phase station cookie cell segment =>
    beBytes 1 cause.code ++ beBytes 1 phase.code ++ beBytes 2 station ++ beBytes 4 cookie.toNat
      ++ beBytes 2 (cell.getD 0xFFFF) ++ beBytes 1 segment
  | .lateDone slot serial => [slot, serial]
  | .radioProtocol cause kind slot serial station =>
    beBytes 1 cause.code ++ [kind, slot, serial] ++ beBytes 2 station.toNat
  | .radioLink up => beBytes 1 up.toNat

/-- An EVENT body: 16 bytes, the rest reserved (12.4). -/
def EventRecord.bytes (e : EventRecord) : List Byte :=
  let used := beBytes 4 e.stamp.toNat ++ e.event.fields
  used ++ zeros (16 - used.length)

/-- A disposal record: 12 bytes (12.4). -/
def DisposalRecord.bytes (r : DisposalRecord) : List Byte :=
  beBytes 4 r.cookie.toNat ++ beBytes 2 r.station.toNat ++ beBytes 1 (optionReasonCode r.reason)
    ++ beBytes 3 r.length.toNat ++ zeros 2

/-- A RESPONSE body (12.4). -/
def Response.bytes (r : Response) : List Byte :=
  beBytes 1 r.status.code ++ beBytes 1 (optionReasonCode r.reason) ++ beBytes 1 r.done ++ zeros 1
    ++ beBytes 2 r.station ++ zeros 2 ++ r.result

/-- An UP frame's body (12.4). -/
def UpEntry.upBytes (e : UpEntry) : List Byte :=
  beBytes 2 e.station.toNat ++ beBytes 2 e.airtime.toNat ++ [e.rate] ++ zeros 1 ++ beBytes 4 e.charge
    ++ beBytes 4 e.stamp.toNat ++ zeros 2 ++ e.bytes

/-- The kind code of a frame to the network processor (12.3). -/
def OutBody.kind : OutBody → Byte
  | .up _ => 0x11
  | .response _ => 0x12
  | .event _ => 0x13
  | .disposal _ _ => 0x14
  | .pause _ _ _ => 0x15

def OutBody.bytes : OutBody → List Byte
  | .pause on freeGeneral freeCells =>
    beBytes 1 on.toNat ++ zeros 1 ++ beBytes 2 freeGeneral ++ beBytes 2 freeCells ++ zeros 2
  | .response r => r.bytes
  | .event e => e.bytes
  | .disposal stamp records =>
    beBytes 1 records.length ++ zeros 3 ++ beBytes 4 stamp.toNat ++ (records.map DisposalRecord.bytes).flatten
  | .up e => e.upBytes

/-- Carrier header bytes 5 to 7 (12.1): request or event code, and the tag. -/
def OutBody.words : OutBody → List Byte
  | .response r => [r.code] ++ beBytes 2 r.tag.toNat
  | .event e => beBytes 1 e.event.code ++ zeros 2
  | .pause _ _ _ => zeros 3
  | .disposal _ _ => zeros 3
  | .up _ => zeros 3

/-- A frame followed by its frame check (R1, R191). -/
def withCheck (frame : List Byte) : List Byte := frame ++ beBytes 4 (crc32 frame).toNat

/-- The bytes of a frame to the network processor between its delimiters (R1, R2, 12.1). -/
def OutFrame.bytes (f : OutFrame) : List Byte :=
  withCheck (f.body.kind :: beBytes 1 f.pauseFlag.toNat ++ beBytes 3 f.body.bytes.length ++ f.body.words ++ f.body.bytes)

/-! ### GRANT (12.5, R16) -/

/-- A frame section: recorded length, frame bytes, trailer. -/
def Section.wire (x : Section) : List Byte := beBytes 2 x.length ++ x.bytes ++ beBytes 1 x.trailer.code

/-- The body length of a GRANT, fixed when it begins (R1, R191). -/
def GrantOut.bodyLength (g : GrantOut) : Nat := 12 + (g.lengths.map fun n => 3 + n).sum

/-- The fixed part of a GRANT (12.5). -/
def GrantOut.fixedPart (g : GrantOut) : List Byte :=
  beBytes 1 g.slot ++ beBytes 1 g.serial.toNat ++ beBytes 2 g.station ++ beBytes 1 g.kind.code ++ beBytes 1 g.count
    ++ beBytes 4 g.estimate ++ zeros 2

/-- The bytes of a GRANT sent whole: header, fixed part, the sections sent, and the frame check (R16). -/
def GrantOut.wire (g : GrantOut) : List Byte :=
  withCheck ((0x21 : Byte) :: zeros 1 ++ beBytes 3 g.bodyLength ++ zeros 3 ++ g.fixedPart
    ++ (g.sections.map Section.wire).flatten)

/-! ### Results of requests (12.4) -/

/-- The eight bytes of the Options (12.4, SET OPTIONS). -/
def Options.bytes (o : Options) : List Byte :=
  beBytes 1 o.format.code ++ beBytes 1 o.lifetime.code ++ beBytes 1 o.slots ++ beBytes 1 o.grantTimeout
    ++ beBytes 2 o.sweep ++ beBytes 2 o.retireLimit

/-- The IDENTIFY result (R179). -/
def State.identity (s : State) : List Byte :=
  let o := s.rp.options
  beBytes 2 Config.partCode ++ beBytes 1 Config.revision ++ beBytes 1 s.sched.state.code
    ++ beBytes 1 s.sched.causes.code ++ beBytes 1 o.format.code ++ beBytes 1 o.lifetime.code ++ beBytes 1 o.slots
    ++ beBytes 1 o.grantTimeout ++ zeros 1 ++ beBytes 2 o.sweep ++ beBytes 2 o.retireLimit
    ++ beBytes 2 s.bm.retiredCount ++ beBytes 2 s.bm.selfTestResult.toNat ++ beBytes 4 s.timeBase.toNat
    ++ beBytes 2 s.rp.lost.toNat ++ beBytes 2 s.events.lost.toNat

/-- The counters of a report in their order (12.4). -/
def StationCounters.inOrder (c : StationCounters) : List Counter48 :=
  [c.downlinkAirtime, c.uplinkAirtime, c.framesDelivered, c.framesFailed, c.framesDropped, c.bytesDelivered, c.grants,
    c.uplinkDiscarded]

/-- A counter in the width of the report format: its low 32 bits, or all 48 in a 64-bit field (R185, R187). -/
def counterBytes (format : ReportFormat) (c : Counter48) : List Byte :=
  match format with
  | .compact => beBytes 4 (c.toNat % 2 ^ 32)
  | .full => beBytes 8 c.toNat

/-- Byte 5 of a station report. -/
def Station.flagByte (r : Station) : Nat :=
  128 * (r.rateLock == .locked).toNat + 64 * (r.power == .dozing).toNat + 32 * r.hold.toNat
    + 16 * r.faultFlag.toNat + 8 * r.poll.toNat

/-- A station report (R185, 12.4): 56 bytes COMPACT, 96 FULL. -/
def State.stationReport (s : State) (format : ReportFormat) (i : Nat) : List Byte :=
  let r := s.station i
  let headStamp := match r.queue with
    | [] => 0
    | d :: _ => (s.desc d).stamp.toNat
  beBytes 2 i ++ beBytes 1 r.admin.code ++ beBytes 1 r.cls.val ++ beBytes 1 r.rate.val ++ beBytes 1 r.flagByte
    ++ beBytes 1 r.share.percent ++ beBytes 1 r.list.code ++ beBytes 1 (r.slot.getD 0xFF) ++ zeros 1
    ++ beBytes 6 r.address.toNat ++ beBytes 4 (BitVec.ofInt 32 r.deficit).toNat ++ beBytes 2 r.queue.length ++ zeros 2
    ++ (r.counters.inOrder.map (counterBytes format)).flatten
    ++ (match format with
        | .compact => []
        | .full => beBytes 4 headStamp ++ zeros 4)

/-- The fields of a class entry as CLASS WRITE carries them (12.4). -/
def ClassEntry.bytes (e : ClassEntry) : List Byte :=
  beBytes 2 e.quantum ++ beBytes 2 e.maxAirtime ++ beBytes 1 e.maxFrames ++ zeros 1 ++ beBytes 2 e.queueLimit
    ++ beBytes 2 e.maxAge

/-- The fields of a rate entry as RATE WRITE carries them (12.4). -/
def RateEntry.bytes (e : RateEntry) : List Byte := beBytes 2 e.overhead ++ beBytes 2 e.cost

/-- The part-wide counters in the order of R187. -/
def PartCounters.inOrder (c : PartCounters) : List Counter48 :=
  [c.badFrames, c.ingressFull, c.grantsIssued, c.grantTimeouts, c.lateDones, c.protocolErrors, c.unknownUplink,
    c.notesIgnored, c.correctedEcc, c.chainFaults, c.memoryFaults]

end Sys2Proof.Machine
end

