-- ==== Sys2Proof/Machine/Requests.lean ====
section
/-! DEFINITION. The Request Processor: taking and checking a request, its three kinds of response, and requests executed
claim by claim (04 §4.3, 11 §11.1, 11.2). -/

namespace Sys2Proof.Machine

/-! ### Responses (R176) -/

/-- ACCEPTED: byte 2 and bytes 4 to 5, which 12.4 gives for other responses, are 0 (log 29). -/
def Request.accepted (q : Request) (result : List Byte) : Response :=
  { code := q.code, tag := q.tag, status := .accepted, reason := none, done := 0, station := 0, result := result }

/-- REFUSED: byte 2 is 0, and so are bytes 4 to 5 but for RATE_UNSET (log 29). -/
def Request.refused (q : Request) (reason : Reason) : Response :=
  { code := q.code, tag := q.tag, status := .refused, reason := some reason, done := 0, station := 0, result := [] }

/-- PARTIAL (R58): the entries done, the failing entry's station index, its reason. -/
def Request.partly (q : Request) (done station : Nat) (reason : Reason) : Response :=
  { code := q.code, tag := q.tag, status := .partly, reason := some reason, done := done, station := station,
    result := [] }

/-! ### Taking and checking (R176, R177) -/

/-- The Request Processor can take a request: it holds none and no response, and PART RESET has not been answered. -/
def RequestProcessor.idle (p : RequestProcessor) : Bool := p.executing.isNone && p.held.isNone && !p.stopped

/-- The head of the Request Queue is taken, if it is a request of kind `k` and one can be taken. -/
def State.takeRequest (s : State) (k : Option RequestKind) : Option (Request × State) :=
  if s.rp.idle then
    match s.rp.queue with
    | q :: rest =>
      if RequestKind.ofCode q.code = k then some (q, { s with rp := { s.rp with queue := rest } }) else none
    | [] => none
  else none

/-- Checks 2 to 4 of R177. -/
def requestFault (k : RequestKind) (q : Request) (st : SchedState) : Option Reason :=
  (if q.overLength then some .badLength else none) <|> k.stateFault st
    <|> (if k.lengthOk q.body then none else some .badLength)

/-- A request executed in one step: refused whole by checks 2 to 4, else run. -/
def State.request (s : State) (k : RequestKind) (run : Request → State → State) : State :=
  match s.takeRequest (some k) with
  | none => s
  | some (q, s) =>
    match requestFault k q s.sched.state with
    | some reason => s.finish (q.refused reason) none
    | none => run q s

/-! ### Requests executed claim by claim (R59) -/

/-- At most `n` claims of the request in execution; fewer when it is answered before. -/
def State.claims (claim : Execution → State → State) : Nat → State → State
  | 0, s => s
  | n + 1, s =>
    match s.rp.executing with
    | none => s
    | some e => State.claims claim n (claim e s)

/-- A request executed claim by claim: taken, checked and begun, or gone on with, by at most `n` claims. `fields` are its
own checks on the whole request (check 5 of R177). -/
def State.claimRequest (s : State) (k : RequestKind) (fields : Request → State → Option Reason)
    (claim : Execution → State → State) (n : Nat) : State :=
  match s.rp.executing with
  | some e => if RequestKind.ofCode e.request.code = some k then State.claims claim n s else s
  | none =>
    match s.takeRequest (some k) with
    | none => s
    | some (q, s) =>
      match requestFault k q s.sched.state <|> fields q s with
      | some reason => s.finish (q.refused reason) none
      | none =>
        State.claims claim n { s with rp := { s.rp with executing := some { request := q, done := 0, out := [] } } }

/-- One claim done, with the bytes it adds to the report. -/
def State.progress (s : State) (e : Execution) (out : List Byte) : State :=
  { s with rp := { s.rp with executing := some { e with done := e.done + 1, out := e.out ++ out } } }

/-- No check of its own. -/
def noFields (_ : Request) (_ : State) : Option Reason := none

/-- One entry of an entry-by-entry request (R58): its effect and the next entry, or ACCEPTED after the last, or PARTIAL
when it fails. `entries` is the request's entry count and `index` the station index the entry carries. -/
def State.entryClaim (s : State) (e : Execution) (entries index : Nat) (result : Except Reason State) : State :=
  match result with
  | .error reason => s.finish (e.request.partly e.done index reason) none
  | .ok s' =>
    if entries ≤ e.done + 1 then s'.finish (e.request.accepted []) none else s'.progress e []

/-- UNKNOWN_REQUEST (R177): the head request's code names none of the nineteen. -/
def execUnknownRequest (s : State) : Host.Outcome State Fault Refusal :=
  .next
    (match s.takeRequest none with
    | none => s
    | some (q, s) => s.finish (q.refused .unknownRequest) none)

end Sys2Proof.Machine
end

