-- ==== Sys2Proof/Machine/Reset.lean ====
section
/-! DEFINITION. POWER_ON_RESET, SELF_TEST, SOFT_RESET (R34, R188, R189). -/

namespace Sys2Proof.Machine

/-- POWER_ON_RESET (R189): every block at its reset values, the link DOWN. With the SELFTEST strap low the START event is
placed at once; with it high the self-test runs and the reset ends with it (R34). -/
def execPowerOnReset (selfTest : Bool) (s : State) : Host.Outcome State Fault Refusal :=
  let blocks := State.blocksReset s.pending s.radio.lock false s.bm.mem s.bm.ecc s.freeCtr
  .next (if selfTest then blocks else blocks.endReset true)

/-- The Cell Owner Table with the failed cells RETIRED (R34). -/
def retiredCells : List Nat → Table Owner
  | [] => []
  | c :: rest =>
    if c < Config.cellCount then Table.set Owner.free (retiredCells rest) c .retired else retiredCells rest

/-- Packet memory when the test ends (R34): every passing cell holds the complement of the pattern; what a failed cell
holds is a free value (log 30). -/
def testedByte (failed : List Nat) (n a : Nat) : Byte :=
  if a / Config.cellBytes ∈ failed then Config.failedByte n a else ~~~ Config.selfTestPattern a

/-- The codes when the test ends: its writes store them with the data (R28), and a word of a passing cell showed no error
(R34). -/
def testedWord (failed : List Nat) (n w : Nat) : Ecc :=
  if w / Config.cellWords ∈ failed then Config.failedWord n w else .sound

/-- The Buffer Manager when the test ends (R34), with `n` the free-value counter: the failed cells retired, the free cell
list holding the others in ascending order, the result their number, every word written. -/
def BufferManager.tested (b : BufferManager) (failed : List Nat) (n : Nat) : BufferManager :=
  let owners := retiredCells failed
  { b with
    owners := owners
    freeCells := Runs.gaps Config.cellCount owners 0
    selfTestResult := BitVec.ofNat 16 owners.length
    mem := Table.tabulate Memory.blank (Config.cellCount * Config.cellBytes) (testedByte failed n)
    ecc := Table.tabulate Ecc.sound (Config.cellCount * Config.cellWords) (testedWord failed n) }

/-- SELF_TEST (R34): the test that a power-on reset runs ends, and the reset with it (R189). -/
def execSelfTest (failed : List Nat) (s : State) : Host.Outcome State Fault Refusal :=
  .next
    (if s.inReset then
      { s with bm := s.bm.tested failed s.freeCtr, freeCtr := s.freeCtr + 1 }.endReset true
    else s)

/-- The ACCEPTED response to PART RESET is on the line (R188). -/
def State.partResetOnLine (s : State) : Bool :=
  match s.tx.line with
  | some f => match f.body with
    | .response _ => f.ownEnd
    | _ => false
  | none => false

/-- SOFT_RESET (R188): taken when the last byte of the response to PART RESET has been sent. The link state is kept. -/
def execSoftReset (s : State) : Host.Outcome State Fault Refusal :=
  .next
    (if s.partResetOnLine then
      (State.blocksReset s.pending s.radio.lock s.radio.up s.bm.mem s.bm.ecc s.freeCtr).endReset false
    else s)

end Sys2Proof.Machine
end

