-- ==== Sys2Proof/Machine/SchedulerRequests.lean ====
section
/-! DEFINITION. IDENTIFY, SET OPTIONS, START, STOP, FREEZE, THAW, PART RESET (08, 11 §11.3, 11.6). -/

namespace Sys2Proof.Machine

/-- IDENTIFY (R179). -/
def execIdentify (s : State) : Host.Outcome State Fault Refusal :=
  .next (s.request .identify fun q s => s.finish (q.accepted s.identity) none)

/-- The Options written in one step, a change of the retire limit handed to the scheduler (R181). -/
def State.writeOptions (s : State) (o : Options) : State :=
  let s' := { s with rp := { s.rp with options := o } }
  if o.retireLimit = s.rp.options.retireLimit then s' else s'.checkRetired

/-- SET OPTIONS (R181). -/
def execSetOptions (s : State) : Host.Outcome State Fault Refusal :=
  .next
    (s.request .setOptions fun q s =>
      match optionsOf q.body with
      | none => s.finish (q.refused .badField) none
      | some o =>
        if o.slots ≠ s.rp.options.slots ∧ s.sched.state ≠ .off then s.finish (q.refused .badState) none
        else (s.writeOptions o).finish (q.accepted o.bytes) none)

/-- The lowest ACTIVE station whose rate code is unset in the live Rate Table (R138). -/
def State.unsetStation (s : State) : Option Nat :=
  (List.range Config.stationCount).find? fun i =>
    (s.station i).admin == .active && (s.liveRate (s.station i)).cost == 0

/-- START taken in OFF (R138): RUNNING with no cause present, FROZEN otherwise. -/
def State.startScheduler (s : State) : State :=
  if s.sched.causes.isEmpty then s.setSched .running else s.enterFrozen

/-- START (R138). -/
def execStart (s : State) : Host.Outcome State Fault Refusal :=
  .next
    (s.request .start fun q s =>
      match s.unsetStation with
      | some i => s.finish { q.refused .rateUnset with station := i } none
      | none =>
        if s.rp.options.retireLimit ≤ s.bm.retiredCount then s.finish (q.refused .retireFull) none
        else
          let s := s.startScheduler
          s.finish (q.accepted (beBytes 1 s.sched.state.code)) none)

/-- Every station with a non-empty queue asks for a STOP entry, in ascending index (R143). -/
def State.purgeForStop (s : State) : List PurgeEntry :=
  (List.range Config.stationCount).foldl
    (fun list i => if (s.station i).queue = [] then list else askPurge list i .stop) s.purge

/-- STOP taken (R143): STOPPING, or OFF at once if nothing is left to wait for (R144). -/
def State.stopScheduler (s : State) : State :=
  ({ s with purge := s.purgeForStop }.setSched .stopping).checkStopped

/-- STOP (R143). -/
def execStop (s : State) : Host.Outcome State Fault Refusal :=
  .next
    (s.request .stop fun q s =>
      let s := s.stopScheduler
      s.finish (q.accepted (beBytes 1 s.sched.state.code)) none)

/-- The result of FREEZE and THAW: the state after the step and the cause set (R139, R140). -/
def State.freezeResult (s : State) : List Byte := beBytes 1 s.sched.state.code ++ beBytes 1 s.sched.causes.code

/-- FREEZE (R139). -/
def execFreeze (s : State) : Host.Outcome State Fault Refusal :=
  .next
    (s.request .freeze fun q s =>
      let s := s.addCause .host
      s.finish (q.accepted s.freezeResult) none)

/-- THAW (R140). -/
def execThaw (s : State) : Host.Outcome State Fault Refusal :=
  .next
    (s.request .thaw fun q s =>
      let s := s.removeCause .host
      s.finish (q.accepted s.freezeResult) none)

/-- PART RESET (R188): answered, and no further request is taken. -/
def execPartReset (s : State) : Host.Outcome State Fault Refusal :=
  .next
    (s.request .partReset fun q s =>
      { s with rp := { s.rp with stopped := true } }.finish (q.accepted []) none)

end Sys2Proof.Machine
end

