-- ==== Sys2Proof/Machine/StationRequests.lean ====
section
/-! DEFINITION. The requests that act on station records (04 §4.3) and those that read them (11 §11.4, R74). -/

namespace Sys2Proof.Machine

/-- The effect on a FREE record (R61). -/
def ProgramEntry.fresh (p : ProgramEntry) : Station :=
  { Station.free with
    admin := .active, address := p.address, cls := p.cls, rate := p.rate, rateLock := p.rateLock, share := p.share }

/-- The effect on an ACTIVE record (R62): a class change clamps the deficit to the new class's quantum. -/
def State.reprogrammed (s : State) (r : Station) (p : ProgramEntry) : Station :=
  let quantum : Int := (Table.get ClassEntry.default s.sched.liveClass p.cls.val).quantum
  { r with
    cls := p.cls, rate := p.rate, rateLock := p.rateLock, share := p.share
    deficit := if p.cls ≠ r.cls then min r.deficit quantum else r.deficit }

/-- One STATION PROGRAM entry (R60): checks 1 to 3 are those of `programEntryOf`. -/
def State.programEntry (s : State) (body : List Byte) (k : Nat) : Except Reason State :=
  match programEntryOf body k with
  | none => .error .badField
  | some p =>
    let r := s.station p.index
    match r.admin with
    | .purging => .error .stationBusy
    | .faulted => .error .stationFaulted
    | .free => .ok (s.setStation p.index p.fresh)
    | .active =>
      if r.address = p.address then .ok (s.setStation p.index (s.reprogrammed r p)) else .error .addressLocked

/-- STATION PROGRAM (R58, R60). -/
def execStationProgram (n : Nat) (s : State) : Host.Outcome State Fault Refusal :=
  .next
    (s.claimRequest .stationProgram noFields
      (fun e s =>
        let body := e.request.body
        s.entryClaim e (byteAt body 0).toNat (programIndex body e.done) (s.programEntry body e.done)) n)

/-- The station is asked to be purged, an upgrade from STOP handed to the scheduler (R154, R144). -/
def State.listForPurge (s : State) (i : Nat) (p : Purpose) : State :=
  let s' := { s with purge := askPurge s.purge i p }
  if upgradesStop s.purge i p then s'.checkStopped else s'

/-- One STATION REMOVE entry (R63). -/
def State.removeEntry (s : State) (i : Nat) : Except Reason State :=
  if ¬ i < Config.stationCount then .error .unknownStation
  else
    match (s.station i).admin with
    | .free => .error .unknownStation
    | .purging => .ok s
    | .active | .faulted =>
      .ok (((s.change i false fun r => { r with admin := .purging }).cancelPoll i).listForPurge i .remove)

/-- STATION REMOVE (R58, R63). -/
def execStationRemove (n : Nat) (s : State) : Host.Outcome State Fault Refusal :=
  .next
    (s.claimRequest .stationRemove noFields
      (fun e s =>
        let i := listIndex e.request.body e.done
        s.entryClaim e (byteAt e.request.body 0).toNat i (s.removeEntry i)) n)

/-- One position of a hold or release map (R64, R65): a set position with a record that is not FREE. -/
def State.holdPosition (s : State) (i : Nat) (marked hold : Bool) : State :=
  if marked = true ∧ (s.station i).admin ≠ .free then s.change i false fun r => { r with hold := hold } else s

/-- One map position done, ACCEPTED after the last (R64, R65). -/
def State.positionClaim (s : State) (e : Execution) (hold : Bool) : State :=
  let s' := s.holdPosition e.done (mapBit e.request.body e.done) hold
  if Config.stationCount ≤ e.done + 1 then s'.finish (e.request.accepted []) none else s'.progress e []

/-- STATION HOLD (R64). -/
def execStationHold (n : Nat) (s : State) : Host.Outcome State Fault Refusal :=
  .next (s.claimRequest .stationHold noFields (fun e s => s.positionClaim e true) n)

/-- STATION RELEASE (R65). -/
def execStationRelease (n : Nat) (s : State) : Host.Outcome State Fault Refusal :=
  .next (s.claimRequest .stationRelease noFields (fun e s => s.positionClaim e false) n)

/-- One STATION CLEAR FAULT entry (R66). -/
def State.clearEntry (s : State) (i : Nat) : Except Reason State :=
  if ¬ i < Config.stationCount then .error .unknownStation
  else
    let r := s.station i
    match r.admin with
    | .free => .error .unknownStation
    | .purging => .error .stationBusy
    | .faulted =>
      if s.onPurgeList i ∨ r.slot ≠ none then .error .stationBusy
      else .ok (s.change i false fun r => { r with admin := .active, faultFlag := false, deficit := 0 })
    | .active =>
      if r.faultFlag then .ok (s.setStation i { r with faultFlag := false }) else .error .notFaulted

/-- STATION CLEAR FAULT (R58, R66). -/
def execStationClearFault (n : Nat) (s : State) : Host.Outcome State Fault Refusal :=
  .next
    (s.claimRequest .stationClearFault noFields
      (fun e s =>
        let i := listIndex e.request.body e.done
        s.entryClaim e (byteAt e.request.body 0).toNat i (s.clearEntry i)) n)

/-! ### STATION READ (R182 to R185) -/

/-- The start field that means "from cursor" (R192). -/
def fromCursor (body : List Byte) : Bool := fieldAt body 0 2 == 0xFFFF

/-- The field checks of R182. -/
def readFields (q : Request) (s : State) : Option Reason :=
  let count := (byteAt q.body 2).toNat
  let most := match s.rp.options.format with
    | .compact => 32
    | .full => 8
  if ¬ (1 ≤ count ∧ count ≤ most) then some .badField
  else if fromCursor q.body then (if s.rp.cursor.isNone then some .noCursor else none)
  else if ¬ fieldAt q.body 0 2 < Config.stationCount ∨ (byteAt q.body 3).toNat ∉ [0, 8, 16, 32, 64] then some .badField
  else none

/-- The start index and the window of a read (R182). -/
def readStart (body : List Byte) (cursor : Option Cursor) : Nat × Nat :=
  if fromCursor body then
    match cursor with
    | some c => (c.next, c.window)
    | none => (0, 0)
  else (fieldAt body 0 2, (byteAt body 3).toNat)

/-- The counters of a reported record are set to 0 in the step of its report (R185). -/
def State.clearCounters (s : State) (i : Nat) : State :=
  if (s.station i).admin = .free then s else s.setStation i { s.station i with counters := StationCounters.zero }

/-- One report of a read (R185), and the response with the cursor after the last (R183). -/
def State.readClaim (s : State) (e : Execution) : State :=
  let body := e.request.body
  let (start, window) := readStart body s.rp.cursor
  let count := (byteAt body 2).toNat
  let format := s.rp.options.format
  let i := readIndex start window e.done
  let out := s.stationReport format i
  let s' := if (byteAt body 5).toNat ≠ 0 then s.clearCounters i else s
  if count ≤ e.done + 1 then
    s'.finish (e.request.accepted (beBytes 1 count ++ beBytes 1 format.code ++ zeros 2 ++ e.out ++ out))
      (if (byteAt body 4).toNat ≠ 0 then some { next := readIndex start window count, window := window } else none)
  else s'.progress e out

/-- STATION READ (R182 to R185). -/
def execStationRead (n : Nat) (s : State) : Host.Outcome State Fault Refusal :=
  .next (s.claimRequest .stationRead readFields (fun e s => s.readClaim e) n)

/-- The backlog map and the hold map, of one instant (R74). -/
def State.backlog (s : State) : List Byte :=
  mapBytes 64 (fun i => !(s.station i).queue.isEmpty) ++ mapBytes 64 (fun i => (s.station i).hold)

/-- BACKLOG MAP (R74). -/
def execBacklogMap (s : State) : Host.Outcome State Fault Refusal :=
  .next (s.request .backlogMap fun q s => s.finish (q.accepted s.backlog) none)

end Sys2Proof.Machine
end

