-- ==== Sys2Proof/Machine/SystemLink.lean ====
section
/-! DEFINITION. The System Link: receiver and transmitter (01 §1.1 to 1.3, R161, R175). -/

namespace Sys2Proof.Machine

/-! ### Receiver -/

/-- The space a frame with this carrier header is treated as needing (R7). -/
def headerSpace (header : List Byte) : Nat := 8 + keptBody (frameBodyLength header)

/-- INGRESS_SPACE_CLAIM (R7): every header but a REQUEST's claims space, which is set aside if it is free. -/
def execIngressSpaceClaim (header : List Byte) (s : State) : Host.Outcome State Fault Refusal :=
  .next
    (if s.inReset ∨ header.length ≠ 8 ∨ frameKind header = kindRequest ∨ s.rx.claim.isSome then s
    else if headerSpace header ≤ s.rx.freeSpace then
      { s with rx := { s.rx with claim := some (headerSpace header) } }
    else s)

/-- DOWN_FRAME_RECEIVED (R7): the frame takes the space set aside for it, or is counted as ingress-full. -/
def execDownFrameReceived (frame : List Byte) (s : State) : Host.Outcome State Fault Refusal :=
  .next
    (if s.inReset ∨ ¬ sound .system kindDown frame then s
    else
      match s.rx.claim with
      | none => { s with ctr := { s.ctr with ingressFull := addTo s.ctr.ingressFull 1 } }
      | some space =>
        if space = (ingressEntryOf frame).space then
          { s with rx := { ingress := s.rx.ingress ++ [ingressEntryOf frame], claim := none } }
        else s)

/-- REQUEST_FRAME_RECEIVED (R6, R175). -/
def execRequestFrameReceived (frame : List Byte) (s : State) : Host.Outcome State Fault Refusal :=
  .next
    (if s.inReset ∨ ¬ sound .system kindRequest frame then s
    else if s.rp.queue.length < Config.requestPlaces then
      { s with rp := { s.rp with queue := s.rp.queue ++ [requestOf frame] } }
    else { s with rp := { s.rp with lost := saturate16 s.rp.lost } })

/-- SYSTEM_LINK_BAD_FRAME (R5, R7): discarded and counted once, its space freed. -/
def execSystemLinkBadFrame (frame : List Byte) (s : State) : Host.Outcome State Fault Refusal :=
  .next
    (if s.inReset ∨ (frameFault .system frame).isNone then s
    else
      { s with
        rx := { s.rx with claim := none }
        ctr := { s.ctr with badFrames := addTo s.ctr.badFrames 1 } })

/-! ### Transmitter -/

/-- A frame starts with the PAUSE state last sent in its flags (R2). -/
def State.startFrame (s : State) (body : OutBody) : State :=
  { s with tx := { s.tx with line := some { pauseFlag := s.tx.pauseSent, body := body } } }

/-- A frame whose end is no command of its own has been sent (log 10); the transmitter then holds no unsent response
(R176), and takes the one that is kept before it chooses (log 31). -/
def State.lineEnded (s : State) : State :=
  match s.tx.line with
  | none => s
  | some f =>
    match f.body with
    | .response _ => { s with tx := { s.tx with line := none, response := none } }.handOver
    | _ => { s with tx := { s.tx with line := none } }

/-- The head event leaves the queue as its frame starts (R11). -/
def State.startEvent (s : State) : State :=
  match s.events.records with
  | [] => s
  | e :: rest => { s with events := { s.events with records := rest } }.startFrame (.event e)

/-- The PAUSE state last sent becomes the state wanted as the frame starts (R10). -/
def State.startPause (s : State) : State :=
  { s with tx := { s.tx with pauseSent := s.bm.pauseWanted } }.startFrame
    (.pause s.bm.pauseWanted s.bm.freeGeneral s.bm.freeCellCount)

/-- The record of a descriptor (R161). -/
def State.disposalRecord (s : State) (d : Nat) : DisposalRecord :=
  let x := s.desc d
  { cookie := x.cookie, station := x.station, reason := x.reason, length := x.length }

/-- One DISPOSAL message of the oldest records, at most 32 (R161). -/
def State.startDisposal (s : State) : State :=
  { s with tx := { s.tx with mark := .disposal } }.startFrame
    (.disposal s.timeBase ((s.disposal.take Config.disposalRecords).map s.disposalRecord))

/-- The oldest Uplink Buffer entry as an UP frame (R11, R131). -/
def State.startUp (s : State) : State :=
  match s.uplink.entries with
  | [] => s
  | e :: _ => { s with tx := { s.tx with mark := .up } }.startFrame (.up e)

/-- Priority 4: the kind the mark does not name when both wait, else the one that waits (R9). -/
def State.startTraffic (s : State) : State :=
  if s.disposal = [] then s.startUp
  else if s.uplink.entries = [] then s.startDisposal
  else if s.tx.mark = .up then s.startDisposal
  else s.startUp

/-- The choice by the order of R9; the START event goes first of all (R11, log 12). -/
def State.chooseFrame (s : State) : State :=
  if s.events.startFirst then s.startEvent
  else if s.bm.pauseWanted ≠ s.tx.pauseSent then s.startPause
  else
    match s.tx.response with
    | some r => s.startFrame (.response r)
    | none => if s.events.records = [] then s.startTraffic else s.startEvent

/-- TRANSMITTER_CHOICE (R9): taken when the line is idle, or holds a frame whose end the table gives no command. -/
def execTransmitterChoice (s : State) : Host.Outcome State Fault Refusal :=
  .next
    (match s.tx.line with
    | none => s.chooseFrame
    | some f => if f.ownEnd then s else s.lineEnded.chooseFrame)

/-- DISPOSAL_MESSAGE_SENT (R161, R19): the descriptors of the message return and the PAUSE state is evaluated. -/
def execDisposalMessageSent (s : State) : Host.Outcome State Fault Refusal :=
  .next
    (match s.tx.line with
    | some { pauseFlag := _, body := .disposal _ records } =>
      { s with
        tx := { s.tx with line := none }
        disposal := s.disposal.drop records.length }.withPools (s.bm.returnDescs (s.disposal.take records.length))
    | _ => s)

/-- UP_FRAME_SENT (R11): the entry leaves the Uplink Buffer. -/
def execUpFrameSent (s : State) : Host.Outcome State Fault Refusal :=
  .next
    (match s.tx.line with
    | some { pauseFlag := _, body := .up _ } =>
      { s with
        tx := { s.tx with line := none }
        uplink := { s.uplink with entries := s.uplink.entries.drop 1 } }
    | _ => s)

/-- START_EVENT_SENT (R36): the PAUSE thresholds are evaluated for the first time. -/
def execStartEventSent (s : State) : Host.Outcome State Fault Refusal :=
  .next
    (match s.tx.line with
    | some { pauseFlag := _, body := .event { stamp := _, event := .start _ _ } } =>
      { s with
        tx := { s.tx with line := none }
        bm := { s.bm with pauseWanted := s.bm.evaluatedPause } }
    | _ => s)

end Sys2Proof.Machine
end

