-- ==== Sys2Proof/Machine/TableRequests.lean ====
section
/-! DEFINITION. CLASS WRITE, RATE WRITE, TABLE COMMIT, TABLE READ, COUNTER READ (05 §5.2, 5.3, 11 §11.5). -/

namespace Sys2Proof.Machine

/-- The entries `k`, `k` + 1, … of a CLASS WRITE, `n` of them, written into the shadow Class Table (R78). -/
def writeClasses (body : List Byte) (start : Nat) : Nat → Nat → Table ClassEntry → Table ClassEntry
  | 0, _, t => t
  | n + 1, k, t =>
    writeClasses body start n (k + 1) (Table.set ClassEntry.default t (classIndex start k) (classEntryOf body k))

/-- CLASS WRITE (R77, R78): checked whole, then written in one step. -/
def execClassWrite (s : State) : Host.Outcome State Fault Refusal :=
  .next
    (s.request .classWrite fun q s =>
      let start := (byteAt q.body 0).toNat
      let n := (byteAt q.body 1).toNat
      if ¬ start < 8 ∨ ¬ ((List.range n).all fun k => (classEntryOf q.body k).inRange) then
        s.finish (q.refused .badField) none
      else
        { s with sched := { s.sched with shadowClass := writeClasses q.body start n 0 s.sched.shadowClass } }.finish
          (q.accepted []) none)

/-- The entries `k`, `k` + 1, … of a RATE WRITE, `n` of them, written into the shadow Rate Table (R80). -/
def writeRates (body : List Byte) (start : Nat) : Nat → Nat → Table RateEntry → Table RateEntry
  | 0, _, t => t
  | n + 1, k, t =>
    writeRates body start n (k + 1) (Table.set RateEntry.unset t (rateIndex start k) (rateEntryOf body k))

/-- RATE WRITE (R79, R80). -/
def execRateWrite (s : State) : Host.Outcome State Fault Refusal :=
  .next
    (s.request .rateWrite fun q s =>
      let start := (byteAt q.body 0).toNat
      let n := (byteAt q.body 1).toNat
      if ¬ start < 64 ∨ ¬ ((List.range n).all fun k => decide ((rateEntryOf q.body k).overhead ≤ 1023)) then
        s.finish (q.refused .badField) none
      else
        { s with sched := { s.sched with shadowRate := writeRates q.body start n 0 s.sched.shadowRate } }.finish
          (q.accepted []) none)

/-- The clamp of R82 on one record: its class's quantum is lowered and its deficit is above the new one. -/
def Station.clamped (r : Station) (old new : Table ClassEntry) : Station :=
  let before := (Table.get ClassEntry.default old r.cls.val).quantum
  let after := (Table.get ClassEntry.default new r.cls.val).quantum
  if r.admin ≠ .free ∧ after < before ∧ (after : Int) < r.deficit then { r with deficit := after } else r

/-- The class table committed, with the clamp in the same step (R81, R82). -/
def State.commitClasses (s : State) : State :=
  { s with
    sched := { s.sched with liveClass := s.sched.shadowClass }
    stations := s.stations.map fun e => (e.1, e.2.clamped s.sched.liveClass s.sched.shadowClass) }

/-- The rate table committed (R81). -/
def State.commitRates (s : State) : State :=
  { s with sched := { s.sched with liveRate := s.sched.shadowRate } }

/-- TABLE COMMIT (R81). -/
def execTableCommit (s : State) : Host.Outcome State Fault Refusal :=
  .next
    (s.request .tableCommit fun q s =>
      match (byteAt q.body 0).toNat with
      | 1 => s.commitClasses.finish (q.accepted (beBytes 1 1)) none
      | 2 => s.commitRates.finish (q.accepted (beBytes 1 2)) none
      | 3 => s.commitClasses.commitRates.finish (q.accepted (beBytes 1 3)) none
      | _ => s.finish (q.refused .badField) none)

/-- The entries of a class read (R186, 12.4). -/
def classReport (t : Table ClassEntry) (start n : Nat) : List Byte :=
  ((List.range n).map fun k =>
    let i := classIndex start k
    beBytes 1 i ++ zeros 1 ++ (Table.get ClassEntry.default t i).bytes).flatten

/-- The entries of a rate read (R186, 12.4). -/
def rateReport (t : Table RateEntry) (start n : Nat) : List Byte :=
  ((List.range n).map fun k =>
    let i := rateIndex start k
    beBytes 1 i ++ zeros 1 ++ (Table.get RateEntry.unset t i).bytes).flatten

/-- The table and copy a TABLE READ names, read as bytes; none if a field fails its check (R186). -/
def State.tableReport (s : State) (table copy start n : Nat) : Option (List Byte) :=
  match table, copy with
  | 1, 1 => if start < 8 ∧ 1 ≤ n ∧ n ≤ 16 then some (classReport s.sched.liveClass start n) else none
  | 1, 2 => if start < 8 ∧ 1 ≤ n ∧ n ≤ 16 then some (classReport s.sched.shadowClass start n) else none
  | 2, 1 => if start < 64 ∧ 1 ≤ n ∧ n ≤ 32 then some (rateReport s.sched.liveRate start n) else none
  | 2, 2 => if start < 64 ∧ 1 ≤ n ∧ n ≤ 32 then some (rateReport s.sched.shadowRate start n) else none
  | _, _ => none

/-- TABLE READ (R186). -/
def execTableRead (s : State) : Host.Outcome State Fault Refusal :=
  .next
    (s.request .tableRead fun q s =>
      let table := (byteAt q.body 0).toNat
      let copy := (byteAt q.body 1).toNat
      let n := (byteAt q.body 3).toNat
      match s.tableReport table copy (byteAt q.body 2).toNat n with
      | none => s.finish (q.refused .badField) none
      | some entries =>
        s.finish (q.accepted (beBytes 1 table ++ beBytes 1 copy ++ beBytes 1 n ++ zeros 1 ++ entries)) none)

/-- Counter `k` of R187 set to 0, counted from 0. -/
def PartCounters.clear (c : PartCounters) : Nat → PartCounters
  | 0 => { c with badFrames := 0 }
  | 1 => { c with ingressFull := 0 }
  | 2 => { c with grantsIssued := 0 }
  | 3 => { c with grantTimeouts := 0 }
  | 4 => { c with lateDones := 0 }
  | 5 => { c with protocolErrors := 0 }
  | 6 => { c with unknownUplink := 0 }
  | 7 => { c with notesIgnored := 0 }
  | 8 => { c with correctedEcc := 0 }
  | 9 => { c with chainFaults := 0 }
  | 10 => { c with memoryFaults := 0 }
  | _ => c

/-- The clear field is 0 or 1 (R187, R192). -/
def counterFields (q : Request) (_ : State) : Option Reason :=
  if (byteAt q.body 0).toNat ≤ 1 then none else some .badField

/-- One counter read, and cleared in the same step if asked (R187); the response after the eleventh. -/
def State.counterClaim (s : State) (e : Execution) : State :=
  let format := s.rp.options.format
  let out := counterBytes format (s.ctr.inOrder.getD e.done 0)
  let s' := if (byteAt e.request.body 0).toNat = 1 then { s with ctr := s.ctr.clear e.done } else s
  if 11 ≤ e.done + 1 then
    s'.finish (e.request.accepted (beBytes 1 format.code ++ zeros 3 ++ e.out ++ out)) none
  else s'.progress e out

/-- COUNTER READ (R187). -/
def execCounterRead (n : Nat) (s : State) : Host.Outcome State Fault Refusal :=
  .next (s.claimRequest .counterRead counterFields (fun e s => s.counterClaim e) n)

end Sys2Proof.Machine
end

