-- ==== Sys2Proof/Machine/UplinkUnit.lean ====
section
/-! DEFINITION. Uplink forwarding (07). -/

namespace Sys2Proof.Machine

/-- UPLINK_SPACE_CLAIM (R126): space is set aside at the header of an UP message when its frame length is 1 to 4,096 and
fits the free space. -/
def execUplinkSpaceClaim (header : List Byte) (s : State) : Host.Outcome State Fault Refusal :=
  let length := frameBodyLength header - 8
  .next
    (if s.inReset ∨ header.length ≠ 8 ∨ frameKind header ≠ kindUp ∨ s.uplink.claim.isSome then s
    else if 1 ≤ length ∧ length ≤ Config.maxFrame ∧ 16 + length ≤ s.uplink.freeSpace then
      { s with uplink := { s.uplink with claim := some (16 + length) } }
    else s)

/-- The station is charged and counted: a record that is ACTIVE or FAULTED (R127). -/
def State.uplinkKnown (s : State) (i : Nat) : Bool :=
  decide (i < Config.stationCount) && ((s.station i).admin == .active || (s.station i).admin == .faulted)

/-- The charge of an UP message (R128, R96): an Entry List member brought to 0 or below moves to the Round List tail in
the step of the charge. -/
def State.chargeUplink (s : State) (i : Nat) (airtime : Nat) : State :=
  let r := s.station i
  let deficit := chargedDeficit r.deficit (uplinkCharge airtime r.share)
  let counters := { r.counters with uplinkAirtime := addTo r.counters.uplinkAirtime airtime }
  if r.list = .entry ∧ deficit ≤ 0 then
    { s.setStation i { r with deficit := deficit, counters := counters, list := .round } with
      sched := { s.sched with
        entryList := s.sched.entryList.filter (· ≠ i)
        roundList := s.sched.roundList ++ [i] } }
  else s.setStation i { r with deficit := deficit, counters := counters }

/-- The sorting of an UP message (R127, R129). -/
def State.sortUplink (s : State) (m : UpMessage) : State :=
  if s.uplinkKnown m.station.toNat then s.chargeUplink m.station.toNat m.airtime.toNat
  else { s with ctr := { s.ctr with unknownUplink := addTo s.ctr.unknownUplink 1 } }

/-- The charge an entry records: before the clamp, 0 for an unknown station (R131). -/
def State.chargeOf (s : State) (m : UpMessage) : Nat :=
  if s.uplinkKnown m.station.toNat then uplinkCharge m.airtime.toNat (s.station m.station.toNat).share else 0

/-- A frame for which no space was set aside (R130). -/
def State.loseUplink (s : State) (m : UpMessage) (known : Bool) : State :=
  if m.bytes.length = 0 then s
  else if Config.maxFrame < m.bytes.length then s.protocolError .upTooLong kindUp 0 0 m.station
  else if known then s.count m.station.toNat fun c => { c with uplinkDiscarded := addTo c.uplinkDiscarded 1 }
  else s

/-- An UP message taken (R127): sorted, then its frame dealt with. -/
def State.takeUp (s : State) (m : UpMessage) : State :=
  let entry : UpEntry :=
    { station := m.station, airtime := m.airtime, rate := m.rate, charge := s.chargeOf m, stamp := s.timeBase,
      bytes := m.bytes }
  match s.uplink.claim with
  | none => (s.sortUplink m).loseUplink m (s.uplinkKnown m.station.toNat)
  | some space =>
    if space = entry.space then
      { s.sortUplink m with uplink := { entries := s.uplink.entries ++ [entry], claim := none } }
    else s

/-- UP_MESSAGE (R127). -/
def execUpMessage (frame : List Byte) (s : State) : Host.Outcome State Fault Refusal :=
  .next (if s.inReset ∨ ¬ sound .radio kindUp frame then s else s.takeUp (upMessageOf frame))

end Sys2Proof.Machine
end

