-- ==== Sys2Proof/Machine/Dispatch.lean ====
section
/-! DEFINITION. One arm per command, each a direct call of its meaning. -/

namespace Sys2Proof.Machine

def exec (i : Instr) (s : State) : Host.Outcome State Fault Refusal :=
  match i with
  | .powerOnReset selfTest => Sys2Proof.Machine.execPowerOnReset selfTest s
  | .selfTest failed => Sys2Proof.Machine.execSelfTest failed s
  | .softReset => Sys2Proof.Machine.execSoftReset s
  | .ingressSpaceClaim header => Sys2Proof.Machine.execIngressSpaceClaim header s
  | .downFrameReceived frame => Sys2Proof.Machine.execDownFrameReceived frame s
  | .requestFrameReceived frame => Sys2Proof.Machine.execRequestFrameReceived frame s
  | .systemLinkBadFrame frame => Sys2Proof.Machine.execSystemLinkBadFrame frame s
  | .admissionDecision => Sys2Proof.Machine.execAdmissionDecision s
  | .admissionRetry => Sys2Proof.Machine.execAdmissionRetry s
  | .append => Sys2Proof.Machine.execAppend s
  | .transmitterChoice => Sys2Proof.Machine.execTransmitterChoice s
  | .disposalMessageSent => Sys2Proof.Machine.execDisposalMessageSent s
  | .upFrameSent => Sys2Proof.Machine.execUpFrameSent s
  | .startEventSent => Sys2Proof.Machine.execStartEventSent s
  | .receiveLockChange lock => Sys2Proof.Machine.execReceiveLockChange lock s
  | .linkUp => Sys2Proof.Machine.execLinkUp s
  | .linkDown => Sys2Proof.Machine.execLinkDown s
  | .radioLinkBadFrame frame => Sys2Proof.Machine.execRadioLinkBadFrame frame s
  | .uplinkSpaceClaim header => Sys2Proof.Machine.execUplinkSpaceClaim header s
  | .upMessage frame => Sys2Proof.Machine.execUpMessage frame s
  | .doze frame => Sys2Proof.Machine.execDoze frame s
  | .wake frame => Sys2Proof.Machine.execWake frame s
  | .poll frame => Sys2Proof.Machine.execPoll frame s
  | .mediumHold frame => Sys2Proof.Machine.execMediumHold frame s
  | .mediumRelease frame => Sys2Proof.Machine.execMediumRelease frame s
  | .done frame => Sys2Proof.Machine.execDone frame s
  | .grantTimeout k => Sys2Proof.Machine.execGrantTimeout k s
  | .arbiterChoice => Sys2Proof.Machine.execArbiterChoice s
  | .grantFormation => Sys2Proof.Machine.execGrantFormation s
  | .feedFault frame cell => Sys2Proof.Machine.execFeedFault frame cell s
  | .streamEnd => Sys2Proof.Machine.execStreamEnd s
  | .faultClaim n => Sys2Proof.Machine.execFaultClaim n s
  | .reclaimScanStart => Sys2Proof.Machine.execReclaimScanStart s
  | .reclaimScanVisit => Sys2Proof.Machine.execReclaimScanVisit s
  | .reclaimScanEnd => Sys2Proof.Machine.execReclaimScanEnd s
  | .sweepTimer => Sys2Proof.Machine.execSweepTimer s
  | .sweepVisit => Sys2Proof.Machine.execSweepVisit s
  | .purgeStep => Sys2Proof.Machine.execPurgeStep s
  | .identify => Sys2Proof.Machine.execIdentify s
  | .setOptions => Sys2Proof.Machine.execSetOptions s
  | .start => Sys2Proof.Machine.execStart s
  | .stop => Sys2Proof.Machine.execStop s
  | .freeze => Sys2Proof.Machine.execFreeze s
  | .thaw => Sys2Proof.Machine.execThaw s
  | .stationProgram n => Sys2Proof.Machine.execStationProgram n s
  | .stationRemove n => Sys2Proof.Machine.execStationRemove n s
  | .stationHold n => Sys2Proof.Machine.execStationHold n s
  | .stationRelease n => Sys2Proof.Machine.execStationRelease n s
  | .stationClearFault n => Sys2Proof.Machine.execStationClearFault n s
  | .stationRead n => Sys2Proof.Machine.execStationRead n s
  | .backlogMap => Sys2Proof.Machine.execBacklogMap s
  | .classWrite => Sys2Proof.Machine.execClassWrite s
  | .rateWrite => Sys2Proof.Machine.execRateWrite s
  | .tableCommit => Sys2Proof.Machine.execTableCommit s
  | .tableRead => Sys2Proof.Machine.execTableRead s
  | .counterRead n => Sys2Proof.Machine.execCounterRead n s
  | .partReset => Sys2Proof.Machine.execPartReset s
  | .unknownRequest => Sys2Proof.Machine.execUnknownRequest s
  | .correctedEccError word => Sys2Proof.Machine.execCorrectedEccError word s

end Sys2Proof.Machine
end

