-- ==== Sys2Proof/Safety.lean ====
section
/-! DEFINITION. The laws of the part as predicates on State, and the vocabulary in which statements about commands are
written: what a command leaves alone, what a change of eligibility does to the lists, where a response goes. -/

namespace Sys2Proof.Machine

/-! ### Laws of packet memory -/

/-- Law L2 (R23): the free cell list names, each once, exactly the cells whose owner entry reads FREE. -/
def BufferManager.CellLaw (b : BufferManager) : Prop :=
  b.freeCells.toList.Nodup
    ∧ (∀ c, c ∈ b.freeCells.toList ↔ c < 16384 ∧ b.owner c = .free)
    ∧ (∀ c, 16384 ≤ c → b.owner c = .free)

/-- How many cells are owned by descriptors (R23). -/
def BufferManager.ownedCount (b : BufferManager) : Nat :=
  (List.range 16384).countP fun c => b.owner c != .free && b.owner c != .retired

/-- Every table of State and packet memory are in their one canonical form. -/
def State.Canonical (s : State) : Prop :=
  s.bm.mem.wf = true
    ∧ Table.wf Ecc.sound s.bm.ecc = true
    ∧ Table.wf Descriptor.cleared s.bm.descs = true
    ∧ Table.wf Owner.free s.bm.owners = true
    ∧ Table.wf Station.free s.stations = true
    ∧ Table.wf ClassEntry.default s.sched.liveClass = true
    ∧ Table.wf ClassEntry.default s.sched.shadowClass = true
    ∧ Table.wf RateEntry.unset s.sched.liveRate = true
    ∧ Table.wf RateEntry.unset s.sched.shadowRate = true
    ∧ Table.wf (none : Option Grant) s.sched.slots = true

/-! ### Laws of the buffers -/

/-- The capacities of R7, R125, R175 and R190. Space set aside for an arriving frame counts as taken. -/
def State.WithinCapacity (s : State) : Prop :=
  (s.rx.ingress.map IngressEntry.space).sum + s.rx.claim.getD 0 ≤ 32768
    ∧ (s.uplink.entries.map UpEntry.space).sum + s.uplink.claim.getD 0 ≤ 65536
    ∧ s.rp.queue.length ≤ 8
    ∧ s.events.records.length ≤ 32

/-! ### Laws of the scheduler -/

/-- The relations of R133 between the scheduler state, the freeze causes and the open slots, and R142: the LINK cause is
present exactly while the link is DOWN. -/
def State.SchedulerRelations (s : State) : Prop :=
  (s.sched.state = .running → s.sched.causes.isEmpty = true)
    ∧ (s.sched.state = .freezing ∨ s.sched.state = .frozen → s.sched.causes.isEmpty = false)
    ∧ (s.sched.state = .freezing → 1 ≤ s.openSlots)
    ∧ (s.sched.state = .frozen ∨ s.sched.state = .off → s.openSlots = 0)
    ∧ s.sched.causes.link = !s.radio.up

/-- The sweep timer runs exactly in RUNNING, FREEZING, FROZEN and HALTED (R151). -/
def State.SweepTimerLaw (s : State) : Prop := s.sweep.timer.isSome = s.sched.state.sweeps

/-- The Feeder streams slot `k` exactly while `k` is open and STREAMING (R99, R101, R111), and only with the link UP
(R13). -/
def State.FeederLaw (s : State) : Prop :=
  (∀ k, (∃ g, s.slot k = some g ∧ g.stream = .streaming) ↔ ∃ f, s.feeder = some f ∧ f.slot = k)
    ∧ (s.feeder.isSome = true → s.radio.up = true)

/-- In the four states that can halt, the retired count is below the retire limit (R145); during a reset the scheduler is
OFF and no request is held. -/
def State.RetireLaw (s : State) : Prop :=
  (s.sched.state.canHalt = true → s.bm.retiredCount < s.rp.options.retireLimit)
    ∧ (s.inReset = true → s.sched.state = .off ∧ s.rp.queue = [])

/-- Both copies of the Class Table hold values within the ranges of R75. -/
def State.ClassTablesInRange (s : State) : Prop :=
  ∀ c, (Table.get ClassEntry.default s.sched.liveClass c).inRange = true
    ∧ (Table.get ClassEntry.default s.sched.shadowClass c).inRange = true

/-- The Options lie within the ranges of R180. -/
def Options.inRange (o : Options) : Prop :=
  (1 ≤ o.slots ∧ o.slots ≤ 4) ∧ (1 ≤ o.grantTimeout ∧ o.grantTimeout ≤ 255) ∧ (10 ≤ o.sweep ∧ o.sweep ≤ 1000)
    ∧ (16 ≤ o.retireLimit ∧ o.retireLimit ≤ 1024)

/-! ### Laws of the Station Table -/

/-- Law L6 (R87) for the records that are not FREE. -/
def State.DeficitLaw (s : State) : Prop :=
  ∀ i, (s.station i).admin ≠ .free →
    -1048575 ≤ (s.station i).deficit ∧ (s.station i).deficit ≤ (s.liveClass (s.station i)).quantum

/-- A FREE record holds the FREE values (R56), and there are 512 records (R53). -/
def State.FreeLaw (s : State) : Prop :=
  (∀ i, (s.station i).admin = .free → s.station i = Station.free) ∧ ∀ i, 512 ≤ i → s.station i = Station.free

/-- Law L3 (R92): a station is in the Entry List or the Round List, once, exactly when it is eligible and is not the
arbiter's ROUND candidate, and its list membership names the list; an Entry List member has credit (R96). -/
def State.ListLaw (s : State) : Prop :=
  s.sched.entryList.Nodup
    ∧ s.sched.roundList.Nodup
    ∧ (∀ i, i ∈ s.sched.entryList ↔ (s.station i).list = .entry)
    ∧ (∀ i, i ∈ s.sched.roundList ↔ (s.station i).list = .round)
    ∧ (∀ i, (s.station i).list ≠ .none
        ↔ (s.station i).eligible = true ∧ s.sched.candidate ≠ some { station := i, kind := .round })
    ∧ (∀ i, i ∈ s.sched.entryList → 0 < (s.station i).deficit)

/-- Law L10 (R71). -/
def State.PollLaw (s : State) : Prop :=
  s.sched.pollQueue.Nodup
    ∧ (∀ i, i ∈ s.sched.pollQueue ↔ (s.station i).poll = true)
    ∧ (∀ i, (s.station i).poll = true → (s.station i).admin = .active ∧ (s.station i).power = .dozing)

/-- Law L4 (R99): an open slot and the record of its station name each other, and every open slot is usable. -/
def State.SlotLaw (s : State) : Prop :=
  (∀ k g, s.slot k = some g → (s.station g.station).slot = some k ∧ k < s.rp.options.slots)
    ∧ (∀ i k, (s.station i).slot = some k → ∃ g, s.slot k = some g ∧ g.station = i)

/-- The Purge List holds at most one entry for a station (R154), and none for an index that no record has. -/
def State.PurgeLaw (s : State) : Prop :=
  (s.purge.map PurgeEntry.station).Nodup ∧ ∀ e ∈ s.purge, e.station < 512

/-- A queue holds at most 1,088 frames, and with those of the station's open grant, at most 64, no more either (R54,
R75). -/
def State.QueueLaw (s : State) : Prop :=
  (∀ i, (s.station i).queue.length ≤ 1088)
    ∧ ∀ k g, s.slot k = some g →
      g.frames.length ≤ 64 ∧ (s.station g.station).queue.length + g.frames.length ≤ 1088

/-- The laws of the Station Table, the Airtime Scheduler and the Purge List that hold one another up. -/
def State.StationLaws (s : State) : Prop :=
  s.FreeLaw ∧ s.ListLaw ∧ s.PollLaw ∧ s.SlotLaw ∧ s.DeficitLaw ∧ s.ClassTablesInRange ∧ s.SchedulerRelations
    ∧ s.PurgeLaw ∧ s.QueueLaw ∧ s.rp.options.inRange

/-- The lists of stations fit what they are given: at most 512 stations in the Entry List and the Round List together
(R92), 512 in the Poll Queue (R71) and 512 entries on the Purge List (R154). -/
def State.ListsFit (s : State) : Prop :=
  s.sched.entryList.length + s.sched.roundList.length ≤ 512 ∧ s.sched.pollQueue.length ≤ 512 ∧ s.purge.length ≤ 512

/-! ### Law L1 -/

/-- Law L1 (R18): each place of a descriptor is the collection its Place field names, and no collection names a
descriptor twice. -/
def State.PlaceLaw (s : State) : Prop :=
  (∀ d, 8192 ≤ d → s.desc d = Descriptor.cleared)
    ∧ (s.bm.freeDescs.toList.Nodup ∧ ∀ d, d ∈ s.bm.freeDescs.toList ↔ d < 8192 ∧ (s.desc d).place = .free)
    ∧ (∀ d, s.adm = .writing d ↔ (s.desc d).place = .ingress)
    ∧ (∀ i, (s.station i).queue.Nodup)
    ∧ (∀ i j d, d ∈ (s.station i).queue → d ∈ (s.station j).queue → i = j)
    ∧ (∀ d, (∃ i, d ∈ (s.station i).queue) ↔ (s.desc d).place = .queued)
    ∧ (∀ k g, s.slot k = some g → (g.frames.map GrantFrame.desc).Nodup)
    ∧ (∀ k l g h d, s.slot k = some g → s.slot l = some h → d ∈ g.frames.map GrantFrame.desc →
        d ∈ h.frames.map GrantFrame.desc → k = l)
    ∧ (∀ d, (∃ k g, s.slot k = some g ∧ d ∈ g.frames.map GrantFrame.desc) ↔ (s.desc d).place = .inGrant)
    ∧ (s.bm.reclaim.Nodup ∧ ∀ d, d ∈ s.bm.reclaim ↔ (s.desc d).place = .reclaim)
    ∧ (s.disposal.Nodup ∧ ∀ d, d ∈ s.disposal ↔ (s.desc d).place = .disposal)
    ∧ (∀ sc, s.bm.scan = some sc → s.bm.reclaim.head? = some sc.desc)

/-! ### What a command leaves alone -/

/-- Every station record but that of `i` reads as before. -/
def OtherStationsKeep (s t : State) (i : Nat) : Prop := ∀ j, j ≠ i → t.station j = s.station j

/-- Every descriptor but those listed reads as before. -/
def OtherDescsKeep (s t : State) (ds : List Nat) : Prop := ∀ d, d ∉ ds → t.desc d = s.desc d

/-- Every Grant Slot but `k` reads as before. -/
def OtherSlotsKeep (s t : State) (k : Nat) : Prop := ∀ l, l ≠ k → t.slot l = s.slot l

/-- The two lists and the list membership of station `i` after a change of its record (R57, R93, R94): nothing moves
while `i` is the ROUND candidate (R103); `i` joins a tail when it became eligible, the Round List when a freed slot made
it so or its deficit is 0 or below; it leaves when it ceased to be eligible; otherwise nothing moves. -/
def ListsFollow (s t : State) (i : Nat) (freed : Bool) : Prop :=
  let moved := s.sched.candidate ≠ some { station := i, kind := .round }
  let was := (s.station i).eligible
  let now := (t.station i).eligible
  if moved ∧ was = false ∧ now = true then
    if freed = false ∧ 0 < (t.station i).deficit then
      (t.station i).list = .entry ∧ t.sched.entryList = s.sched.entryList ++ [i] ∧ t.sched.roundList = s.sched.roundList
    else
      (t.station i).list = .round ∧ t.sched.entryList = s.sched.entryList ∧ t.sched.roundList = s.sched.roundList ++ [i]
  else if moved ∧ was = true ∧ now = false then
    (t.station i).list = .none ∧ t.sched.entryList = s.sched.entryList.filter (· ≠ i)
      ∧ t.sched.roundList = s.sched.roundList.filter (· ≠ i)
  else
    (t.station i).list = (s.station i).list ∧ t.sched.entryList = s.sched.entryList
      ∧ t.sched.roundList = s.sched.roundList

/-! ### The checks of admission (R38) -/

/-- Checks 1 to 7 in the order of the table of R38, each with the reason its failure gives. -/
def State.admissionChecks (s : State) (e : IngressEntry) : List (Bool × Reason) :=
  let r := s.station e.station.toNat
  [(s.sched.state == .running || s.sched.state == .freezing || s.sched.state == .frozen,
      if s.sched.state = .halted then .halted else .notRunning),
    (decide (14 ≤ e.declared.toNat ∧ e.declared.toNat ≤ 4096), .badLength),
    (decide (e.station.toNat < 512) && r.admin != .free, .unknownStation),
    (r.admin != .purging, .stationBusy),
    (r.admin != .faulted, .stationFaulted),
    (beNat (e.bytes.take 6) == r.address.toNat, .addressMismatch),
    (decide (r.queue.length < (s.liveClass r).queueLimit), .queueFull)]

/-- The reason of the first check that fails. -/
def firstFailure (checks : List (Bool × Reason)) : Option Reason := (checks.find? fun c => !c.1).map Prod.snd

/-! ### Requests -/

/-- The Request Processor is about to serve request `q` of kind `k`, which passes checks 1 to 4 of R177; `rest` waits
behind it. -/
def State.Serves (s : State) (k : RequestKind) (q : Request) (rest : List Request) : Prop :=
  s.rp.executing = none ∧ s.rp.held = none ∧ s.rp.stopped = false ∧ s.rp.queue = q :: rest
    ∧ RequestKind.ofCode q.code = some k ∧ q.overLength = false ∧ k.stateFault s.sched.state = none
    ∧ k.lengthOk q.body = true

/-- The state after request `q` has been answered with nothing else changed (R176, R183): `rest` waits, the cursor is
set, and the response is with the transmitter, or kept until the transmitter holds none (log 31). -/
def State.answered (s : State) (rest : List Request) (r : Response) (cursor : Option Cursor) : State :=
  { s with
    rp := { s.rp with
      queue := rest, executing := none, cursor := cursor
      held := if s.tx.response = none then none else some r }
    tx := { s.tx with response := if s.tx.response = none then some r else s.tx.response } }

/-- An ACCEPTED response (R176). -/
def acceptedResponse (q : Request) (result : List Byte) : Response :=
  { code := q.code, tag := q.tag, status := .accepted, reason := none, done := 0, station := 0, result := result }

/-- A REFUSED response (R176). -/
def refusedResponse (q : Request) (reason : Reason) : Response :=
  { code := q.code, tag := q.tag, status := .refused, reason := some reason, done := 0, station := 0, result := [] }

/-- A PARTIAL response (R58, R176). -/
def partialResponse (q : Request) (done station : Nat) (reason : Reason) : Response :=
  { code := q.code, tag := q.tag, status := .partly, reason := some reason, done := done, station := station,
    result := [] }

/-- The command that serves a request kind, with at most `n` claims where it is executed claim by claim. -/
def RequestKind.command (k : RequestKind) (n : Nat) : Instr :=
  match k with
  | .identify => .identify
  | .setOptions => .setOptions
  | .start => .start
  | .stop => .stop
  | .freeze => .freeze
  | .thaw => .thaw
  | .stationProgram => .stationProgram n
  | .stationRemove => .stationRemove n
  | .stationHold => .stationHold n
  | .stationRelease => .stationRelease n
  | .stationClearFault => .stationClearFault n
  | .stationRead => .stationRead n
  | .backlogMap => .backlogMap
  | .classWrite => .classWrite
  | .rateWrite => .rateWrite
  | .tableCommit => .tableCommit
  | .tableRead => .tableRead
  | .counterRead => .counterRead n
  | .partReset => .partReset

/-! ### Grants -/

/-- What formation does with a queue (R104, R105, R106), as a division of the queue: the frames released with their
reasons, the frames placed, and what stays. `unfit` tells why a frame may not be sent, `estimate` its estimate. -/
structure Division where
  released : List (Nat × Reason)
  placed   : List Nat
  sum      : Nat
  rest     : List Nat
  deriving DecidableEq, Repr

/-- The division of a queue by R105 from a grant that holds `placed` with running sum `sum`. -/
def divideRound (unfit : Nat → Option Reason) (estimate : Nat → Nat) (most : Nat) (limit : Int) :
    List Nat → List Nat → Nat → Division
  | [], placed, sum => { released := [], placed := placed, sum := sum, rest := [] }
  | d :: rest, placed, sum =>
    if placed ≠ [] ∧ most ≤ placed.length then { released := [], placed := placed, sum := sum, rest := d :: rest }
    else
      match unfit d with
      | some reason =>
        let x := divideRound unfit estimate most limit rest placed sum
        { x with released := (d, reason) :: x.released }
      | none =>
        if placed = [] then divideRound unfit estimate most limit rest [d] (estimate d)
        else if ((sum + estimate d : Nat) : Int) ≤ limit then
          divideRound unfit estimate most limit rest (placed ++ [d]) (sum + estimate d)
        else { released := [], placed := placed, sum := sum, rest := d :: rest }

/-- The division of a queue by R106: the first fit frame alone is placed. -/
def dividePoll (unfit : Nat → Option Reason) (estimate : Nat → Nat) : List Nat → Division
  | [] => { released := [], placed := [], sum := 0, rest := [] }
  | d :: rest =>
    match unfit d with
    | some reason =>
      let x := dividePoll unfit estimate rest
      { x with released := (d, reason) :: x.released }
    | none => { released := [], placed := [d], sum := estimate d, rest := rest }

/-! ### PAUSE, freeze causes and halting -/

/-- The PAUSE state wanted after the free counts have gone from those of `s` to those of `t` (R36): evaluated when either
count changed, and left as it was between the bounds and while the START event's frame has not been sent (R189). -/
def PauseFollows (s t : State) : Prop :=
  t.bm.pauseWanted =
    if s.startUnsent = true ∨ (t.bm.freeGeneral = s.bm.freeGeneral ∧ t.bm.freeCellCount = s.bm.freeCellCount) then
      s.bm.pauseWanted
    else if t.bm.freeGeneral < 256 ∨ t.bm.freeCellCount < 512 then true
    else if 512 ≤ t.bm.freeGeneral ∧ 1024 ≤ t.bm.freeCellCount then false
    else s.bm.pauseWanted

/-- The state after a freeze cause is added (R134, R135). -/
def State.causeAdded (s : State) (c : Cause) : State :=
  let causes := s.sched.causes.put c true
  if s.sched.causes.get c then s
  else if s.sched.state ≠ .running then { s with sched := { s.sched with causes := causes } }
  else if s.openSlots = 0 then
    { s with
      sched := { s.sched with causes := causes, state := .frozen }
      events := s.events.put s.timeBase (.frozen causes) }
  else { s with sched := { s.sched with causes := causes, state := .freezing } }

/-- The state after a freeze cause is removed (R134, R137). -/
def State.causeRemoved (s : State) (c : Cause) : State :=
  let causes := s.sched.causes.put c false
  if ¬ s.sched.causes.get c then s
  else if causes.isEmpty = true ∧ (s.sched.state = .freezing ∨ s.sched.state = .frozen) then
    { s with
      sched := { s.sched with causes := causes, state := .running }
      events := s.events.put s.timeBase (.thawed c) }
  else { s with sched := { s.sched with causes := causes } }

/-- The sweep timer as a state that sweeps is entered from one that does not (R151). -/
def State.freshSweepTimer (s : State) : Option Timer := some { limit := 1000 * s.rp.options.sweep, elapsed := 0 }

/-- The state after the retired count or the retire limit has been handed to the scheduler (R145, R151). -/
def State.haltedIfDue (s : State) : State :=
  if (s.sched.state = .running ∨ s.sched.state = .freezing ∨ s.sched.state = .frozen ∨ s.sched.state = .stopping)
      ∧ s.rp.options.retireLimit ≤ s.bm.retiredCount then
    { s with
      sched := { s.sched with state := .halted }
      sweep := { s.sweep with timer := if s.sched.state = .stopping then s.freshSweepTimer else s.sweep.timer }
      events := s.events.put s.timeBase (.halted s.bm.retiredCount s.rp.options.retireLimit) }
  else s

/-- The state after STOPPING has been checked for its end (R144): OFF without HOST, and a STOPPED event. -/
def State.offIfDrained (s : State) : State :=
  if s.sched.state = .stopping ∧ (∀ e ∈ s.purge, e.purpose ≠ .stop) ∧ s.openSlots = 0 then
    { s with
      sched := { s.sched with state := .off, causes := { s.sched.causes with host := false } }
      events := s.events.put s.timeBase (.stopped { s.sched.causes with host := false }) }
  else s

/-! ### The Round List top-up (R97) -/

/-- `TopUps s s'`: `s'` is reached from `s` by top-ups of Round List heads whose deficit is 0 or below, each adding the
quantum of the head's class and moving the head to the tail. -/
inductive TopUps : State → State → Prop where
  | none (s : State) : TopUps s s
  | more {s s' : State} {i : Nat} {rest : List Nat} (head : s.sched.roundList = i :: rest)
      (broke : (s.station i).deficit ≤ 0)
      (after : TopUps
        { s.setStation i
            { s.station i with deficit := (s.station i).deficit + (s.liveClass (s.station i)).quantum } with
          sched := { s.sched with roundList := rest ++ [i] } } s') : TopUps s s'

/-! ### Admission with check 8 (R38, R44) -/

/-- The whole decision: the reason of the first of checks 1 to 8 that fails. -/
def State.admissionVerdict (s : State) (e : IngressEntry) : Option Reason :=
  match firstFailure (s.admissionChecks e) with
  | some reason => some reason
  | none =>
    if 1 ≤ s.bm.freeDescs.toList.length - 32 ∧ (e.declared.toNat + 255) / 256 ≤ s.bm.freeCells.toList.length then none
    else some .noBuffer

/-- The segment list over cells taken in order for a frame of `length` bytes (R21). -/
def segmentList (cells : List Nat) (length : Nat) : List Segment :=
  cells.mapIdx fun k c =>
    { cell := BitVec.ofNat 16 c
      count := BitVec.ofNat 9 (if k + 1 = cells.length then length - 256 * (cells.length - 1) else 256) }

/-- The descriptor of a refused frame (R45). -/
def refusalDescriptor (e : IngressEntry) (reason : Reason) : Descriptor :=
  { cookie := e.cookie, station := e.station, length := e.declared, stamp := 0, lifetime := 0, segs := [],
    parityOk := true, place := .disposal, reason := some reason, badCell := none }

/-! ### Walks (R24) -/

/-- A segment entry of descriptor `d` that passes checks 1 to 3 of R24. -/
def BufferManager.Sound (b : BufferManager) (d : Nat) (g : Segment) : Prop :=
  g.cell.toNat < 16384 ∧ b.owner g.cell.toNat = .desc d ∧ 1 ≤ g.count.toNat ∧ g.count.toNat ≤ 256

/-- The cells and the byte total of a segment list. -/
def segmentCells (segs : List Segment) : List Nat := segs.map fun g => g.cell.toNat
def segmentTotal (segs : List Segment) : Nat := (segs.map fun g => g.count.toNat).sum

/-- The cause and the cell R24 gives an entry that fails: the first of its checks 1 to 3. -/
def BufferManager.entryCause (b : BufferManager) (d : Nat) (g : Segment) : FaultCause × Option Nat :=
  if 16384 ≤ g.cell.toNat then (.notPresent, none)
  else if b.owner g.cell.toNat ≠ .desc d then (.foreign, some g.cell.toNat)
  else (.badCount, some g.cell.toNat)

/-- The segment an entry reached stands at, and the walk, with which frame `n` of the grant is fed (R24, R108, R109): the
walk under way for the frame the Feeder has reached, and for any other a walk that begins with a read of the descriptor. -/
def State.walkOf (s : State) (f : Feed) (n : Nat) (fr : GrantFrame) : Nat × FeedWalk :=
  match if n = f.frame then f.walk else none with
  | some w => (f.segment, w)
  | none =>
    let x := s.desc fr.desc
    (1, { read := x, rest := x.segs, sum := 0, left := x.length.toNat, word := 0, bytes := [] })

/-- How the feed walk of frame `n` goes on. -/
def State.fedTo (s : State) (f : Feed) (n : Nat) (fr : GrantFrame) : FeedEnd :=
  s.bm.feedOn fr.desc (s.walkOf f n fr).1 (s.walkOf f n fr).2

/-- The frames of the grant from the Feeder's place up to frame `n` are all fed clean, as `sections` (R16, R109). -/
def State.FedClean (s : State) (f : Feed) (g : Grant) (n : Nat) (sections : List Section) : Prop :=
  sections.length = n - f.frame
    ∧ ∀ j, j < n - f.frame → ∃ fr bytes, g.frames[f.frame + j]? = some fr
        ∧ s.fedTo f (f.frame + j) fr = .clean bytes
        ∧ sections[j]? = some
          { length := fr.length
            bytes := (bytes ++ List.replicate (fr.length - bytes.length) 0).take fr.length
            trailer := .complete }

/-! ### The end of a grant -/

/-- What becomes of a frame at a valid DONE (R114, R115), with outcome byte `o`: none is requeued, otherwise the reason it
is released with. The Feeder's mark decides first. -/
def State.fate (s : State) (r : Station) (d o : Nat) : Option Reason :=
  if (s.desc d).reason = some .chainFault then some .chainFault
  else if (s.desc d).reason = some .memoryError then some .memoryError
  else if o = 0 then some .delivered
  else if o = 1 ∨ o = 3 then some .failed
  else if r.admin = .active ∧ (s.sched.state = .running ∨ s.sched.state = .freezing ∨ s.sched.state = .frozen) then none
  else if r.admin = .purging then some .removed
  else if r.admin = .faulted then some .stationFault
  else some .stopped

/-- The record `r` of station `i` is torn down when the slot of its grant is freed (R117, R157): PURGING, with no purge
entry and nothing in its queue. -/
def State.TornDown (s : State) (i : Nat) (r : Station) : Prop := r.admin = .purging ∧ s.onPurgeList i = false ∧ r.queue = []

/-- `t` is `s` after slot `k` of station `i` has been freed (R117, R136, R144, R157): a station torn down has a
STATION_FREED event, any other joins the Round List tail if that makes it eligible; then FREEZING with no slot open moves
to FROZEN with a FROZEN event, and STOPPING is checked for its end. -/
def State.SlotCloses (s : State) (k i : Nat) (t : State) : Prop :=
  ∃ u : State,
    t = (if u.sched.state = .freezing ∧ u.openSlots = 0 then
          { u with
            sched := { u.sched with state := .frozen }
            events := u.events.put u.timeBase (.frozen u.sched.causes) }
        else u.offIfDrained)
      ∧ u = { s with
          stations := u.stations
          sched := { s.sched with
            slots := u.sched.slots, entryList := u.sched.entryList, roundList := u.sched.roundList }
          events := u.events }
      ∧ u.slot k = none ∧ OtherSlotsKeep s u k ∧ OtherStationsKeep s u i
      ∧ (s.TornDown i (s.station i) →
          u.station i = Station.free ∧ u.events = s.events.put s.timeBase (.stationFreed i)
            ∧ u.sched.entryList = s.sched.entryList ∧ u.sched.roundList = s.sched.roundList)
      ∧ (¬ s.TornDown i (s.station i) →
          u.station i = { s.station i with slot := none, list := (u.station i).list } ∧ u.events = s.events
            ∧ ListsFollow s u i true)

/-- The counters of a record after a release with a reason (R72, R159): DELIVERED counts a frame and its bytes, the four
reasons of failure a frame failed, any other a frame dropped. -/
def StationCounters.afterRelease (c : StationCounters) (reason : Reason) (length : Nat) : StationCounters :=
  if reason = .delivered then
    { c with framesDelivered := c.framesDelivered + 1, bytesDelivered := c.bytesDelivered + BitVec.ofNat 48 length }
  else if reason = .failed ∨ reason = .noCompletion ∨ reason = .memoryError ∨ reason = .chainFault then
    { c with framesFailed := c.framesFailed + 1 }
  else { c with framesDropped := c.framesDropped + 1 }

/-! ### Requests executed entry by entry (R58, R59) -/

/-- The state after the entry in hand has been done: ACCEPTED after the last of `entries`, the next entry otherwise. -/
def State.entryDone (s : State) (e : Execution) (entries : Nat) : State :=
  if entries ≤ e.done + 1 then s.answered s.rp.queue (acceptedResponse e.request []) none
  else { s with rp := { s.rp with executing := some { e with done := e.done + 1 } } }

/-- The state after the entry in hand has failed: PARTIAL, with the entries done and the index it carries. -/
def State.entryFails (s : State) (e : Execution) (station : Nat) (reason : Reason) : State :=
  s.answered s.rp.queue (partialResponse e.request e.done station reason) none

/-- A request of kind `k` is in execution. -/
def State.Executes (s : State) (k : RequestKind) (e : Execution) : Prop :=
  s.rp.executing = some e ∧ RequestKind.ofCode e.request.code = some k

end Sys2Proof.Machine
end

