-- ==== Sys2Proof/Certificates/Slice0/Obligations.lean ====
section
/-! DEFINITION. The statements for the provers. Each is read against the rules its docstring names; the vocabulary is that
of Sys2Proof/Safety.lean. `∃ t, exec c s = .next t ∧ …` says that the command completes and what it leaves. -/

open Sys2Proof Sys2Proof.Machine

/-! ### Steps and resets -/

/-- A step takes the command at the front of the queue and executes it on the state with the queue's rest. The command queue
and this form of a step are the model's own choice (log 21), not the manual's. -/
def Obligations.StepTakesFrontCommand : Prop :=
  ∀ (c : Instr) (rest : List Instr) (s : State), s.pending = c :: rest →
    step s = exec c { s with pending := rest }

/-- A step on an empty queue is one microsecond (R148, R112, R151, R12). That a tick happens on an empty queue is the
model's choice (log 2), and so is the damage a tick may do to descriptors, which spares their places (log 9), and to the
codes of words of packet memory, which spares the data (log 7). -/
def Obligations.IdleStepPassesOneMicrosecond : Prop :=
  ∀ s : State, s.pending = [] →
    (s.inReset = true → step s = .next s)
    ∧ (s.inReset = false → ∃ t, step s = .next t
        ∧ t = { s with
            timeBase := s.timeBase + 1
            radio := { s.radio with settle := t.radio.settle }
            sched := { s.sched with slots := t.sched.slots }
            sweep := { s.sweep with timer := t.sweep.timer }
            bm := { s.bm with descs := t.bm.descs, ecc := t.bm.ecc }
            freeCtr := s.freeCtr + 1 }
        ∧ (∀ k, s.slot k = none → t.slot k = none)
        ∧ (∀ k g, s.slot k = some g → g.stream = .streaming → t.slot k = some g)
        ∧ (∀ k g tm, s.slot k = some g → g.stream = .sent tm →
            t.slot k = some { g with
              stream := .sent { tm with elapsed := if tm.elapsed < tm.limit then tm.elapsed + 1 else tm.elapsed } })
        ∧ (s.sweep.timer = none → t.sweep.timer = none)
        ∧ (∀ tm, s.sweep.timer = some tm →
            t.sweep.timer = some { tm with elapsed := if tm.elapsed < tm.limit then tm.elapsed + 1 else tm.elapsed })
        ∧ t.radio.settle =
            (if (s.radio.up = false ∧ s.radio.lock = true ∧ s.radio.settle < 1000)
                ∨ (s.radio.up = true ∧ s.radio.lock = false ∧ s.radio.settle < 100) then s.radio.settle + 1
              else s.radio.settle)
        ∧ (∀ d, (t.desc d).place = (s.desc d).place ∧ (t.desc d).reason = (s.desc d).reason
            ∧ (t.desc d).badCell = (s.desc d).badCell))

/-- The part after a power-on reset with the strap low: packet memory management (R17, R20, R22, R30, R31, R32, R34, R36),
the Station Table, the scheduler and the Feeder (R56, R71, R75, R76, R92, R99, R100, R108, R123, R133), the links and the
buffers (R5, R8 to R12, R16, R37, R132), the sweep, the purge and disposal (R148, R151, R154, R160), requests and events
(R175, R180, R183, R189, R190), faults and counters (R174, R187). The receive lock (log 5), the start of life with the
START event placed (log 3) and its stamp of exactly 0, where R189 says a stamp close to 0 (log 4), are the model's
choices. -/
def Obligations.ResetLeavesResetValues : Prop :=
  (∀ d, State.reset.desc d =
      { cookie := 0, station := 0, length := 0, stamp := 0, lifetime := 0, segs := [], parityOk := true, place := .free,
        reason := none, badCell := none })
    ∧ State.reset.bm.freeDescs.toList = List.range 8192
    ∧ (∀ c, State.reset.bm.owner c = .free)
    ∧ State.reset.bm.freeCells.toList = List.range 16384
    ∧ State.reset.bm.freeGeneral = 8160
    ∧ State.reset.bm.freeCellCount = 16384
    ∧ State.reset.bm.retiredCount = 0
    ∧ State.reset.bm.reclaim = []
    ∧ State.reset.bm.scan = none
    ∧ State.reset.bm.selfTestResult = 0xFFFF
    ∧ State.reset.bm.pauseWanted = false
    ∧ (∀ i, State.reset.station i =
      { admin := .free, address := 0, cls := 0, rate := 0, rateLock := .follow, share := .s0, power := .awake,
        hold := false, faultFlag := false, deficit := 0, queue := [], slot := none, poll := false, list := .none,
        counters :=
          { downlinkAirtime := 0, uplinkAirtime := 0, framesDelivered := 0, framesFailed := 0, framesDropped := 0,
            bytesDelivered := 0, grants := 0, uplinkDiscarded := 0 } })
    ∧ State.reset.sched.state = .off
    ∧ State.reset.sched.causes = { host := false, radio := false, link := true }
    ∧ (∀ c,
        Table.get ClassEntry.default State.reset.sched.liveClass c =
            { quantum := 1000, maxAirtime := 4000, maxFrames := 32, queueLimit := 256, maxAge := 500 }
          ∧ Table.get ClassEntry.default State.reset.sched.shadowClass c =
            { quantum := 1000, maxAirtime := 4000, maxFrames := 32, queueLimit := 256, maxAge := 500 })
    ∧ (∀ c,
        Table.get RateEntry.unset State.reset.sched.liveRate c = { overhead := 0, cost := 0 }
          ∧ Table.get RateEntry.unset State.reset.sched.shadowRate c = { overhead := 0, cost := 0 })
    ∧ State.reset.sched.entryList = [] ∧ State.reset.sched.roundList = [] ∧ State.reset.sched.pollQueue = []
    ∧ (∀ k, State.reset.slot k = none)
    ∧ State.reset.sched.serial = 0
    ∧ State.reset.sched.candidate = none
    ∧ State.reset.feeder = none
    ∧ State.reset.rx = { ingress := [], claim := none }
    ∧ State.reset.tx = { line := none, pauseSent := false, mark := .up, response := none }
    ∧ State.reset.radio = { up := false, lock := false, settle := 0, stream := none }
    ∧ State.reset.adm = .idle
    ∧ State.reset.uplink = { entries := [], claim := none }
    ∧ State.reset.sweep = { timer := none, position := none, heldBack := false }
    ∧ State.reset.purge = []
    ∧ State.reset.disposal = []
    ∧ State.reset.rp =
        { queue := [], executing := none, held := none, stopped := false, cursor := none, lost := 0
          options := { format := .compact, lifetime := .honor, slots := 2, grantTimeout := 20, sweep := 50,
                       retireLimit := 256 } }
    ∧ State.reset.events = { records := [{ stamp := 0, event := .start true 0xFFFF }], lost := 0 }
    ∧ State.reset.faultClaims = []
    ∧ State.reset.ctr =
        { badFrames := 0, ingressFull := 0, grantsIssued := 0, grantTimeouts := 0, lateDones := 0, protocolErrors := 0,
          unknownUplink := 0, notesIgnored := 0, correctedEcc := 0, chainFaults := 0, memoryFaults := 0 }
    ∧ State.reset.timeBase = 0
    ∧ State.reset.inReset = false

/-- POWER_ON_RESET (R189, R34, R12): every block at its reset values. With the strap low the START event is placed at
once; with it high the part stays in reset, with the Event Queue empty, until the self-test ends. That the receive lock,
the data in packet memory and the reading of its codes are carried over is the model's choice (log 5, log 6, log 7), and so
is the START event's stamp of exactly 0 (log 4). -/
def Obligations.PowerOnResetReachesReset : Prop :=
  ∀ s : State,
    exec (.powerOnReset false) s = .next
        { State.reset with
          pending := s.pending
          radio := { State.reset.radio with lock := s.radio.lock }
          bm := { State.reset.bm with mem := s.bm.mem, ecc := s.bm.ecc }
          freeCtr := s.freeCtr }
      ∧ exec (.powerOnReset true) s = .next
        { State.reset with
          pending := s.pending
          inReset := true
          radio := { State.reset.radio with lock := s.radio.lock }
          bm := { State.reset.bm with mem := s.bm.mem, ecc := s.bm.ecc }
          events := { records := [], lost := 0 }
          freeCtr := s.freeCtr }

/-- SELF_TEST (R34, R35, R189, R28): the failed cells are RETIRED, the free cell list holds the others in ascending order,
the result is their number, and the START event ends the reset. Every word of packet memory has been written: a cell that
passed holds the complement of the pattern, and its words agree with their codes. The pattern, and what a failed cell
holds, are free values (log 30). -/
def Obligations.SelfTestRetiresFailedCells : Prop :=
  ∀ (failed : List Nat) (s : State), s.inReset = true →
    ∃ t, exec (.selfTest failed) s = .next t
      ∧ t = { s with
          inReset := false
          bm := { s.bm with
            owners := t.bm.owners, freeCells := t.bm.freeCells, mem := t.bm.mem, ecc := t.bm.ecc
            selfTestResult := BitVec.ofNat 16 ((List.range 16384).countP fun c => decide (c ∈ failed)) }
          events :=
            { records := [{ stamp := s.timeBase
                            event := .start true
                              (BitVec.ofNat 16 ((List.range 16384).countP fun c => decide (c ∈ failed))) }]
              lost := 0 }
          freeCtr := s.freeCtr + 1 }
      ∧ (∀ c, t.bm.owner c = if c < 16384 ∧ c ∈ failed then .retired else .free)
      ∧ t.bm.freeCells.toList = (List.range 16384).filter (fun c => decide (c ∉ failed))
      ∧ (t.bm.retiredCount = (List.range 16384).countP fun c => decide (c ∈ failed))
      ∧ (∀ c k, c < 16384 → k < 256 → t.bm.mem.read (256 * c + k) =
          if c ∈ failed then Config.failedByte s.freeCtr (256 * c + k) else ~~~ Config.selfTestPattern (256 * c + k))
      ∧ (∀ c w, c < 16384 → w < 32 → t.bm.wordEcc c w =
          if c ∈ failed then Config.failedWord s.freeCtr (32 * c + w) else .sound)

/-- SOFT_RESET (R188, R12, R133, R34, R189): taken when the ACCEPTED response to PART RESET has been sent; the link state
is kept, LINK is the only cause exactly when it is DOWN, no self-test is run and the retired cells return. That the receive
lock is kept and the settle count begins again at 0 (log 5), that packet memory and the reading of its codes are left as
they stand (log 6, log 7), and that the START event's stamp is exactly 0 (log 4) are the model's choices. -/
def Obligations.SoftResetKeepsLinkState : Prop :=
  ∀ (s : State) (flag : Bool) (r : Response),
    s.tx.line = some { pauseFlag := flag, body := .response r } → r.code = 0x3F → r.status = .accepted →
    exec .softReset s = .next
      { State.reset with
        pending := s.pending
        radio := { up := s.radio.up, lock := s.radio.lock, settle := 0, stream := none }
        bm := { State.reset.bm with mem := s.bm.mem, ecc := s.bm.ecc }
        sched := { State.reset.sched with causes := { host := false, radio := false, link := !s.radio.up } }
        events := { records := [{ stamp := 0, event := .start false 0xFFFF }], lost := 0 }
        freeCtr := s.freeCtr }

/-- The Event Queue (R190): an event joins the tail with the Time Base stamp while fewer than 32 wait; the next is lost
and counted by a 16-bit count that stays at its largest value. -/
def Obligations.EventQueueKeepsThirtyTwo : Prop :=
  ∀ (q : EventQueue) (now : Stamp) (e : Event),
    (q.records.length < 32 → q.put now e = { q with records := q.records ++ [{ stamp := now, event := e }] })
      ∧ (32 ≤ q.records.length → (q.put now e).records = q.records
          ∧ (q.put now e).lost.toNat = min (q.lost.toNat + 1) 65535)

/-! ### Frames and the System Link -/

/-- The checks of R4 in their order, with the kinds of R3 and 12.3, the fixed parts of 12.4 and 12.5 and the note codes of
12.3: fewer than 12 bytes, a wrong frame check, or a body of another length than its header gives is BAD_FRAME; a kind the
direction does not accept is BAD_KIND; a body shorter than its fixed part, or a NOTE with no note code, is BAD_BODY. So a
frame of an accepted kind whose body holds the fixed part and agrees with its length field, and which ends in its CRC,
passes, whatever its reserved flags, code and tag bytes hold (R191, R192), and any change of the four check bytes fails it
as BAD_FRAME. -/
def Obligations.FrameChecksAcceptSoundFrames : Prop :=
  (∀ (side : Side) (f : List Byte),
      let kind := (byteAt f 0).toNat
      let body := (f.drop 8).take (f.length - 12)
      let accepted : List Nat := match side with
        | .system => [0x01, 0x02]
        | .radio => [0x31, 0x32, 0x33]
      let fixed := if kind = 0x02 then 0 else if kind = 0x33 then 4 else 8
      let note := (byteAt body 0).toNat
      frameFault side f =
        if f.length < 12 then some .badFrame
        else if fieldAt f (f.length - 4) 4 ≠ (crc32 (f.take (f.length - 4))).toNat then some .badFrame
        else if f.length - 12 ≠ fieldAt f 2 3 then some .badFrame
        else if kind ∉ accepted then some .badKind
        else if body.length < fixed then some .badBody
        else if kind = 0x33 ∧ (note < 1 ∨ 5 < note) then some .badBody
        else none)
  ∧ (∀ (side : Side) (kind flags code tagHigh tagLow : Byte) (body : List Byte),
      side.accepts kind = true → body.length < 2 ^ 24 → fixedPart kind ≤ body.length →
      (kind = 0x33 → 1 ≤ (byteAt body 0).toNat ∧ (byteAt body 0).toNat ≤ 5) →
      let frame := [kind, flags] ++ beBytes 3 body.length ++ [code, tagHigh, tagLow] ++ body
      frameFault side (frame ++ beBytes 4 (crc32 frame).toNat) = none
        ∧ (∀ check : List Byte, check.length = 4 → check ≠ beBytes 4 (crc32 frame).toNat →
            frameFault side (frame ++ check) = some .badFrame))

/-- INGRESS_SPACE_CLAIM and UPLINK_SPACE_CLAIM (R7, R126): the space a carrier header calls for is set aside exactly when
it is free. An UP message of no frame bytes, or of more than 4,096, is given none. -/
def Obligations.HeadersClaimSpace : Prop :=
  ∀ (header : List Byte) (s : State), s.inReset = false → header.length = 8 →
    (byteAt header 0 ≠ 0x02 → s.rx.claim = none →
      exec (.ingressSpaceClaim header) s = .next
        { s with rx := { s.rx with
            claim :=
              if 8 + min (fieldAt header 2 3) 4104 ≤ 32768 - (s.rx.ingress.map IngressEntry.space).sum then
                some (8 + min (fieldAt header 2 3) 4104)
              else none } })
    ∧ (byteAt header 0 = 0x32 → s.uplink.claim = none →
      exec (.uplinkSpaceClaim header) s = .next
        { s with uplink := { s.uplink with
            claim :=
              if 9 ≤ fieldAt header 2 3 ∧ fieldAt header 2 3 ≤ 4104
                  ∧ 8 + fieldAt header 2 3 ≤ 65536 - (s.uplink.entries.map UpEntry.space).sum then
                some (8 + fieldAt header 2 3)
              else none } })

/-- DOWN_FRAME_RECEIVED (R6, R7): a sound DOWN frame for which no space was set aside is counted ingress-full; one with
space becomes the newest entry, with the fields of 12.4 and at most 4,096 frame bytes. -/
def Obligations.DownFrameEntersIngressBuffer : Prop :=
  ∀ (frame : List Byte) (s : State), s.inReset = false → sound .system 0x01 frame = true →
    (s.rx.claim = none →
      exec (.downFrameReceived frame) s = .next
        { s with ctr := { s.ctr with ingressFull := s.ctr.ingressFull + 1 } })
    ∧ (s.rx.claim = some (8 + min (frameBody frame).length 4104) →
      ∃ e : IngressEntry,
        exec (.downFrameReceived frame) s = .next { s with rx := { ingress := s.rx.ingress ++ [e], claim := none } }
          ∧ e.station.toNat = fieldAt (frameBody frame) 0 2
          ∧ e.cookie.toNat = fieldAt (frameBody frame) 2 4
          ∧ e.lifetime.toNat = fieldAt (frameBody frame) 6 2
          ∧ e.declared.toNat = (frameBody frame).length - 8
          ∧ e.bytes = ((frameBody frame).drop 8).take 4096)

/-- REQUEST_FRAME_RECEIVED (R6, R175): a sound REQUEST joins the tail of the Request Queue while fewer than 8 wait, its
body kept when it is at most 1,024 bytes and otherwise marked over-length; the ninth is lost and counted. -/
def Obligations.RequestFrameJoinsRequestQueue : Prop :=
  ∀ (frame : List Byte) (s : State), s.inReset = false → sound .system 0x02 frame = true →
    (s.rp.queue.length < 8 →
      exec (.requestFrameReceived frame) s = .next
        { s with rp := { s.rp with queue := s.rp.queue ++
            [{ code := byteAt frame 5
               tag := BitVec.ofNat 16 (fieldAt frame 6 2)
               overLength := decide (1024 < (frameBody frame).length)
               body := if 1024 < (frameBody frame).length then [] else frameBody frame }] } })
    ∧ (8 ≤ s.rp.queue.length →
      exec (.requestFrameReceived frame) s = .next
        { s with rp := { s.rp with lost := if s.rp.lost = 0xFFFF then s.rp.lost else s.rp.lost + 1 } })

/-- SYSTEM_LINK_BAD_FRAME and RADIO_LINK_BAD_FRAME (R5, R7, R15, R126): a frame that fails R4 is discarded and counted
once, and space set aside for it is freed; on the Radio Link a RADIO_PROTOCOL event names the cause of the first check that
failed and the kind byte of the frame. (A frame of no bytes at all has no kind byte: log 19.) -/
def Obligations.BadFramesAreCounted : Prop :=
  ∀ (frame : List Byte) (s : State), s.inReset = false →
    (frameFault .system frame ≠ none →
      exec (.systemLinkBadFrame frame) s = .next
        { s with
          rx := { s.rx with claim := none }
          ctr := { s.ctr with badFrames := s.ctr.badFrames + 1 } })
    ∧ (∀ cause kind, frameFault .radio frame = some cause → frame.head? = some kind →
      exec (.radioLinkBadFrame frame) s = .next
        { s with
          uplink := { s.uplink with claim := none }
          ctr := { s.ctr with protocolErrors := s.ctr.protocolErrors + 1 }
          events := s.events.put s.timeBase (.radioProtocol cause kind 0 0 0) })

/-- TRANSMITTER_CHOICE on an idle line (R2, R9, R10, R11, R161): the START event, a PAUSE change, a response, an event, and
then DISPOSAL or UP by the alternation mark. That the START event goes ahead of a PAUSE change is read from R11 (log 12),
and that the response stays with the transmitter until its frame has ended is the model's choice (log 11). The second part
gives the bytes of each frame the part sends (R1, R2, R191, R192, 12.1, 12.3, 12.4). -/
def Obligations.TransmitterChoosesByPriority : Prop :=
  (∀ s : State, s.tx.line = none →
    (∀ st power result rest, s.events.records = { stamp := st, event := .start power result } :: rest →
      exec .transmitterChoice s = .next
        { s with
          events := { s.events with records := rest }
          tx := { s.tx with
            line := some { pauseFlag := s.tx.pauseSent, body := .event { stamp := st, event := .start power result } } } })
    ∧ (s.events.startFirst = false → s.bm.pauseWanted ≠ s.tx.pauseSent →
      exec .transmitterChoice s = .next
        { s with tx := { s.tx with
            pauseSent := s.bm.pauseWanted
            line := some
              { pauseFlag := s.bm.pauseWanted
                body := .pause s.bm.pauseWanted s.bm.freeGeneral s.bm.freeCellCount } } })
    ∧ (∀ r, s.events.startFirst = false → s.bm.pauseWanted = s.tx.pauseSent → s.tx.response = some r →
      exec .transmitterChoice s = .next
        { s with tx := { s.tx with line := some { pauseFlag := s.tx.pauseSent, body := .response r } } })
    ∧ (∀ e rest, s.events.startFirst = false → s.bm.pauseWanted = s.tx.pauseSent → s.tx.response = none →
      s.events.records = e :: rest →
      exec .transmitterChoice s = .next
        { s with
          events := { s.events with records := rest }
          tx := { s.tx with line := some { pauseFlag := s.tx.pauseSent, body := .event e } } })
    ∧ (s.bm.pauseWanted = s.tx.pauseSent → s.tx.response = none → s.events.records = [] → s.disposal ≠ [] →
      s.uplink.entries = [] ∨ s.tx.mark = .up →
      exec .transmitterChoice s = .next
        { s with tx := { s.tx with
            mark := .disposal
            line := some
              { pauseFlag := s.tx.pauseSent
                body := .disposal s.timeBase ((s.disposal.take 32).map fun d =>
                  { cookie := (s.desc d).cookie, station := (s.desc d).station, reason := (s.desc d).reason
                    length := (s.desc d).length }) } } })
    ∧ (∀ u rest, s.bm.pauseWanted = s.tx.pauseSent → s.tx.response = none → s.events.records = [] →
      s.uplink.entries = u :: rest → s.disposal = [] ∨ s.tx.mark = .disposal →
      exec .transmitterChoice s = .next
        { s with tx := { s.tx with mark := .up, line := some { pauseFlag := s.tx.pauseSent, body := .up u } } }))
  ∧ (∀ flag : Bool,
    let reasonCode : Option Reason → Byte := fun reason => match reason with
      | none => 0
      | some .unknownRequest => 0x01 | some .badLength => 0x02 | some .badState => 0x03 | some .badField => 0x04
      | some .noCursor => 0x05 | some .rateUnset => 0x06 | some .retireFull => 0x07 | some .stationBusy => 0x08
      | some .stationFaulted => 0x09 | some .addressLocked => 0x0A | some .notFaulted => 0x0B
      | some .notFrozen => 0x0C | some .unknownStation => 0x0D
      | some .delivered => 0x20 | some .failed => 0x21 | some .noCompletion => 0x22 | some .expired => 0x23
      | some .removed => 0x24 | some .stopped => 0x25 | some .stationFault => 0x26 | some .chainFault => 0x27
      | some .memoryError => 0x28
      | some .notRunning => 0x30 | some .halted => 0x31 | some .addressMismatch => 0x32 | some .queueFull => 0x33
      | some .noBuffer => 0x34
    let causeSet : CauseSet → Byte := fun c =>
      (if c.host then 1 else 0) + (if c.radio then 2 else 0) + (if c.link then 4 else 0)
    let sends := fun (out : OutBody) (kind : Byte) (words body : List Byte) =>
      let frame := [kind, if flag then 1 else 0] ++ beBytes 3 body.length ++ words ++ body
      ({ pauseFlag := flag, body := out } : OutFrame).bytes = frame ++ beBytes 4 (crc32 frame).toNat
    let event := fun (stamp : Stamp) (e : Event) (code : Byte) (fields : List Byte) =>
      sends (.event { stamp := stamp, event := e }) 0x13 [code, 0, 0]
        (beBytes 4 stamp.toNat ++ fields ++ List.replicate (12 - fields.length) 0)
    (∀ on general cells, sends (.pause on general cells) 0x15 [0, 0, 0]
      ([if on then 1 else 0, 0] ++ beBytes 2 general ++ beBytes 2 cells ++ [0, 0]))
    ∧ (∀ r : Response, sends (.response r) 0x12 ([r.code] ++ beBytes 2 r.tag.toNat)
      ([(match r.status with | .accepted => 0 | .partly => 1 | .refused => 2), reasonCode r.reason,
          BitVec.ofNat 8 r.done, 0] ++ beBytes 2 r.station ++ [0, 0] ++ r.result))
    ∧ (∀ stamp (records : List DisposalRecord), sends (.disposal stamp records) 0x14 [0, 0, 0]
      ([BitVec.ofNat 8 records.length, 0, 0, 0] ++ beBytes 4 stamp.toNat ++ records.flatMap fun x =>
        beBytes 4 x.cookie.toNat ++ beBytes 2 x.station.toNat ++ [reasonCode x.reason] ++ beBytes 3 x.length.toNat
          ++ [0, 0]))
    ∧ (∀ u : UpEntry, sends (.up u) 0x11 [0, 0, 0]
      (beBytes 2 u.station.toNat ++ beBytes 2 u.airtime.toNat ++ [u.rate, 0] ++ beBytes 4 u.charge
        ++ beBytes 4 u.stamp.toNat ++ [0, 0] ++ u.bytes))
    ∧ (∀ stamp,
      (∀ power result, event stamp (.start power result) 1
        ([if power then 1 else 2, 1, 0x51, 0x20] ++ beBytes 2 result.toNat))
      ∧ (∀ c, event stamp (.frozen c) 2 [causeSet c])
      ∧ (∀ c, event stamp (.thawed c) 3 [match c with | .host => 1 | .radio => 2 | .link => 4])
      ∧ (∀ c, event stamp (.stopped c) 4 [causeSet c])
      ∧ (∀ retired limit, event stamp (.halted retired limit) 5 (beBytes 2 retired ++ beBytes 2 limit))
      ∧ (∀ i, event stamp (.stationFreed i) 6 (beBytes 2 i))
      ∧ (∀ i, event stamp (.stationFaulted i) 7 (beBytes 2 i))
      ∧ (∀ cause phase i cookie cell segment, event stamp (.fault cause phase i cookie cell segment) 8
        ([(match cause with
            | .descParity => (1 : Byte) | .notPresent => 2 | .foreign => 3 | .badCount => 4 | .lengthMismatch => 5
            | .uncorrectable => 6),
          (match phase with | .feed => 1 | .release => 2 | .reclaim => 3)]
          ++ beBytes 2 i ++ beBytes 4 cookie.toNat
          ++ (match cell with | some c => beBytes 2 c | none => [0xFF, 0xFF]) ++ [BitVec.ofNat 8 segment]))
      ∧ (∀ slot serial, event stamp (.lateDone slot serial) 9 [slot, serial])
      ∧ (∀ cause kind slot serial i, event stamp (.radioProtocol cause kind slot serial i) 10
        ([(match cause with
            | .badFrame => 1 | .badKind => 2 | .badBody => 3 | .earlyDone => 4 | .badOutcomes => 5 | .upTooLong => 6),
          kind, slot, serial] ++ beBytes 2 i.toNat))
      ∧ (∀ up, event stamp (.radioLink up) 11 [if up then 1 else 0])))

/-- TRANSMITTER_CHOICE with a frame on the line (R1, R9, R11, R176). A DISPOSAL message, an UP frame, the START event
and the ACCEPTED response to PART RESET are ended by commands of their own and are not interrupted; any other frame has
ended, by the model's choice, when the next choice is made (log 10), and the response kept at the Request Processor is
then handed over: that it is handed over no earlier than the end of the frame before it is the model's choice too (log
11), and so is that it is before the choice (log 31). -/
def Obligations.TransmitterFinishesFrame : Prop :=
  ∀ (s : State) (f : OutFrame), s.tx.line = some f →
    (f.ownEnd = true → exec .transmitterChoice s = .next s)
    ∧ (f.ownEnd = false → (∀ r, f.body ≠ .response r) →
      exec .transmitterChoice s = exec .transmitterChoice { s with tx := { s.tx with line := none } })
    ∧ (∀ r, f.body = .response r → f.ownEnd = false →
      exec .transmitterChoice s = exec .transmitterChoice
        { s with tx := { s.tx with line := none, response := s.rp.held }, rp := { s.rp with held := none } })

/-- DISPOSAL_MESSAGE_SENT (R161, R19, R36): the descriptors of the message leave the Disposal List, are cleared and join
the tail of the free descriptor list in order, and PAUSE is evaluated, unless START waits to be sent (R189).
UP_FRAME_SENT (R11, R125): the oldest entry leaves the Uplink Buffer. START_EVENT_SENT (R36): PAUSE is evaluated. -/
def Obligations.SentFramesLeaveTheirUnits : Prop :=
  ∀ (s : State) (flag : Bool),
    (∀ stamp records, s.Canonical → s.tx.line = some { pauseFlag := flag, body := .disposal stamp records } →
      ∃ t, exec .disposalMessageSent s = .next t
        ∧ t = { s with
            tx := { s.tx with line := none }
            disposal := s.disposal.drop records.length
            bm := { s.bm with descs := t.bm.descs, freeDescs := t.bm.freeDescs, pauseWanted := t.bm.pauseWanted } }
        ∧ t.bm.freeDescs.toList = s.bm.freeDescs.toList ++ s.disposal.take records.length
        ∧ (∀ d, d ∈ s.disposal.take records.length → t.desc d = Descriptor.cleared)
        ∧ OtherDescsKeep s t (s.disposal.take records.length)
        ∧ PauseFollows s t)
    ∧ (∀ u, s.tx.line = some { pauseFlag := flag, body := .up u } →
      exec .upFrameSent s = .next
        { s with tx := { s.tx with line := none }, uplink := { s.uplink with entries := s.uplink.entries.tail } })
    ∧ (∀ st power result,
      s.tx.line = some { pauseFlag := flag, body := .event { stamp := st, event := .start power result } } →
      exec .startEventSent s = .next
        { s with
          tx := { s.tx with line := none }
          bm := { s.bm with
            pauseWanted :=
              if s.bm.freeGeneral < 256 ∨ s.bm.freeCellCount < 512 then true
              else if 512 ≤ s.bm.freeGeneral ∧ 1024 ≤ s.bm.freeCellCount then false
              else s.bm.pauseWanted } })

/-! ### Admission -/

/-- ADMISSION_DECISION, refusal (R37, R38, R40 to R45, R20, R36): with a descriptor free, the head frame is answered by
the reason of the first failing check; the head descriptor of the free list goes to the Disposal List tail, no cell moves,
and the drop is counted against a record that is not FREE. -/
def Obligations.AdmissionRefusesByFirstFailingCheck : Prop :=
  ∀ (s : State) (e : IngressEntry) (rest : List IngressEntry) (reason : Reason) (d : Nat) (free : List Nat),
    s.adm = .idle → s.rx.ingress = e :: rest → s.admissionVerdict e = some reason →
    s.bm.freeDescs.toList = d :: free →
    ∃ t, exec .admissionDecision s = .next t
      ∧ t = { s with
          rx := { s.rx with ingress := rest }
          disposal := s.disposal ++ [d]
          stations := t.stations
          bm := { s.bm with descs := t.bm.descs, freeDescs := t.bm.freeDescs, pauseWanted := t.bm.pauseWanted } }
      ∧ t.bm.freeDescs.toList = free
      ∧ t.desc d = refusalDescriptor e reason
      ∧ OtherDescsKeep s t [d]
      ∧ PauseFollows s t
      ∧ OtherStationsKeep s t e.station.toNat
      ∧ (let r := s.station e.station.toNat
         t.station e.station.toNat =
          if e.station.toNat < 512 ∧ r.admin ≠ .free then
            { r with counters := { r.counters with framesDropped := r.counters.framesDropped + 1 } }
          else r)

/-- ADMISSION_DECISION with no descriptor free (R45, R46): whatever the checks say, the unit waits and nothing else
changes. ADMISSION_RETRY, with a descriptor free again, is the whole decision made afresh. -/
def Obligations.AdmissionWaitsForDescriptor : Prop :=
  ∀ (s : State) (e : IngressEntry) (rest : List IngressEntry), s.rx.ingress = e :: rest →
    (s.adm = .idle → s.bm.freeDescs.toList = [] →
      exec .admissionDecision s = .next { s with adm := .waiting })
    ∧ (s.adm = .waiting → s.bm.freeDescs.toList = [] → exec .admissionRetry s = .next s)
    ∧ (s.adm = .waiting → s.bm.freeDescs.toList ≠ [] →
      ∃ t, exec .admissionRetry s = .next t ∧ exec .admissionDecision { s with adm := .idle } = .next t
        ∧ t.adm ≠ .waiting)

/-- ADMISSION_DECISION, acceptance (R37, R38, R20, R21, R44, R48, R36): the head descriptor and the cells are taken in
order from the heads of their lists, the owner entries name the descriptor, the segment list is that of R21, and the frame
stays in the Ingress Buffer while it is written. -/
def Obligations.AdmissionAcceptsIntoWriting : Prop :=
  ∀ (s : State) (e : IngressEntry) (rest : List IngressEntry) (d : Nat) (free : List Nat),
    s.adm = .idle → s.rx.ingress = e :: rest → s.admissionVerdict e = none → s.bm.freeDescs.toList = d :: free →
    let n := (e.declared.toNat + 255) / 256
    let cells := s.bm.freeCells.toList.take n
    ∃ t, exec .admissionDecision s = .next t
      ∧ t = { s with
          adm := .writing d
          bm := { s.bm with
            descs := t.bm.descs, freeDescs := t.bm.freeDescs, owners := t.bm.owners, freeCells := t.bm.freeCells
            pauseWanted := t.bm.pauseWanted } }
      ∧ cells.length = n
      ∧ t.bm.freeDescs.toList = free
      ∧ t.bm.freeCells.toList = s.bm.freeCells.toList.drop n
      ∧ (∀ c, t.bm.owner c = if c ∈ cells then .desc d else s.bm.owner c)
      ∧ t.desc d =
          { cookie := e.cookie, station := e.station, length := e.declared, stamp := 0, lifetime := e.lifetime
            segs := segmentList cells e.declared.toNat, parityOk := true, place := .ingress, reason := none
            badCell := none }
      ∧ OtherDescsKeep s t [d]
      ∧ PauseFollows s t

/-- APPEND, acceptance (R47, R49, R51): the rechecks pass; the descriptor is stamped, becomes QUEUED and joins the tail of
its station's queue, and the station joins a list if that makes it eligible. -/
def Obligations.AppendQueuesFrame : Prop :=
  ∀ (s : State) (d : Nat) (e : IngressEntry) (rest : List IngressEntry),
    s.adm = .writing d → s.rx.ingress = e :: rest → firstFailure ((s.admissionChecks e).eraseIdx 1) = none →
    let i := e.station.toNat
    ∃ t, exec .append s = .next t
      ∧ t = { s with
          adm := .idle
          rx := { s.rx with ingress := rest }
          bm := { s.bm with descs := t.bm.descs, mem := t.bm.mem, ecc := t.bm.ecc }
          stations := t.stations
          sched := { s.sched with entryList := t.sched.entryList, roundList := t.sched.roundList } }
      ∧ t.desc d = { s.desc d with stamp := s.timeBase, place := .queued, parityOk := true }
      ∧ OtherDescsKeep s t [d]
      ∧ t.station i = { s.station i with queue := (s.station i).queue ++ [d], list := (t.station i).list }
      ∧ OtherStationsKeep s t i
      ∧ ListsFollow s t i false

/-- APPEND, late refusal (R49, R50, R45, R36): with a recheck failing, the cells of the segment list, each the
descriptor's own and named once, return to the free cell list tail in order, and the descriptor goes to the Disposal List
as a refused frame. -/
def Obligations.AppendRefusesLate : Prop :=
  ∀ (s : State) (d : Nat) (e : IngressEntry) (rest : List IngressEntry) (reason : Reason),
    s.Canonical → s.adm = .writing d → s.rx.ingress = e :: rest →
    firstFailure ((s.admissionChecks e).eraseIdx 1) = some reason →
    ((s.desc d).segs.map fun g => g.cell.toNat).Nodup → (∀ g ∈ (s.desc d).segs, s.bm.owner g.cell.toNat = .desc d) →
    let cells := (s.desc d).segs.map fun g => g.cell.toNat
    ∃ t, exec .append s = .next t
      ∧ t = { s with
          adm := .idle
          rx := { s.rx with ingress := rest }
          disposal := s.disposal ++ [d]
          bm := { s.bm with
            descs := t.bm.descs, owners := t.bm.owners, freeCells := t.bm.freeCells, mem := t.bm.mem, ecc := t.bm.ecc
            pauseWanted := t.bm.pauseWanted }
          stations := t.stations }
      ∧ t.desc d = refusalDescriptor e reason
      ∧ OtherDescsKeep s t [d]
      ∧ t.bm.freeCells.toList = s.bm.freeCells.toList ++ cells
      ∧ (∀ c, t.bm.owner c = if c ∈ cells then .free else s.bm.owner c)
      ∧ PauseFollows s t
      ∧ OtherStationsKeep s t e.station.toNat
      ∧ (let r := s.station e.station.toNat
         t.station e.station.toNat =
          if e.station.toNat < 512 ∧ r.admin ≠ .free then
            { r with counters := { r.counters with framesDropped := r.counters.framesDropped + 1 } }
          else r)

/-- APPEND stores the frame (R47, R21): with the segment list of R21 over distinct cells, byte k of the frame stands at
offset k mod 256 of cell k / 256 of the list, the rest of the last cell reads zero, and every other byte of packet memory
reads as before, whichever way the append ends; every word of the cells written agrees with its code (R28), and every other
word reads against its code as before. That the bytes enter packet memory in the step of APPEND, and not while the
Admission Unit is WRITING, is the model's choice (log 16). -/
def Obligations.AppendStoresFrameBytes : Prop :=
  ∀ (s : State) (d : Nat) (e : IngressEntry) (rest : List IngressEntry) (cells : List Nat),
    s.Canonical → s.adm = .writing d → s.rx.ingress = e :: rest → e.bytes.length = e.declared.toNat →
    1 ≤ e.bytes.length → e.bytes.length ≤ 4096 → cells.length = (e.bytes.length + 255) / 256 → cells.Nodup →
    (∀ c ∈ cells, c < 16384) → (s.desc d).segs = segmentList cells e.bytes.length →
    ∃ t, exec .append s = .next t
      ∧ (∀ k, k < e.bytes.length →
          t.bm.mem.read (256 * cells.getD (k / 256) 0 + k % 256) = e.bytes.getD k 0)
      ∧ (∀ k, e.bytes.length ≤ k → k < 256 * cells.length →
          t.bm.mem.read (256 * cells.getD (k / 256) 0 + k % 256) = 0)
      ∧ (∀ a, a / 256 ∉ cells → t.bm.mem.read a = s.bm.mem.read a)
      ∧ (∀ c w, w < 32 → t.bm.wordEcc c w = if c ∈ cells then .sound else s.bm.wordEcc c w)

/-! ### The Radio Link and its notes -/

/-- RECEIVE_LOCK_CHANGE, LINK_UP and LINK_DOWN (R12, R13, R111, R142). A change of lock starts the count again; lock held
for 1 ms in DOWN, or lost for 100 us in UP, moves the link. The RADIO_LINK event precedes the scheduler's own; a GRANT in
progress is cut and its slot becomes SENT before LINK is added. That the settle count is 0 after the link has moved is the
model's choice (log 5), and so is which sections the cut GRANT lists, those that FEED_FAULT and CORRECTED_ECC_ERROR have
sent (log 15). -/
def Obligations.LinkFollowsReceiveLock : Prop :=
  ∀ s : State,
    (∀ lock, exec (.receiveLockChange lock) s = .next
      (if s.radio.lock = lock then s else { s with radio := { s.radio with lock := lock, settle := 0 } }))
    ∧ (s.radio.up = false → s.radio.lock = true → 1000 ≤ s.radio.settle →
      exec .linkUp s = .next
        (({ s with
            radio := { s.radio with up := true, settle := 0 }
            events := s.events.put s.timeBase (.radioLink true) } : State).causeRemoved .link))
    ∧ (s.radio.up = true → s.radio.lock = false → 100 ≤ s.radio.settle →
      (s.feeder = none →
        exec .linkDown s = .next
          (({ s with
              radio := { s.radio with up := false, settle := 0 }
              uplink := { s.uplink with claim := none }
              events := s.events.put s.timeBase (.radioLink false) } : State).causeAdded .link))
      ∧ (∀ f g out, s.feeder = some f → s.slot f.slot = some g → s.radio.stream = some out →
        exec .linkDown s = .next
          (({ s.setSlot f.slot
                (some { g with stream := .sent { limit := 1000 * s.rp.options.grantTimeout, elapsed := 0 } }) with
              radio := { s.radio with up := false, settle := 0, stream := some { out with ended := .cut } }
              uplink := { s.uplink with claim := none }
              events := s.events.put s.timeBase (.radioLink false)
              feeder := none } : State).causeAdded .link)))

/-- MEDIUM_HOLD and MEDIUM_RELEASE, FREEZE and THAW (R14, R134, R135, R137, R139 to R141): RADIO, and HOST, joins or
leaves the cause set, and the state moves as R135 and R137 lay down. The notes do so in every scheduler state, whatever
station index they carry. The result of FREEZE and THAW is the scheduler state and the cause set after the step. In the
response, byte 2 and bytes 4 to 5, which 12.4 gives no value there, are 0: the model's choice (log 29), and so is its
hand-over in the step that makes it (log 31). -/
def Obligations.HostAndRadioMoveCauses : Prop :=
  (∀ (frame : List Byte) (s : State), s.inReset = false →
    (soundNote 4 frame = true → exec (.mediumHold frame) s = .next (s.causeAdded .radio))
    ∧ (soundNote 5 frame = true → exec (.mediumRelease frame) s = .next (s.causeRemoved .radio)))
  ∧ (∀ (s : State) (q : Request) (rest : List Request),
      let result := fun t : State =>
        [(match t.sched.state with
          | .off => 0 | .running => 1 | .freezing => 2 | .frozen => 3 | .stopping => 4 | .halted => (5 : Byte)),
         (if t.sched.causes.host = true then 1 else 0) + (if t.sched.causes.radio = true then 2 else 0)
          + (if t.sched.causes.link = true then 4 else 0)]
      (s.Serves .freeze q rest →
        exec .freeze s = .next
          ((s.causeAdded .host).answered rest (acceptedResponse q (result (s.causeAdded .host))) none))
      ∧ (s.Serves .thaw q rest →
        exec .thaw s = .next
          ((s.causeRemoved .host).answered rest (acceptedResponse q (result (s.causeRemoved .host))) none)))

/-- DOZE, WAKE and POLL (R67 to R71). DOZE and WAKE are ignored and counted for an index of 512 or above, a FREE or a PURGING
record; for a FAULTED record they set the power alone. For an ACTIVE record DOZE sets the power and an eligible station
leaves its list; WAKE makes a DOZING record AWAKE, cancels its pending poll and joins a list if it is then eligible, and
changes nothing in an AWAKE one. POLL is taken for an ACTIVE, DOZING record with no poll pending, whatever its queue, hold
and slot: the poll is set and the station joins the Poll Queue tail; any other is ignored and counted. -/
def Obligations.NotesMovePowerAndPolls : Prop :=
  ∀ (frame : List Byte) (s : State), s.inReset = false →
    (soundNote 1 frame = true →
      let i := fieldAt (frameBody frame) 2 2
      ∃ t, exec (.doze frame) s = .next t
        ∧ ((512 ≤ i ∨ (s.station i).admin = .free ∨ (s.station i).admin = .purging) →
            t = { s with ctr := { s.ctr with notesIgnored := s.ctr.notesIgnored + 1 } })
        ∧ (i < 512 → (s.station i).admin = .faulted →
            t = { s with stations := t.stations } ∧ OtherStationsKeep s t i
              ∧ t.station i = { s.station i with power := .dozing })
        ∧ (i < 512 → (s.station i).admin = .active →
            t = { s with
                stations := t.stations
                sched := { s.sched with entryList := t.sched.entryList, roundList := t.sched.roundList } }
              ∧ OtherStationsKeep s t i
              ∧ t.station i = { s.station i with power := .dozing, list := (t.station i).list }
              ∧ ListsFollow s t i false))
    ∧ (soundNote 2 frame = true →
      let i := fieldAt (frameBody frame) 2 2
      ∃ t, exec (.wake frame) s = .next t
        ∧ ((512 ≤ i ∨ (s.station i).admin = .free ∨ (s.station i).admin = .purging) →
            t = { s with ctr := { s.ctr with notesIgnored := s.ctr.notesIgnored + 1 } })
        ∧ (i < 512 → (s.station i).admin = .faulted →
            t = { s with stations := t.stations } ∧ OtherStationsKeep s t i
              ∧ t.station i = { s.station i with power := .awake })
        ∧ (i < 512 → (s.station i).admin = .active → (s.station i).power = .awake → t = s)
        ∧ (i < 512 → (s.station i).admin = .active → (s.station i).power = .dozing →
            t = { s with
                stations := t.stations
                sched := { s.sched with
                  entryList := t.sched.entryList, roundList := t.sched.roundList
                  pollQueue :=
                    if (s.station i).poll = true then s.sched.pollQueue.filter (· ≠ i) else s.sched.pollQueue } }
              ∧ OtherStationsKeep s t i
              ∧ t.station i = { s.station i with power := .awake, poll := false, list := (t.station i).list }
              ∧ ListsFollow s t i false))
    ∧ (soundNote 3 frame = true →
      let i := fieldAt (frameBody frame) 2 2
      ∃ t, exec (.poll frame) s = .next t
        ∧ ((i < 512 ∧ (s.station i).admin = .active ∧ (s.station i).power = .dozing ∧ (s.station i).poll = false) →
            t = { s with
                stations := t.stations
                sched := { s.sched with pollQueue := s.sched.pollQueue ++ [i] } }
              ∧ OtherStationsKeep s t i
              ∧ t.station i = { s.station i with poll := true })
        ∧ (¬ (i < 512 ∧ (s.station i).admin = .active ∧ (s.station i).power = .dozing ∧ (s.station i).poll = false) →
            t = { s with ctr := { s.ctr with notesIgnored := s.ctr.notesIgnored + 1 } }))

/-- UP_MESSAGE, the charge (R90, R96, R127, R128, R129): for an ACTIVE or FAULTED record the uplink airtime counter rises
by the airtime and the deficit falls by the share of it, held at the floor, and an Entry List member brought to 0 or below
moves to the Round List tail; any other index counts as unknown and no record changes. -/
def Obligations.UpMessageChargesStation : Prop :=
  ∀ (frame : List Byte) (s : State), s.inReset = false → sound .radio 0x32 frame = true →
    let body := frameBody frame
    let i := fieldAt body 0 2
    let airtime := fieldAt body 2 2
    let r := s.station i
    let charge := airtime * r.share.percent / 100
    let known := i < 512 ∧ (r.admin = .active ∨ r.admin = .faulted)
    (s.uplink.claim = none ∨ s.uplink.claim = some (16 + (body.length - 8))) →
    ∃ t, exec (.upMessage frame) s = .next t
      ∧ t = { s with
          stations := t.stations
          sched := { s.sched with entryList := t.sched.entryList, roundList := t.sched.roundList }
          uplink := t.uplink
          ctr := { s.ctr with unknownUplink := t.ctr.unknownUplink, protocolErrors := t.ctr.protocolErrors }
          events := t.events }
      ∧ OtherStationsKeep s t i
      ∧ (known →
          (t.station i).deficit = max (r.deficit - charge) (-1048575)
            ∧ (t.station i).counters.uplinkAirtime = r.counters.uplinkAirtime + BitVec.ofNat 48 airtime
            ∧ t.ctr.unknownUplink = s.ctr.unknownUplink
            ∧ t.station i = { r with
                deficit := (t.station i).deficit
                list := (t.station i).list
                counters := { r.counters with
                  uplinkAirtime := (t.station i).counters.uplinkAirtime
                  uplinkDiscarded :=
                    if s.uplink.claim = none ∧ 9 ≤ body.length ∧ body.length ≤ 4104 then
                      r.counters.uplinkDiscarded + 1
                    else r.counters.uplinkDiscarded } }
            ∧ (if r.list = .entry ∧ (t.station i).deficit ≤ 0 then
                (t.station i).list = .round ∧ t.sched.entryList = s.sched.entryList.filter (· ≠ i)
                  ∧ t.sched.roundList = s.sched.roundList ++ [i]
              else (t.station i).list = r.list ∧ t.sched = s.sched))
      ∧ (¬ known →
          t.station i = r ∧ t.sched = s.sched ∧ t.ctr.unknownUplink = s.ctr.unknownUplink + 1)

/-- UP_MESSAGE, the frame (R126, R127, R130, R131, R15): with space set aside the newest entry carries what its UP frame
will carry; without it nothing is stored, and a frame above 4,096 bytes is a protocol error UP_TOO_LONG. -/
def Obligations.UpMessageStoresOrLosesFrame : Prop :=
  ∀ (frame : List Byte) (s : State), s.inReset = false → sound .radio 0x32 frame = true →
    let body := frameBody frame
    let i := fieldAt body 0 2
    let known := i < 512 ∧ ((s.station i).admin = .active ∨ (s.station i).admin = .faulted)
    (s.uplink.claim = some (16 + (body.length - 8)) →
      ∃ t, exec (.upMessage frame) s = .next t ∧ t.events = s.events
        ∧ t.ctr = { s.ctr with unknownUplink := if known then s.ctr.unknownUplink else s.ctr.unknownUplink + 1 }
        ∧ t.uplink =
          { claim := none
            entries := s.uplink.entries ++
              [{ station := BitVec.ofNat 16 i, airtime := BitVec.ofNat 16 (fieldAt body 2 2), rate := byteAt body 4
                 charge := if known then fieldAt body 2 2 * (s.station i).share.percent / 100 else 0
                 stamp := s.timeBase, bytes := body.drop 8 }] })
    ∧ (s.uplink.claim = none → body.length ≤ 4104 →
      ∃ t, exec (.upMessage frame) s = .next t ∧ t.uplink = s.uplink ∧ t.events = s.events
        ∧ t.ctr = { s.ctr with unknownUplink := if known then s.ctr.unknownUplink else s.ctr.unknownUplink + 1 })
    ∧ (s.uplink.claim = none → 4104 < body.length →
      ∃ t, exec (.upMessage frame) s = .next t ∧ t.uplink = s.uplink
        ∧ t.ctr = { s.ctr with
            unknownUplink := if known then s.ctr.unknownUplink else s.ctr.unknownUplink + 1
            protocolErrors := s.ctr.protocolErrors + 1 }
        ∧ t.events = s.events.put s.timeBase (.radioProtocol .upTooLong 0x32 0 0 (BitVec.ofNat 16 i)))

/-! ### Grants -/

/-- The estimate of a frame (R84, R86): overhead plus the cost of its started 64-byte blocks in sixteenths, rounded up; the
largest is 263,163 microseconds, and an unset row gives the overhead alone. -/
def Obligations.FrameEstimate : Prop :=
  ∀ (overhead cost length : Nat),
    (16 * frameEstimate { overhead := overhead, cost := cost } length
        < 16 * overhead + (length + 63) / 64 * cost + 16)
      ∧ 16 * overhead + (length + 63) / 64 * cost ≤ 16 * frameEstimate { overhead := overhead, cost := cost } length
      ∧ frameEstimate { overhead := overhead, cost := 0 } length = overhead
      ∧ (overhead ≤ 1023 → cost ≤ 65535 → length ≤ 4096 →
          frameEstimate { overhead := overhead, cost := cost } length ≤ 263163)

/-- When a queued frame is expired (R104, R149): its age, the difference of two Time Base values modulo 2^32, exceeds its
effective lifetime in microseconds. -/
def Obligations.FrameExpiry : Prop :=
  ∀ (s : State) (r : Station) (d : Nat),
    let entry := Table.get ClassEntry.default s.sched.liveClass r.cls.val
    let field := (s.desc d).lifetime.toNat
    let lifetime :=
      if s.rp.options.lifetime = .honor ∧ 1 ≤ field ∧ field ≤ entry.maxAge - 1 then field else entry.maxAge
    s.expired r d = decide (1000 * lifetime < (s.timeBase - (s.desc d).stamp).toNat)

/-- ARBITER_CHOICE (R101, R102, R97, R92): in RUNNING, with a usable slot FREE, the Feeder idle and no candidate held, the
oldest poll that may be served is chosen and stays in the Poll Queue; then the Entry List head, which leaves its list; then
the Round List head that the top-ups bring to the head with credit. With no source, nothing changes. -/
def Obligations.ArbiterChoosesInOrder : Prop :=
  ∀ (s : State), s.Canonical → s.sched.state = .running → s.freeSlot ≠ none → s.feeder = none →
    s.sched.candidate = none →
    let poll := s.sched.pollQueue.find? fun i => !(s.station i).hold && (s.station i).slot.isNone
    (∀ i, poll = some i →
      exec .arbiterChoice s = .next
        { s with sched := { s.sched with candidate := some { station := i, kind := .poll } } })
    ∧ (∀ i rest, poll = none → s.sched.entryList = i :: rest →
      ∃ t, exec .arbiterChoice s = .next t
        ∧ t = { s with
            stations := t.stations
            sched := { s.sched with
              entryList := s.sched.entryList.filter (· ≠ i)
              roundList := s.sched.roundList.filter (· ≠ i)
              candidate := some { station := i, kind := .round } } }
        ∧ t.station i = { s.station i with list := .none } ∧ OtherStationsKeep s t i)
    ∧ (poll = none → s.sched.entryList = [] → s.sched.roundList ≠ [] →
      (∀ i ∈ s.sched.roundList, 1 ≤ (s.liveClass (s.station i)).quantum ∧ (s.station i).admin ≠ .free) →
      ∃ u t i rest, TopUps s u ∧ u.sched.roundList = i :: rest ∧ 0 < (u.station i).deficit
        ∧ exec .arbiterChoice s = .next t
        ∧ t = { u with
            stations := t.stations
            sched := { u.sched with
              roundList := u.sched.roundList.filter (· ≠ i)
              candidate := some { station := i, kind := .round } } }
        ∧ t.station i = { u.station i with list := .none } ∧ OtherStationsKeep u t i)
    ∧ (poll = none → s.sched.entryList = [] → s.sched.roundList = [] → exec .arbiterChoice s = .next s)

/-- GRANT_FORMATION of a candidate that may no longer be granted (R103): the candidacy ends with no grant; a ROUND
candidate that is still eligible joins a list tail by its deficit, and a poll stays where it is. -/
def Obligations.FormationDropsUngrantable : Prop :=
  ∀ (s : State) (i : Nat),
    (s.sched.candidate = some { station := i, kind := .round } →
      (s.sched.state ≠ .running ∨ (s.station i).eligible = false) →
      ∃ t, exec .grantFormation s = .next t
        ∧ t = { s with
            stations := t.stations
            sched := { s.sched with
              candidate := none, entryList := t.sched.entryList, roundList := t.sched.roundList } }
        ∧ ((s.station i).eligible = false → t.stations = s.stations ∧ t.sched.entryList = s.sched.entryList
            ∧ t.sched.roundList = s.sched.roundList)
        ∧ ((s.station i).eligible = true → OtherStationsKeep s t i
            ∧ (if 0 < (s.station i).deficit then
                t.station i = { s.station i with list := .entry }
                  ∧ t.sched.entryList = s.sched.entryList ++ [i] ∧ t.sched.roundList = s.sched.roundList
              else
                t.station i = { s.station i with list := .round }
                  ∧ t.sched.entryList = s.sched.entryList ∧ t.sched.roundList = s.sched.roundList ++ [i])))
    ∧ (s.sched.candidate = some { station := i, kind := .poll } →
      (s.sched.state ≠ .running ∨ (s.station i).admin ≠ .active ∨ (s.station i).power ≠ .dozing
        ∨ (s.station i).poll = false ∨ (s.station i).hold = true ∨ (s.station i).slot ≠ none) →
      exec .grantFormation s = .next { s with sched := { s.sched with candidate := none } })

/-- GRANT_FORMATION of a ROUND candidate (R99, R100, R103 to R105, R107, R108, R13, R16): the queue is divided as R105 lays
down; the frames found unfit are released in queue order, each as WalksCheckInOrder says. If a frame is placed, the
lowest-numbered FREE usable slot opens with the next serial, the GRANT begins with its fixed part, and the Feeder streams;
with the link DOWN the GRANT is cut before its first byte and the slot is SENT. Nothing else changes. -/
def Obligations.RoundGrantIsFormed : Prop :=
  ∀ (s : State) (i k : Nat), s.Canonical →
    s.sched.candidate = some { station := i, kind := .round } → s.sched.state = .running → s.freeSlot = some k →
    s.feeder = none → (s.station i).eligible = true → (s.station i).queue.Nodup →
    let r := s.station i
    let c := s.liveClass r
    let x := divideRound (s.unfit i) (fun d => frameEstimate (s.liveRate r) (s.desc d).length.toNat) c.maxFrames
      (min r.deficit c.maxAirtime) r.queue [] 0
    ∃ v t, exec .grantFormation s = .next t
      -- the state in which the unfit frames are released: they have left the queue, and the placed frames with them
      ∧ v = { s with
          stations := v.stations, sched := { s.sched with candidate := none }, bm := { s.bm with descs := v.bm.descs } }
      ∧ v.Canonical
      ∧ OtherStationsKeep s v i
      ∧ v.station i = { r with queue := x.rest }
      ∧ OtherDescsKeep s v x.placed
      ∧ (∀ d ∈ x.placed, v.desc d = { s.desc d with place := .inGrant })
      ∧ (let u := v.releases i x.released
         u.slot k = none ∧ u.feeder = none ∧ u.radio = s.radio
          ∧ (x.placed = [] → t = u ∧ x.rest = [])
          ∧ (x.placed ≠ [] →
              t = { u with
                stations := t.stations
                sched := { u.sched with slots := t.sched.slots, serial := s.sched.serial + 1 }
                ctr := { u.ctr with grantsIssued := s.ctr.grantsIssued + 1 }
                feeder := if s.radio.up = true then some { slot := k, frame := 0, segment := 1, walk := none } else none
                radio := { s.radio with
                  stream := some
                    { slot := k, serial := s.sched.serial, station := i, kind := .round, count := x.placed.length
                      estimate := x.sum, lengths := x.placed.map fun d => (s.desc d).length.toNat, sections := []
                      ended := if s.radio.up = true then .inProgress else .cut } } }
              ∧ OtherSlotsKeep s t k
              ∧ t.slot k = some
                { serial := s.sched.serial, station := i, kind := .round
                  frames := x.placed.map fun d => { desc := d, length := (s.desc d).length.toNat }
                  estimate := x.sum
                  stream := if s.radio.up = true then .streaming
                    else .sent { limit := 1000 * s.rp.options.grantTimeout, elapsed := 0 } }
              ∧ OtherStationsKeep u t i
              ∧ t.station i = { u.station i with
                  slot := some k
                  counters := { (u.station i).counters with grants := (u.station i).counters.grants + 1 } }))
      -- and so
      ∧ (t.station i).queue = x.rest ∧ (t.station i).deficit = r.deficit
      ∧ OtherStationsKeep s t i
      ∧ OtherDescsKeep s t (x.placed ++ x.released.map Prod.fst)
      ∧ (∀ d ∈ x.placed, t.desc d = { s.desc d with place := .inGrant })
      ∧ t.sched.entryList = s.sched.entryList ∧ t.sched.roundList = s.sched.roundList
      ∧ t.bm.mem = s.bm.mem ∧ t.bm.ecc = s.bm.ecc

/-- GRANT_FORMATION of a POLL candidate (R103, R104, R106 to R108, R71, R13, R16): the first fit frame alone, or an empty
grant with estimate 0, whatever the deficit; the pending poll is cleared and the station leaves the Poll Queue. The frames
found unfit are released, and the GRANT begins, as in a ROUND grant; the frames left in the queue keep their descriptors.
Nothing else changes. -/
def Obligations.PollGrantIsFormed : Prop :=
  ∀ (s : State) (i k : Nat), s.Canonical →
    s.sched.candidate = some { station := i, kind := .poll } → s.sched.state = .running → s.freeSlot = some k →
    s.feeder = none → (s.station i).admin = .active → (s.station i).power = .dozing → (s.station i).poll = true →
    (s.station i).hold = false → (s.station i).slot = none → (s.station i).queue.Nodup →
    let r := s.station i
    let x := dividePoll (s.unfit i) (fun d => frameEstimate (s.liveRate r) (s.desc d).length.toNat) r.queue
    ∃ v t, exec .grantFormation s = .next t
      -- the state in which the unfit frames are released: they have left the queue, and the placed frame with them
      ∧ v = { s with
          stations := v.stations
          sched := { s.sched with candidate := none, pollQueue := s.sched.pollQueue.filter (· ≠ i) }
          bm := { s.bm with descs := v.bm.descs } }
      ∧ v.Canonical
      ∧ OtherStationsKeep s v i
      ∧ v.station i = { r with queue := x.rest, poll := false }
      ∧ OtherDescsKeep s v x.placed
      ∧ (∀ d ∈ x.placed, v.desc d = { s.desc d with place := .inGrant })
      ∧ (let u := v.releases i x.released
         u.slot k = none ∧ u.feeder = none ∧ u.radio = s.radio
          ∧ t = { u with
              stations := t.stations
              sched := { u.sched with slots := t.sched.slots, serial := s.sched.serial + 1 }
              ctr := { u.ctr with grantsIssued := s.ctr.grantsIssued + 1 }
              feeder := if s.radio.up = true then some { slot := k, frame := 0, segment := 1, walk := none } else none
              radio := { s.radio with
                stream := some
                  { slot := k, serial := s.sched.serial, station := i, kind := .poll, count := x.placed.length
                    estimate := x.sum, lengths := x.placed.map fun d => (s.desc d).length.toNat, sections := []
                    ended := if s.radio.up = true then .inProgress else .cut } } }
          ∧ OtherSlotsKeep s t k
          ∧ t.slot k = some
              { serial := s.sched.serial, station := i, kind := .poll
                frames := x.placed.map fun d => { desc := d, length := (s.desc d).length.toNat }
                estimate := x.sum
                stream := if s.radio.up = true then .streaming
                  else .sent { limit := 1000 * s.rp.options.grantTimeout, elapsed := 0 } }
          ∧ OtherStationsKeep u t i
          ∧ t.station i = { u.station i with
              slot := some k
              counters := { (u.station i).counters with grants := (u.station i).counters.grants + 1 } })
      -- and so
      ∧ (t.station i).queue = x.rest ∧ (t.station i).deficit = r.deficit
      ∧ (t.station i).poll = false ∧ (t.station i).power = .dozing
      ∧ OtherStationsKeep s t i
      ∧ OtherDescsKeep s t (x.placed ++ x.released.map Prod.fst)
      ∧ (∀ d ∈ x.placed, t.desc d = { s.desc d with place := .inGrant })
      ∧ t.sched.entryList = s.sched.entryList ∧ t.sched.roundList = s.sched.roundList
      ∧ t.bm.mem = s.bm.mem ∧ t.bm.ecc = s.bm.ecc

/-! ### The end of a grant -/

/-- A DONE that answers no grant (R113), by the first case that applies: LATE when its slot is absent, FREE or holds
another serial; EARLY_DONE while the slot is STREAMING; BAD_OUTCOMES when the outcomes are not as many as the frames or
one is no outcome code. It is counted and reported, and nothing else changes. -/
def Obligations.UnmatchedDoneIsDiscarded : Prop :=
  ∀ (frame : List Byte) (s : State), s.inReset = false → sound .radio 0x31 frame = true →
    let body := frameBody frame
    let slot := byteAt body 0
    let serial := byteAt body 1
    ((4 ≤ slot.toNat ∨ s.slot slot.toNat = none ∨ ∃ g, s.slot slot.toNat = some g ∧ g.serial ≠ serial) →
      exec (.done frame) s = .next
        { s with
          ctr := { s.ctr with lateDones := s.ctr.lateDones + 1 }
          events := s.events.put s.timeBase (.lateDone slot serial) })
    ∧ (∀ g, slot.toNat < 4 → s.slot slot.toNat = some g → g.serial = serial → g.stream = .streaming →
      exec (.done frame) s = .next
        { s with
          ctr := { s.ctr with protocolErrors := s.ctr.protocolErrors + 1 }
          events := s.events.put s.timeBase (.radioProtocol .earlyDone 0x31 slot serial 0) })
    ∧ (∀ g tm, slot.toNat < 4 → s.slot slot.toNat = some g → g.serial = serial → g.stream = .sent tm →
      (body.length - 8 ≠ g.frames.length ∨ ∃ o ∈ body.drop 8, 4 ≤ o.toNat) →
      exec (.done frame) s = .next
        { s with
          ctr := { s.ctr with protocolErrors := s.ctr.protocolErrors + 1 }
          events := s.events.put s.timeBase (.radioProtocol .badOutcomes 0x31 slot serial 0) })

/-- A valid DONE (R113 to R117, R88, R93, R136, R144, R157). Each frame is requeued or released by its mark, else by its
outcome; the station is charged the airtime used, takes the rate code under FOLLOW, and has its flag cleared when it is
ACTIVE with no CHAIN_FAULT mark in the grant; the frames released are released in grant order, each as WalksCheckInOrder
says; then the slot is freed, as SlotCloses says. That is with no FEED fault claim of the station waiting; one that
waits is taken first, as FAULT_CLAIM takes it (R170, log 14). The order within the step is the model's (log 17). So is
the order of its events: the HALTED and FAULT events of the releases, then STATION_FREED, then FROZEN or STOPPED as R117
says (log 17, log 27). -/
def Obligations.ValidDoneEndsGrant : Prop :=
  ∀ (frame : List Byte) (s : State) (g : Grant) (tm : Timer), s.Canonical → s.inReset = false →
    sound .radio 0x31 frame = true →
    let body := frameBody frame
    let k := (byteAt body 0).toNat
    let i := g.station
    let r := s.station i
    let airtime := fieldAt body 2 2
    let rate := (byteAt body 4).toNat
    let outcome := fun j => (byteAt body (8 + j)).toNat
    let descs := g.frames.map GrantFrame.desc
    let fates := descs.mapIdx fun j d => (d, s.fate r d (outcome j))
    let back := (fates.filter fun p => p.2.isNone).map Prod.fst
    let gone := fates.filterMap fun p => p.2.map fun reason => (p.1, reason)
    k < 4 → s.slot k = some g → g.serial = byteAt body 1 → g.stream = .sent tm →
    body.length - 8 = g.frames.length → (∀ j, j < g.frames.length → outcome j ≤ 3) → descs.Nodup →
    r.admin ≠ .free → r.slot = some k →
    (r.list = .none → (∀ c ∈ s.faultClaims, c.station = i → c.phase ≠ .feed) →
      ∃ v t, exec (.done frame) s = .next t
        -- the state in which the frames are released
        ∧ v = { s with stations := v.stations, bm := { s.bm with descs := v.bm.descs } }
        ∧ v.Canonical
        ∧ OtherDescsKeep s v back
        ∧ (∀ d ∈ back, v.desc d = { s.desc d with place := .queued })
        ∧ OtherStationsKeep s v i
        ∧ (v.station i).rate.val = (if r.rateLock = .follow ∧ rate < 64 then rate else r.rate.val)
        ∧ v.station i = { r with
            queue := back ++ r.queue
            deficit := max (r.deficit - airtime) (-1048575)
            counters := { r.counters with
              downlinkAirtime := r.counters.downlinkAirtime + BitVec.ofNat 48 airtime }
            rate := (v.station i).rate
            faultFlag :=
              if r.admin = .active ∧ (∀ d ∈ descs, (s.desc d).reason ≠ some .chainFault) then false else r.faultFlag }
        ∧ (v.releases i gone).SlotCloses k i t
        -- and so
        ∧ t.slot k = none
        ∧ OtherSlotsKeep s t k
        ∧ OtherStationsKeep s t i
        ∧ OtherDescsKeep s t descs
        ∧ (∀ d ∈ back, t.desc d = { s.desc d with place := .queued })
        ∧ t.bm.mem = s.bm.mem ∧ t.bm.ecc = s.bm.ecc
        ∧ (s.sched.state = .freezing → t.openSlots = 0 → t.sched.state = .frozen ∨ t.sched.state = .halted)
        ∧ (s.sched.state = .freezing → t.openSlots ≠ 0 → t.sched.state = .freezing ∨ t.sched.state = .halted)
        ∧ (s.sched.state = .running → t.sched.state = .running ∨ t.sched.state = .halted))
    ∧ (∀ (n : Nat) (c : FaultClaim) (s' : State), s.faultClaims[n]? = some c → c.station = i → c.phase = .feed →
      (∀ m e, m < n → s.faultClaims[m]? = some e → ¬ (e.station = i ∧ e.phase = .feed)) →
      exec (.faultClaim n) s = .next s' → exec (.done frame) s = exec (.done frame) s')

/-- GRANT_TIMEOUT at a timer that has reached the timeout (R112, R118, R89, R93, R117, R136, R144): every frame is
released in grant order with its mark or NO_COMPLETION, as WalksCheckInOrder says, the recorded estimate is charged,
nothing is requeued, and the slot is freed, as SlotCloses says. That the HALTED and FAULT events of the releases come
before STATION_FREED, FROZEN or STOPPED of the slot's freeing is the model's choice (log 27). -/
def Obligations.GrantTimeoutEndsGrant : Prop :=
  ∀ (s : State) (k : Nat) (g : Grant) (tm : Timer), s.Canonical → s.slot k = some g → g.stream = .sent tm →
    tm.limit ≤ tm.elapsed →
    let i := g.station
    let r := s.station i
    let descs := g.frames.map GrantFrame.desc
    let gone := descs.map fun d =>
      (d, if (s.desc d).reason = some .chainFault then Reason.chainFault
          else if (s.desc d).reason = some .memoryError then .memoryError else .noCompletion)
    descs.Nodup → r.admin ≠ .free → r.slot = some k → r.list = .none →
    ∃ v t, exec (.grantTimeout k) s = .next t
      -- the state in which the frames are released
      ∧ v = { s with stations := v.stations, ctr := { s.ctr with grantTimeouts := s.ctr.grantTimeouts + 1 } }
      ∧ v.Canonical
      ∧ OtherStationsKeep s v i
      ∧ v.station i = { r with deficit := max (r.deficit - g.estimate) (-1048575) }
      ∧ (v.releases i gone).SlotCloses k i t
      -- and so
      ∧ t.slot k = none
      ∧ OtherSlotsKeep s t k
      ∧ OtherStationsKeep s t i
      ∧ OtherDescsKeep s t descs
      ∧ t.ctr.grantTimeouts = s.ctr.grantTimeouts + 1
      ∧ (¬ s.TornDown i r → (t.station i).counters.downlinkAirtime = r.counters.downlinkAirtime)
      ∧ t.bm.mem = s.bm.mem ∧ t.bm.ecc = s.bm.ecc
      ∧ (s.sched.state = .freezing → t.openSlots = 0 → t.sched.state = .frozen ∨ t.sched.state = .halted)
      ∧ (s.sched.state = .freezing → t.openSlots ≠ 0 → t.sched.state = .freezing ∨ t.sched.state = .halted)
      ∧ (s.sched.state = .running → t.sched.state = .running ∨ t.sched.state = .halted)

/-! ### Walks, the Feeder and faults -/

/-- The walks of the Chain Walker (R24 to R29) and the release they end in (R26, R158 to R160, R163, R164, R72). Wrong
parity stops a walk before its first entry; the first entry that fails stops it there with the cause and cell of its
first failing check; a wrong sum is found after the last. A release walk frees the cell of each entry as it passes, but
retires the bad cell; an entry that names a cell again fails FOREIGN, while a feed walk passes both. A feed walk passes
on the bytes of each entry, no more than the length in all; a word with an uncorrectable error ends it there as
UNCORRECTABLE, and a word with a single-bit error is passed on. A release of a descriptor marked CHAIN_FAULT makes no
walk; that, and one whose walk fails, ends at the Reclaim Queue tail with CHAIN_FAULT; one whose walk is clean ends at
the Disposal List tail with the reason named; a fault is counted, reported in a FAULT event of phase RELEASE and handed
on as a fault claim, and the counters rise by the reason it ends with. Releases asked for together are made in order.
When one release both halts the scheduler by the cell it retires and fails, its HALTED event comes before its FAULT
event: no rule orders the two, and this is the model's choice (log 27). -/
def Obligations.WalksCheckInOrder : Prop :=
  (∀ (b : BufferManager) (d : Nat),
    let x := b.desc d
    (x.parityOk = false →
      b.releaseWalk d = (some { cause := .descParity, segment := 0, cell := none }, b)
        ∧ b.feedWalk d = .fault { cause := .descParity, segment := 0, cell := none } [])
    -- every entry is sound
    ∧ (x.parityOk = true → (∀ g ∈ x.segs, b.Sound d g) →
      let fault := if segmentTotal x.segs = x.length.toNat then none
        else some { cause := FaultCause.lengthMismatch, segment := x.segs.length, cell := none }
      (Table.wf Owner.free b.owners = true → (segmentCells x.segs).Nodup →
        let w := b.releaseWalk d
        w.1 = fault
          ∧ w.2.freeCells.toList =
              b.freeCells.toList ++ (segmentCells x.segs).filter (fun c => decide (x.badCell ≠ some c))
          ∧ (∀ c, w.2.owner c =
              if c ∈ segmentCells x.segs then (if x.badCell = some c then .retired else .free) else b.owner c)
          ∧ w.2 = { b with owners := w.2.owners, freeCells := w.2.freeCells })
      ∧ ((∀ g ∈ x.segs, ∀ w, w < 32 → b.wordEcc g.cell.toNat w = .sound) →
        let bytes := (x.segs.flatMap fun g => b.mem.readBytes (256 * g.cell.toNat) g.count.toNat).take x.length.toNat
        b.feedWalk d = (match fault with
          | none => .clean bytes
          | some f => .fault f bytes)))
    -- entry `g` is the first that fails, for what it holds or for naming a cell again
    ∧ (∀ before g after, Table.wf Owner.free b.owners = true → x.parityOk = true → x.segs = before ++ g :: after →
      (∀ h ∈ before, b.Sound d h) → (segmentCells before).Nodup →
      ¬ b.Sound d g ∨ g.cell.toNat ∈ segmentCells before →
      let again := g.cell.toNat ∈ segmentCells before
      let w := b.releaseWalk d
      w.1 = some
          { cause := if again then .foreign else (b.entryCause d g).1
            segment := before.length + 1
            cell := if again then some g.cell.toNat else (b.entryCause d g).2 }
        ∧ w.2.freeCells.toList =
            b.freeCells.toList ++ (segmentCells before).filter (fun c => decide (x.badCell ≠ some c))
        ∧ (∀ c, w.2.owner c =
            if c ∈ segmentCells before then (if x.badCell = some c then .retired else .free) else b.owner c)
        ∧ w.2 = { b with owners := w.2.owners, freeCells := w.2.freeCells })
    ∧ (∀ before g after, x.parityOk = true → x.segs = before ++ g :: after → (∀ h ∈ before, b.Sound d h) →
      (∀ h ∈ before, ∀ w, w < 32 → b.wordEcc h.cell.toNat w = .sound) → ¬ b.Sound d g →
      b.feedWalk d = .fault
        { cause := (b.entryCause d g).1, segment := before.length + 1, cell := (b.entryCause d g).2 }
        ((before.flatMap fun h => b.mem.readBytes (256 * h.cell.toNat) h.count.toNat).take x.length.toNat)))
  -- a feed walk that stands at segment `k`
  ∧ (∀ (b : BufferManager) (d k : Nat) (w : FeedWalk), w.read.parityOk = true →
    (w.rest = [] → b.feedOn d k w =
      (if w.sum = w.read.length.toNat then .clean w.bytes
       else .fault { cause := .lengthMismatch, segment := k - 1, cell := none } w.bytes))
    ∧ (∀ g rest, w.rest = g :: rest → w.word = 0 → ¬ b.Sound d g →
      b.feedOn d k w = .fault { cause := (b.entryCause d g).1, segment := k, cell := (b.entryCause d g).2 } w.bytes)
    ∧ (∀ g rest, w.rest = g :: rest → (w.word = 0 → b.Sound d g) →
      let c := g.cell.toNat
      let n := min g.count.toNat w.left
      let upTo := fun m => w.bytes ++ b.mem.readBytes (256 * c + 8 * w.word) (m - 8 * w.word)
      ((∀ j, w.word ≤ j → 8 * j < n → b.wordEcc c j = .sound) →
        b.feedOn d k w = b.feedOn d (k + 1)
          { w with rest := rest, sum := w.sum + g.count.toNat, left := w.left - n, word := 0, bytes := upTo n })
      ∧ (∀ e, w.word ≤ e → 8 * e < n → (∀ j, w.word ≤ j → j < e → b.wordEcc c j = .sound) →
        (b.wordEcc c e = .uncorrectable →
          b.feedOn d k w = .fault { cause := .uncorrectable, segment := k, cell := some c } (upTo (8 * e)))
        ∧ (b.wordEcc c e = .single →
          b.feedOn d k w = .corrected k { w with word := e + 1, bytes := upTo (min (8 * (e + 1)) n) }))))
  -- a release
  ∧ (∀ (s : State) (i d : Nat) (reason : Reason),
    let x := s.desc d
    let r := s.station i
    let walk := if x.reason = some .chainFault then (none, s.bm) else s.bm.releaseWalk d
    let faulty := x.reason = some .chainFault ∨ walk.1 ≠ none
    let final := if faulty then .chainFault else reason
    ∃ u t, s.release i d reason = t
      ∧ u = { s with bm := { s.bm with
          owners := walk.2.owners, freeCells := walk.2.freeCells, pauseWanted := u.bm.pauseWanted } }
      ∧ PauseFollows s u
      ∧ (let v := if s.bm.retiredCount < u.bm.retiredCount then u.haltedIfDue else u
         t = { v with
          bm := { u.bm with
            descs := t.bm.descs
            reclaim := if faulty then s.bm.reclaim ++ [d] else s.bm.reclaim }
          disposal := if faulty then s.disposal else s.disposal ++ [d]
          ctr := if walk.1 = none then s.ctr else { s.ctr with chainFaults := s.ctr.chainFaults + 1 }
          events := match walk.1 with
            | none => v.events
            | some f => v.events.put s.timeBase (.fault f.cause .release i x.cookie f.cell f.segment)
          faultClaims := if walk.1 = none then s.faultClaims
            else s.faultClaims ++ [{ station := i, admin := r.admin, phase := .release }]
          stations := t.stations })
      ∧ t.desc d = { x with reason := some final, place := if faulty then .reclaim else .disposal }
      ∧ OtherDescsKeep s t [d]
      ∧ t.station i =
          (if r.admin = .free then r
           else { r with counters := r.counters.afterRelease final x.length.toNat })
      ∧ OtherStationsKeep s t i)
  ∧ (∀ (s : State) (i d : Nat) (reason : Reason) (rest : List (Nat × Reason)),
    s.releases i [] = s ∧ s.releases i ((d, reason) :: rest) = (s.release i d reason).releases i rest)

/-- FEED_FAULT (R16, R29, R109, R110, R163, R164): the frames before frame `n` are fed clean and the walk of frame `n`
fails. Its section is filled with zeros to the recorded length and ends in ABORT; the descriptor is marked, with its bad
cell if a word was uncorrectable; the fault is counted and reported, with the cookie read at the start of the walk, and
a chain fault is handed on as a fault claim. The Feeder goes on with the next frame. That the command names the frame
and the cell, and that the clean frames before it are sent in this step, is the model's choice (log 15), and so is when
a word comes to show an error (log 7). A walk that passes its checks on a damaged descriptor with another count of bytes
than the recorded length has its section cut or filled with zeros to that length and sent COMPLETE, which is the model's
choice too (log 28). -/
def Obligations.FeedFaultMarksFrame : Prop :=
  ∀ (s : State) (n : Nat) (f : Feed) (g : Grant) (fr : GrantFrame) (out : GrantOut) (sections : List Section)
    (fault : WalkFault) (bytes : List Byte),
    s.feeder = some f → s.slot f.slot = some g → g.frames[n]? = some fr → s.radio.stream = some out → f.frame ≤ n →
    s.FedClean f g n sections → s.fedTo f n fr = .fault fault bytes →
    let x := s.desc fr.desc
    let memory := fault.cause = .uncorrectable
    ∃ t, exec (.feedFault n fault.cell) s = .next t
      ∧ t = { s with
          bm := { s.bm with descs := t.bm.descs }
          feeder := some { slot := f.slot, frame := n + 1, segment := 1, walk := none }
          radio := { s.radio with
            stream := some { out with
              sections := out.sections ++ (sections ++
                [{ length := fr.length
                   bytes := (bytes ++ List.replicate (fr.length - bytes.length) 0).take fr.length
                   trailer := .abort }]) } }
          ctr :=
            if memory then { s.ctr with memoryFaults := s.ctr.memoryFaults + 1 }
            else { s.ctr with chainFaults := s.ctr.chainFaults + 1 }
          events := s.events.put s.timeBase
            (.fault fault.cause .feed g.station (s.walkOf f n fr).2.read.cookie fault.cell fault.segment)
          faultClaims :=
            if memory then s.faultClaims
            else s.faultClaims ++ [{ station := g.station, admin := (s.station g.station).admin, phase := .feed }] }
      ∧ t.desc fr.desc =
          (if memory then { x with reason := some .memoryError, badCell := fault.cell }
           else { x with reason := some .chainFault })
      ∧ OtherDescsKeep s t [fr.desc]

/-- STREAM_END and CORRECTED_ECC_ERROR (R16, R28, R108, R109, R111, R112): with every frame left fed clean, the sections
are sent COMPLETE, the slot becomes SENT with its timer at 0, and the Feeder is idle; a word with a single-bit error
that a feed walk reads raises the corrected ECC counter, the clean frames before it are sent, the Feeder stands in that
frame at that segment with its walk past the word, and the word keeps its error. That the command names the word, by its
address divided by 8, and that the clean frames are sent in the step of these commands, is the model's choice (log 15),
and so is when a word comes to show an error (log 7). A GRANT whose sections have been sent and which ended whole went
out as the bytes of 12.5, its body length as R191 gives it. A walk that passes its checks on a damaged descriptor with
another count of bytes than the recorded length has its section cut or filled with zeros to that length and sent
COMPLETE, which is the model's choice too (log 28). -/
def Obligations.StreamEndsAndEccIsCounted : Prop :=
  (∀ (s : State) (f : Feed) (g : Grant) (out : GrantOut) (sections : List Section),
    s.feeder = some f → s.slot f.slot = some g → s.radio.stream = some out →
    (s.radio.up = true → s.FedClean f g g.frames.length sections →
      exec .streamEnd s = .next
        { s.setSlot f.slot
            (some { g with stream := .sent { limit := 1000 * s.rp.options.grantTimeout, elapsed := 0 } }) with
          feeder := none
          radio := { s.radio with stream := some { out with sections := out.sections ++ sections, ended := .whole } } })
    ∧ (∀ n fr segment walk seg rest, g.frames[n]? = some fr → f.frame ≤ n → s.FedClean f g n sections →
      s.fedTo f n fr = .corrected segment walk → walk.rest = seg :: rest →
      exec (.correctedEccError (32 * seg.cell.toNat + (walk.word - 1))) s = .next
        { s with
          feeder := some { slot := f.slot, frame := n, segment := segment, walk := some walk }
          radio := { s.radio with stream := some { out with sections := out.sections ++ sections } }
          ctr := { s.ctr with correctedEcc := s.ctr.correctedEcc + 1 } }))
  ∧ (∀ out : GrantOut,
    let fixed :=
      [BitVec.ofNat 8 out.slot, out.serial] ++ beBytes 2 out.station
        ++ [(match out.kind with | .round => (1 : Byte) | .poll => 2), BitVec.ofNat 8 out.count]
        ++ beBytes 4 out.estimate ++ [0, 0]
    let body := fixed ++ out.sections.flatMap fun x =>
      beBytes 2 x.length ++ x.bytes ++ [(match x.trailer with | .complete => (1 : Byte) | .abort => 2)]
    let frame := ([0x21, 0] : List Byte) ++ beBytes 3 (12 + (out.lengths.map fun n => 3 + n).sum) ++ [0, 0, 0] ++ body
    out.wire = frame ++ beBytes 4 (crc32 frame).toNat
      ∧ ((out.sections.map Section.length = out.lengths ∧ ∀ x ∈ out.sections, x.bytes.length = x.length) →
        body.length = 12 + (out.lengths.map fun n => 3 + n).sum))

/-- FAULT_CLAIM (R164, R167, R168, R154, R144): without effect unless the record was ACTIVE when the fault was found and is
ACTIVE now; it sets a clear fault flag; with the flag set it escalates the station to FAULTED, off its list, its pending
poll cancelled, with a FAULT purge entry and a STATION_FAULTED event. -/
def Obligations.FaultClaimSetsFlagOrEscalates : Prop :=
  ∀ (s : State) (n : Nat) (c : FaultClaim), s.faultClaims[n]? = some c →
    let i := c.station
    let r := s.station i
    (¬ (c.admin = .active ∧ r.admin = .active) →
      exec (.faultClaim n) s = .next { s with faultClaims := s.faultClaims.eraseIdx n })
    ∧ (c.admin = .active → r.admin = .active → r.faultFlag = false →
      ∃ t, exec (.faultClaim n) s = .next t
        ∧ t = { s with faultClaims := s.faultClaims.eraseIdx n, stations := t.stations }
        ∧ OtherStationsKeep s t i ∧ t.station i = { r with faultFlag := true })
    ∧ (c.admin = .active → r.admin = .active → r.faultFlag = true →
      ∃ u : State,
        exec (.faultClaim n) s = .next
            (if ∃ e ∈ s.purge, e.station = i ∧ e.purpose = .stop then u.offIfDrained else u)
          ∧ u = { s with
              faultClaims := s.faultClaims.eraseIdx n
              stations := u.stations
              sched := { s.sched with
                entryList := u.sched.entryList, roundList := u.sched.roundList
                pollQueue := if r.poll = true then s.sched.pollQueue.filter (· ≠ i) else s.sched.pollQueue }
              purge :=
                if ∃ e ∈ s.purge, e.station = i then
                  s.purge.map fun e => if e.station = i ∧ e.purpose = .stop then { e with purpose := .fault } else e
                else s.purge ++ [{ station := i, purpose := .fault }]
              events := s.events.put s.timeBase (.stationFaulted i) }
          ∧ OtherStationsKeep s u i
          ∧ u.station i = { r with admin := .faulted, poll := false, list := (u.station i).list }
          ∧ ListsFollow s u i false)

/-- The Reclaim Scan (R32, R30, R145, R163): it starts at entry 0 of the head descriptor of the Reclaim Queue and reports a
parity failure found then; each visit retires the cell if its owner entry names the descriptor, and hands the retired count
on; after entry 16383 the descriptor leaves the queue for the Disposal List with reason CHAIN_FAULT. -/
def Obligations.ReclaimScanRetiresOwnedCells : Prop :=
  ∀ s : State,
    (∀ d rest, s.bm.scan = none → s.bm.reclaim = d :: rest →
      exec .reclaimScanStart s = .next
        (if (s.desc d).parityOk = true then { s with bm := { s.bm with scan := some { desc := d, next := 0 } } }
         else
          { s with
            bm := { s.bm with scan := some { desc := d, next := 0 } }
            ctr := { s.ctr with chainFaults := s.ctr.chainFaults + 1 }
            events := s.events.put s.timeBase
              (.fault .descParity .reclaim (s.desc d).station.toNat (s.desc d).cookie none 0) }))
    ∧ (∀ d c, s.bm.scan = some { desc := d, next := c } → c < 16384 →
      (s.bm.owner c ≠ .desc d →
        exec .reclaimScanVisit s = .next { s with bm := { s.bm with scan := some { desc := d, next := c + 1 } } })
      ∧ (s.bm.owner c = .desc d →
        ∃ u : State, exec .reclaimScanVisit s = .next u.haltedIfDue
          ∧ u = { s with bm := { s.bm with owners := u.bm.owners, scan := some { desc := d, next := c + 1 } } }
          ∧ u.bm.owner c = .retired ∧ (∀ c', c' ≠ c → u.bm.owner c' = s.bm.owner c')
          ∧ u.bm.retiredCount = s.bm.retiredCount + 1))
    ∧ (∀ d c, s.bm.scan = some { desc := d, next := c } → 16384 ≤ c →
      ∃ t, exec .reclaimScanEnd s = .next t
        ∧ t = { s with
            bm := { s.bm with descs := t.bm.descs, scan := none, reclaim := s.bm.reclaim.tail }
            disposal := s.disposal ++ [d] }
        ∧ t.desc d = { s.desc d with reason := some .chainFault, place := .disposal }
        ∧ OtherDescsKeep s t [d])

/-! ### Ageing and purge -/

/-- SWEEP_TIMER and SWEEP_VISIT (R150, R151, R152, R153): the timer starts again at the interval in the Options and begins
a pass at station 0, or marks one held back while a pass is under way; a visit releases the expired frames at the head of
one station's queue with EXPIRED, each as WalksCheckInOrder says, and goes on to the next station, after the last to a
held-back pass or to none. -/
def Obligations.SweepExpiresHeadFrames : Prop :=
  ∀ s : State,
    (∀ tm, s.sweep.timer = some tm → tm.limit ≤ tm.elapsed →
      exec .sweepTimer s = .next
        { s with sweep :=
            { timer := s.freshSweepTimer
              position := some (s.sweep.position.getD 0)
              heldBack := s.sweep.heldBack || s.sweep.position.isSome } })
    ∧ (∀ i, s.Canonical → s.sweep.position = some i → (s.station i).queue.Nodup →
      ((s.station i).queue ≠ [] → (s.station i).admin ≠ .free) →
      let r := s.station i
      let gone := r.queue.takeWhile fun d => s.expired r d
      ∃ v t, exec .sweepVisit s = .next t
        -- the state in which the expired frames are released: they have left the queue
        ∧ v = { s with stations := v.stations } ∧ v.Canonical
        ∧ OtherStationsKeep s v i ∧ v.station i = { r with queue := r.queue.drop gone.length }
        ∧ (let u := v.releases i (gone.map fun d => (d, .expired))
           t = { u with
              stations := t.stations
              sched := { u.sched with entryList := t.sched.entryList, roundList := t.sched.roundList }
              sweep := { u.sweep with position := t.sweep.position, heldBack := t.sweep.heldBack } }
            ∧ OtherStationsKeep u t i ∧ t.station i = { u.station i with list := (t.station i).list })
        ∧ ListsFollow s t i false
        ∧ t.sweep.position =
            (if i + 1 < 512 then some (i + 1) else if s.sweep.heldBack = true then some 0 else none)
        ∧ t.sweep.heldBack = (if i + 1 < 512 then s.sweep.heldBack else false)
        -- and so
        ∧ OtherStationsKeep s t i
        ∧ (t.station i).queue = r.queue.drop gone.length
        ∧ OtherDescsKeep s t gone
        ∧ t.bm.mem = s.bm.mem ∧ t.bm.ecc = s.bm.ecc ∧ (∀ k, t.slot k = s.slot k) ∧ t.purge = s.purge
        ∧ (gone = [] → t = { s with sweep := t.sweep }))

/-- PURGE_STEP (R155, R156, R157, R154, R144): the head frame of the head entry's station is released with the reason of
the entry's purpose, as WalksCheckInOrder says; when the queue is empty the entry leaves, a PURGING station with its
slot free is torn down, and STOPPING ends if no STOP entry and no open slot is left. That the HALTED and FAULT events of
the release come before STATION_FREED and STOPPED of the same step is the model's choice (log 27). -/
def Obligations.PurgeStepEmptiesQueue : Prop :=
  ∀ (s : State) (e : PurgeEntry) (rest : List PurgeEntry), s.Canonical → s.purge = e :: rest →
    let i := e.station
    let r := s.station i
    let reason : Reason := match e.purpose with
      | .stop => .stopped
      | .fault => .stationFault
      | .remove => .removed
    let last := r.queue.length ≤ 1
    (r.queue ≠ [] → r.admin ≠ .free) →
    ∃ v w t, exec .purgeStep s = .next t
      -- the state in which the head frame is released: it has left the queue
      ∧ v = { s with stations := v.stations } ∧ v.Canonical
      ∧ OtherStationsKeep s v i ∧ v.station i = { r with queue := r.queue.tail }
      -- the state after the release, with its effect on the lists
      ∧ (let u := v.releases i ((r.queue.take 1).map fun d => (d, reason))
         w = { u with
            stations := w.stations
            sched := { u.sched with entryList := w.sched.entryList, roundList := w.sched.roundList } }
          ∧ OtherStationsKeep u w i ∧ w.station i = { u.station i with list := (w.station i).list })
      ∧ ListsFollow s w i false
      ∧ (¬ last → t = w)
      ∧ (last →
          let torn := r.admin = .purging ∧ r.slot = none ∧ ∀ x ∈ rest, x.station ≠ i
          ∃ z : State, t = z.offIfDrained
            ∧ z = { w with
                purge := rest, stations := z.stations
                events := if torn then w.events.put s.timeBase (.stationFreed i) else w.events }
            ∧ OtherStationsKeep w z i
            ∧ z.station i = (if torn then Station.free else w.station i))
      -- and so
      ∧ OtherStationsKeep s t i
      ∧ OtherDescsKeep s t (r.queue.take 1)
      ∧ t.bm.mem = s.bm.mem ∧ t.bm.ecc = s.bm.ecc ∧ (∀ k, t.slot k = s.slot k)
      ∧ (s.sched.state = .stopping → last → (∀ x ∈ rest, x.purpose ≠ .stop) → s.openSlots = 0 →
          t.sched.state = .off ∨ t.sched.state = .halted)
      ∧ (s.sched.state ≠ .stopping → t.sched.state = s.sched.state ∨ t.sched.state = .halted)

/-! ### Requests -/

/-- Checks 1 to 4 on the head request (R176, R177, R178, 12.4): an unknown code, an over-length body, a request not
valid in the scheduler state, and a body length that does not fit, in this order, refuse it with no effect; the reason
goes into the REFUSED response. The codes are those of 12.3. In the response, byte 2 and bytes 4 to 5, which 12.4 gives
no value there, are 0: the model's choice (log 29), and so is its hand-over in the step that makes it (log 31). -/
def Obligations.RequestsAreCheckedInOrder : Prop :=
  (∀ (s : State) (q : Request) (rest : List Request), s.rp.executing = none → s.rp.held = none → s.rp.stopped = false →
    s.rp.queue = q :: rest →
    (RequestKind.ofCode q.code = none →
      exec .unknownRequest s = .next (s.answered rest (refusedResponse q .unknownRequest) none))
    ∧ (∀ k n reason, RequestKind.ofCode q.code = some k →
      (if q.overLength = true then some Reason.badLength
       else if k.stateFault s.sched.state ≠ none then k.stateFault s.sched.state
       else if k.lengthOk q.body = false then some .badLength else none) = some reason →
      exec (k.command n) s = .next (s.answered rest (refusedResponse q reason) none)))
  ∧ (∀ (k : RequestKind) (st : SchedState),
      let noCheck := [RequestKind.identify, .stationRead, .backlogMap, .tableRead, .counterRead, .partReset]
      k.stateFault st =
        if k ∈ noCheck then none
        else if k = .start then (if st = .off then none else some .badState)
        else if k = .stop ∨ k = .freeze then
          (if st = .running ∨ st = .freezing ∨ st = .frozen then none else some .badState)
        else if k = .thaw then
          (if st = .running then some .notFrozen else if st = .freezing ∨ st = .frozen then none else some .badState)
        else if st = .halted then some .badState else none)
  ∧ (∀ (k : RequestKind) (body : List Byte),
      let n0 := (byteAt body 0).toNat
      let n1 := (byteAt body 1).toNat
      k.lengthOk body = true ↔ match k with
        | .identify | .start | .stop | .freeze | .thaw | .backlogMap | .partReset => body.length = 0
        | .setOptions => body.length = 8
        | .stationProgram => 1 ≤ n0 ∧ n0 ≤ 16 ∧ body.length = 4 + 12 * n0
        | .stationRemove | .stationClearFault => 1 ≤ n0 ∧ n0 ≤ 16 ∧ body.length = 2 + 2 * n0
        | .stationHold | .stationRelease => body.length = 64
        | .stationRead => body.length = 6
        | .classWrite => 1 ≤ n1 ∧ n1 ≤ 16 ∧ body.length = 4 + 10 * n1
        | .rateWrite => 1 ≤ n1 ∧ n1 ≤ 32 ∧ body.length = 4 + 4 * n1
        | .tableCommit | .counterRead => body.length = 1
        | .tableRead => body.length = 4)
  ∧ (∀ code : Byte, RequestKind.ofCode code =
      ([(0x01, RequestKind.identify), (0x02, .setOptions), (0x03, .start), (0x04, .stop), (0x05, .freeze), (0x06, .thaw),
        (0x10, .stationProgram), (0x11, .stationRemove), (0x12, .stationHold), (0x13, .stationRelease),
        (0x15, .stationClearFault), (0x16, .stationRead), (0x17, .backlogMap), (0x20, .classWrite), (0x21, .rateWrite),
        (0x22, .tableCommit), (0x23, .tableRead), (0x24, .counterRead), (0x3F, .partReset)].find? fun p =>
          p.1 == code.toNat).map Prod.snd)

/-- IDENTIFY and BACKLOG MAP (R74, R179, 12.4): answered with the 26 bytes of the identity, and with two maps of 512
positions, the stations with a non-empty queue and the stations held. TABLE READ (R186, 12.4): the entries of the live
or shadow copy from the start on, wrapping as writes do, each with its index; a field out of range is refused BAD_FIELD.
In the response, byte 2 and bytes 4 to 5, which 12.4 gives no value there, are 0: the model's choice (log 29), and so is
its hand-over in the step that makes it (log 31). -/
def Obligations.ReadRequestsReport : Prop :=
  (∀ (s : State) (q : Request) (rest : List Request),
      (s.Serves .identify q rest → s.rp.options.inRange → s.bm.retiredCount ≤ 16384 →
        ∃ result, exec .identify s = .next (s.answered rest (acceptedResponse q result) none)
          ∧ result.length = 26
          ∧ fieldAt result 0 2 = 0x5120
          ∧ fieldAt result 2 1 = 1
          ∧ fieldAt result 3 1 =
              (match s.sched.state with
               | .off => 0 | .running => 1 | .freezing => 2 | .frozen => 3 | .stopping => 4 | .halted => 5)
          ∧ fieldAt result 4 1 =
              (if s.sched.causes.host = true then 1 else 0) + (if s.sched.causes.radio = true then 2 else 0)
                + (if s.sched.causes.link = true then 4 else 0)
          ∧ fieldAt result 5 1 = (if s.rp.options.format = .full then 1 else 0)
          ∧ fieldAt result 6 1 = (if s.rp.options.lifetime = .ignore then 1 else 0)
          ∧ fieldAt result 7 1 = s.rp.options.slots
          ∧ fieldAt result 8 1 = s.rp.options.grantTimeout
          ∧ fieldAt result 9 1 = 0
          ∧ fieldAt result 10 2 = s.rp.options.sweep
          ∧ fieldAt result 12 2 = s.rp.options.retireLimit
          ∧ fieldAt result 14 2 = s.bm.retiredCount
          ∧ fieldAt result 16 2 = s.bm.selfTestResult.toNat
          ∧ fieldAt result 18 4 = s.timeBase.toNat
          ∧ fieldAt result 22 2 = s.rp.lost.toNat
          ∧ fieldAt result 24 2 = s.events.lost.toNat)
      ∧ (s.Serves .backlogMap q rest →
        ∃ result, exec .backlogMap s = .next (s.answered rest (acceptedResponse q result) none)
          ∧ result.length = 128
          ∧ (∀ i, i < 512 → (byteAt result (i / 8)).getLsbD (7 - i % 8) = !(s.station i).queue.isEmpty)
          ∧ (∀ i, i < 512 → (byteAt result (64 + i / 8)).getLsbD (7 - i % 8) = (s.station i).hold)))
  ∧ (∀ (s : State) (q : Request) (rest : List Request), s.Serves .tableRead q rest →
      let table := (byteAt q.body 0).toNat
      let copy := (byteAt q.body 1).toNat
      let start := (byteAt q.body 2).toNat
      let n := (byteAt q.body 3).toNat
      let classes := if copy = 1 then s.sched.liveClass else s.sched.shadowClass
      let rates := if copy = 1 then s.sched.liveRate else s.sched.shadowRate
      let classBytes := fun i : Nat =>
        let e := Table.get ClassEntry.default classes i
        [BitVec.ofNat 8 i, 0] ++ beBytes 2 e.quantum ++ beBytes 2 e.maxAirtime ++ [BitVec.ofNat 8 e.maxFrames, 0]
          ++ beBytes 2 e.queueLimit ++ beBytes 2 e.maxAge
      let rateBytes := fun i : Nat =>
        let e := Table.get RateEntry.unset rates i
        [BitVec.ofNat 8 i, 0] ++ beBytes 2 e.overhead ++ beBytes 2 e.cost
      let head := [byteAt q.body 0, byteAt q.body 1, byteAt q.body 3, 0]
      let classRead := table = 1 ∧ (copy = 1 ∨ copy = 2) ∧ start < 8 ∧ 1 ≤ n ∧ n ≤ 16
      let rateRead := table = 2 ∧ (copy = 1 ∨ copy = 2) ∧ start < 64 ∧ 1 ≤ n ∧ n ≤ 32
      (classRead → exec .tableRead s = .next (s.answered rest (acceptedResponse q
        (head ++ (List.range n).flatMap fun k => classBytes ((start + k) % 8))) none))
      ∧ (rateRead → exec .tableRead s = .next (s.answered rest (acceptedResponse q
        (head ++ (List.range n).flatMap fun k => rateBytes (start / 16 * 16 + (start % 16 + k) % 16))) none))
      ∧ (¬ classRead → ¬ rateRead → exec .tableRead s = .next (s.answered rest (refusedResponse q .badField) none)))

/-- SET OPTIONS and PART RESET (R145, R180, R181, R188): a value out of its range is refused BAD_FIELD, a change of the
usable slots outside OFF BAD_STATE; otherwise all six are written in one step, a changed retire limit is handed to the
scheduler, and the result repeats the body. PART RESET is answered ACCEPTED and no further request is taken. In the
response, byte 2 and bytes 4 to 5, which 12.4 gives no value there, are 0: the model's choice (log 29), and so is its
hand-over in the step that makes it (log 31). -/
def Obligations.OptionsAreWrittenWhole : Prop :=
  ∀ (s : State) (q : Request) (rest : List Request),
    (s.Serves .setOptions q rest →
      let b := fun k => (byteAt q.body k).toNat
      let slots := b 2
      let timeout := b 3
      let interval := fieldAt q.body 4 2
      let limit := fieldAt q.body 6 2
      let valid := b 0 ≤ 1 ∧ b 1 ≤ 1 ∧ (1 ≤ slots ∧ slots ≤ 4) ∧ 1 ≤ timeout ∧ (10 ≤ interval ∧ interval ≤ 1000)
        ∧ (16 ≤ limit ∧ limit ≤ 1024)
      let written : State :=
        { s with rp := { s.rp with options :=
          { format := if b 0 = 0 then .compact else .full
            lifetime := if b 1 = 0 then .honor else .ignore
            slots := slots, grantTimeout := timeout, sweep := interval, retireLimit := limit } } }
      (¬ valid → exec .setOptions s = .next (s.answered rest (refusedResponse q .badField) none))
      ∧ (valid → slots ≠ s.rp.options.slots → s.sched.state ≠ .off →
        exec .setOptions s = .next (s.answered rest (refusedResponse q .badState) none))
      ∧ (valid → (slots = s.rp.options.slots ∨ s.sched.state = .off) →
        exec .setOptions s = .next
          ((if limit = s.rp.options.retireLimit then written else written.haltedIfDue).answered rest
            (acceptedResponse q q.body) none)))
    ∧ (s.Serves .partReset q rest →
      exec .partReset s = .next
        (({ s with rp := { s.rp with stopped := true } } : State).answered rest (acceptedResponse q []) none))

/-- START and STOP (R133, R138, R143, R144, R147, R151, R178). START is refused RATE_UNSET with the lowest ACTIVE
station whose live rate code is unset, then RETIRE_FULL; otherwise the scheduler is RUNNING, or FROZEN with a FROZEN
event when a cause is present, and the sweep timer starts. STOP asks for a STOP purge entry for every station with a
non-empty queue that has none, in ascending index, stops the sweep timer and enters STOPPING, which may end at once. In
the responses, byte 2, and bytes 4 to 5 but for RATE_UNSET, which 12.4 gives no value there, are 0: the model's choice
(log 29), and so is their hand-over in the step that makes them (log 31). -/
def Obligations.StartAndStopMoveScheduler : Prop :=
  ∀ (s : State) (q : Request) (rest : List Request),
    (s.Serves .start q rest →
      let unset := fun i => (s.station i).admin = .active ∧ (s.liveRate (s.station i)).cost = 0
      (∀ i, i < 512 → unset i → (∀ j, j < i → ¬ unset j) →
        exec .start s = .next (s.answered rest { refusedResponse q .rateUnset with station := i } none))
      ∧ ((∀ i, i < 512 → ¬ unset i) → s.rp.options.retireLimit ≤ s.bm.retiredCount →
        exec .start s = .next (s.answered rest (refusedResponse q .retireFull) none))
      ∧ ((∀ i, i < 512 → ¬ unset i) → s.bm.retiredCount < s.rp.options.retireLimit →
        (s.sched.causes = { host := false, radio := false, link := false } →
          exec .start s = .next
            (({ s with
                sched := { s.sched with state := .running }
                sweep := { s.sweep with timer := s.freshSweepTimer } } : State).answered rest
              (acceptedResponse q [1]) none))
        ∧ (s.sched.causes ≠ { host := false, radio := false, link := false } →
          exec .start s = .next
            (({ s with
                sched := { s.sched with state := .frozen }
                sweep := { s.sweep with timer := s.freshSweepTimer }
                events := s.events.put s.timeBase (.frozen s.sched.causes) } : State).answered rest
              (acceptedResponse q [3]) none))))
    ∧ (s.Serves .stop q rest →
      let listed := fun i => ∃ e ∈ s.purge, e.station = i
      let asked := (List.range 512).filter fun i => decide ((s.station i).queue ≠ [] ∧ ¬ listed i)
      let t : State :=
        ({ s with
          purge := s.purge ++ asked.map fun i => { station := i, purpose := .stop }
          sched := { s.sched with state := .stopping }
          sweep := { s.sweep with timer := none, heldBack := false } } : State).offIfDrained
      exec .stop s = .next (t.answered rest (acceptedResponse q [if t.sched.state = .off then 0 else 4]) none))

/-- CLASS WRITE and RATE WRITE (R75 to R80): refused BAD_FIELD for a start beyond the table or one value out of range,
with nothing written; otherwise entry k is written into the shadow table at start + k, modulo 8 for classes and modulo
16 within the start's page for rates, the later of two entries for one place standing. In the response, byte 2 and bytes
4 to 5, which 12.4 gives no value there, are 0: the model's choice (log 29), and so is its hand-over in the step that
makes it (log 31). -/
def Obligations.TableWritesFillShadow : Prop :=
  ∀ (s : State) (q : Request) (rest : List Request),
    let start := (byteAt q.body 0).toNat
    let n := (byteAt q.body 1).toNat
    (s.Serves .classWrite q rest → Table.wf ClassEntry.default s.sched.shadowClass = true →
      let entry := fun k : Nat =>
        ({ quantum := fieldAt q.body (4 + 10 * k) 2, maxAirtime := fieldAt q.body (6 + 10 * k) 2
           maxFrames := fieldAt q.body (8 + 10 * k) 1, queueLimit := fieldAt q.body (10 + 10 * k) 2
           maxAge := fieldAt q.body (12 + 10 * k) 2 } : ClassEntry)
      let good := fun e : ClassEntry =>
        (100 ≤ e.quantum ∧ e.quantum ≤ 20000) ∧ (200 ≤ e.maxAirtime ∧ e.maxAirtime ≤ 10000)
          ∧ (1 ≤ e.maxFrames ∧ e.maxFrames ≤ 64) ∧ (1 ≤ e.queueLimit ∧ e.queueLimit ≤ 1024)
          ∧ (10 ≤ e.maxAge ∧ e.maxAge ≤ 5000)
      let place := fun k => (start + k) % 8
      (8 ≤ start ∨ (∃ k, k < n ∧ ¬ good (entry k)) →
        exec .classWrite s = .next (s.answered rest (refusedResponse q .badField) none))
      ∧ (start < 8 → (∀ k, k < n → good (entry k)) →
        ∃ u : State, exec .classWrite s = .next (u.answered rest (acceptedResponse q []) none)
          ∧ u = { s with sched := { s.sched with shadowClass := u.sched.shadowClass } }
          ∧ (∀ k, k < n → (∀ j, k < j → j < n → place j ≠ place k) →
              Table.get ClassEntry.default u.sched.shadowClass (place k) = entry k)
          ∧ (∀ c, (∀ k, k < n → place k ≠ c) → Table.get ClassEntry.default u.sched.shadowClass c =
              Table.get ClassEntry.default s.sched.shadowClass c)))
    ∧ (s.Serves .rateWrite q rest → Table.wf RateEntry.unset s.sched.shadowRate = true →
      let entry := fun k : Nat =>
        ({ overhead := fieldAt q.body (4 + 4 * k) 2, cost := fieldAt q.body (6 + 4 * k) 2 } : RateEntry)
      let place := fun k => start / 16 * 16 + (start % 16 + k) % 16
      (64 ≤ start ∨ (∃ k, k < n ∧ 1023 < (entry k).overhead) →
        exec .rateWrite s = .next (s.answered rest (refusedResponse q .badField) none))
      ∧ (start < 64 → (∀ k, k < n → (entry k).overhead ≤ 1023) →
        ∃ u : State, exec .rateWrite s = .next (u.answered rest (acceptedResponse q []) none)
          ∧ u = { s with sched := { s.sched with shadowRate := u.sched.shadowRate } }
          ∧ (∀ k, k < n → (∀ j, k < j → j < n → place j ≠ place k) →
              Table.get RateEntry.unset u.sched.shadowRate (place k) = entry k)
          ∧ (∀ c, (∀ k, k < n → place k ≠ c) → Table.get RateEntry.unset u.sched.shadowRate c =
              Table.get RateEntry.unset s.sched.shadowRate c)))

/-- TABLE COMMIT (R81, R82): selector 1 commits the class table, 2 the rate table, 3 both; another is refused BAD_FIELD.
In the step of a class commit the deficit of every record that is not FREE, whose class's quantum was lowered and whose
deficit is above the new one, becomes the new quantum. In the response, byte 2 and bytes 4 to 5, which 12.4 gives no
value there, are 0: the model's choice (log 29), and so is its hand-over in the step that makes it (log 31). -/
def Obligations.TableCommitClampsDeficits : Prop :=
  ∀ (s : State) (q : Request) (rest : List Request), s.Serves .tableCommit q rest →
    let sel := (byteAt q.body 0).toNat
    let classes := sel = 1 ∨ sel = 3
    let rates := sel = 2 ∨ sel = 3
    let quantum := fun (t : Table ClassEntry) (r : Station) => (Table.get ClassEntry.default t r.cls.val).quantum
    (¬ (1 ≤ sel ∧ sel ≤ 3) → exec .tableCommit s = .next (s.answered rest (refusedResponse q .badField) none))
    ∧ (1 ≤ sel → sel ≤ 3 →
      ∃ u : State,
        exec .tableCommit s = .next (u.answered rest (acceptedResponse q [BitVec.ofNat 8 sel]) none)
          ∧ u = { s with
              stations := u.stations
              sched := { s.sched with
                liveClass := if classes then s.sched.shadowClass else s.sched.liveClass
                liveRate := if rates then s.sched.shadowRate else s.sched.liveRate } }
          ∧ (∀ i,
              let r := s.station i
              let old := quantum s.sched.liveClass r
              let new := quantum s.sched.shadowClass r
              u.station i = { r with
                deficit :=
                  if classes ∧ r.admin ≠ .free ∧ new < old ∧ (new : Int) < r.deficit then (new : Int) else r.deficit }))

/-- Requests executed claim by claim (R59, R182, R185, R187): a request that passes its checks begins with nothing done;
between two of its claims other blocks' steps may be taken, and any division of its claims comes to the same; after its
answer no claim of it is left. That the number of claims is an operand is the model's form of this (log 13). So is that
byte 2 and bytes 4 to 5 of the REFUSED response, which 12.4 gives no value there, are 0 (log 29), and its hand-over in
the step that makes it (log 31). -/
def Obligations.ClaimsRunOnWhereTheyStopped : Prop :=
  ∀ (s : State) (k : RequestKind),
    k ∈ [RequestKind.stationProgram, .stationRemove, .stationHold, .stationRelease, .stationClearFault, .stationRead,
      .counterRead] →
    (∀ q rest, s.Serves k q rest →
      let b := fun j => (byteAt q.body j).toNat
      let most := if s.rp.options.format = .compact then 32 else 8
      let reason : Option Reason :=
        if k = .stationRead then
          if b 2 = 0 ∨ most < b 2 then some .badField
          else if fieldAt q.body 0 2 = 0xFFFF then (if s.rp.cursor = none then some .noCursor else none)
          else if 512 ≤ fieldAt q.body 0 2 ∨ b 3 ∉ [0, 8, 16, 32, 64] then some .badField
          else none
        else if k = .counterRead then (if 1 < b 0 then some .badField else none)
        else none
      exec (k.command 0) s = .next
        (match reason with
         | some reason => s.answered rest (refusedResponse q reason) none
         | none => { s with rp := { s.rp with queue := rest, executing := some { request := q, done := 0, out := [] } } }))
    ∧ (∀ m n t, exec (k.command m) s = .next t →
      exec (k.command (m + n)) s = if t.rp.executing = none then .next t else exec (k.command n) t)

/-- One STATION PROGRAM entry (R54, R60 to R62): a field out of range is BAD_FIELD, a PURGING record STATION_BUSY, a
FAULTED one STATION_FAULTED, an ACTIVE one with another address ADDRESS_LOCKED. A FREE record becomes ACTIVE with the
entry's fields and every other field at its FREE value; an ACTIVE one takes class, rate, rate lock and share, a class
change bringing the deficit down to the new quantum at most. In the ACCEPTED response after the last entry, byte 2 and
bytes 4 to 5, which 12.4 gives no value there, are 0: the model's choice (log 29), and so is its hand-over in the step
that makes it (log 31). -/
def Obligations.StationProgramEntry : Prop :=
  ∀ (s : State) (e : Execution), s.Executes .stationProgram e →
    let body := e.request.body
    let b := fun j => (byteAt body (4 + 12 * e.done + j)).toNat
    let i := fieldAt body (4 + 12 * e.done) 2
    let address := fieldAt body (4 + 12 * e.done + 2) 6
    let r := s.station i
    let good := i < 512 ∧ address ≠ 0 ∧ b 8 < 8 ∧ b 9 < 64 ∧ b 10 ≤ 1 ∧ b 11 ∈ [0, 25, 50, 100]
    let count := (byteAt body 0).toNat
    let fails := fun reason => exec (.stationProgram 1) s = .next (s.entryFails e i reason)
    (¬ good → fails .badField)
    ∧ (good → r.admin = .purging → fails .stationBusy)
    ∧ (good → r.admin = .faulted → fails .stationFaulted)
    ∧ (good → r.admin = .active → r.address.toNat ≠ address → fails .addressLocked)
    ∧ (good → r.admin = .free ∨ (r.admin = .active ∧ r.address.toNat = address) →
      ∃ u : State, exec (.stationProgram 1) s = .next (u.entryDone e count)
        ∧ u = { s with stations := u.stations }
        ∧ OtherStationsKeep s u i
        ∧ (u.station i).admin = .active
        ∧ (u.station i).address.toNat = address
        ∧ (u.station i).cls.val = b 8
        ∧ (u.station i).rate.val = b 9
        ∧ (u.station i).rateLock = (if b 10 = 0 then .follow else .locked)
        ∧ (u.station i).share.percent = b 11
        ∧ (u.station i).deficit =
            (if r.admin = .free then 0
             else if b 8 = r.cls.val then r.deficit
             else min r.deficit (Table.get ClassEntry.default s.sched.liveClass (b 8)).quantum)
        ∧ u.station i = { (if r.admin = .free then Station.free else r) with
            admin := (u.station i).admin, address := (u.station i).address, cls := (u.station i).cls
            rate := (u.station i).rate, rateLock := (u.station i).rateLock, share := (u.station i).share
            deficit := (u.station i).deficit })

/-- One STATION REMOVE entry (R63, R154, R144): UNKNOWN_STATION for an index of 512 or above or a FREE record; nothing
for a PURGING one; otherwise the record is PURGING, off its list, its poll cancelled, with a REMOVE purge entry. One
STATION CLEAR FAULT entry (R66, R167, R171): UNKNOWN_STATION; STATION_BUSY for a PURGING record, and for a FAULTED one
with a purge entry or a grant in flight; NOT_FAULTED for an ACTIVE one with its flag clear. A FAULTED record becomes
ACTIVE with its flag clear and its deficit 0; an ACTIVE one has its flag cleared. In the ACCEPTED response after the
last entry, byte 2 and bytes 4 to 5, which 12.4 gives no value there, are 0: the model's choice (log 29), and so is its
hand-over in the step that makes it (log 31). -/
def Obligations.StationRemoveAndClearFaultEntries : Prop :=
  (∀ (s : State) (e : Execution), s.Executes .stationRemove e →
      let i := fieldAt e.request.body (2 + 2 * e.done) 2
      let r := s.station i
      let count := (byteAt e.request.body 0).toNat
      (512 ≤ i ∨ r.admin = .free → exec (.stationRemove 1) s = .next (s.entryFails e i .unknownStation))
      ∧ (i < 512 → r.admin = .purging → exec (.stationRemove 1) s = .next (s.entryDone e count))
      ∧ (i < 512 → r.admin = .active ∨ r.admin = .faulted →
        ∃ u : State,
          exec (.stationRemove 1) s = .next
              ((if ∃ x ∈ s.purge, x.station = i ∧ x.purpose = .stop then u.offIfDrained else u).entryDone e count)
            ∧ u = { s with
                stations := u.stations
                sched := { s.sched with
                  entryList := u.sched.entryList, roundList := u.sched.roundList
                  pollQueue := if r.poll = true then s.sched.pollQueue.filter (· ≠ i) else s.sched.pollQueue }
                purge :=
                  if ∃ x ∈ s.purge, x.station = i then
                    s.purge.map fun x => if x.station = i then { x with purpose := .remove } else x
                  else s.purge ++ [{ station := i, purpose := .remove }] }
            ∧ OtherStationsKeep s u i
            ∧ u.station i = { r with admin := .purging, poll := false, list := (u.station i).list }
            ∧ ListsFollow s u i false))
  ∧ (∀ (s : State) (e : Execution), s.Executes .stationClearFault e →
      let i := fieldAt e.request.body (2 + 2 * e.done) 2
      let r := s.station i
      let count := (byteAt e.request.body 0).toNat
      let busy := (∃ x ∈ s.purge, x.station = i) ∨ r.slot ≠ none
      let fails := fun reason => exec (.stationClearFault 1) s = .next (s.entryFails e i reason)
      (512 ≤ i ∨ r.admin = .free → fails .unknownStation)
      ∧ (i < 512 → r.admin = .purging ∨ (r.admin = .faulted ∧ busy) → fails .stationBusy)
      ∧ (i < 512 → r.admin = .active → r.faultFlag = false → fails .notFaulted)
      ∧ (i < 512 → r.admin = .active → r.faultFlag = true →
        ∃ u : State, exec (.stationClearFault 1) s = .next (u.entryDone e count)
          ∧ u = { s with stations := u.stations } ∧ OtherStationsKeep s u i
          ∧ u.station i = { r with faultFlag := false })
      ∧ (i < 512 → r.admin = .faulted → ¬ busy →
        ∃ u : State, exec (.stationClearFault 1) s = .next (u.entryDone e count)
          ∧ u = { s with
              stations := u.stations
              sched := { s.sched with entryList := u.sched.entryList, roundList := u.sched.roundList } }
          ∧ OtherStationsKeep s u i
          ∧ u.station i = { r with admin := .active, faultFlag := false, deficit := 0, list := (u.station i).list }
          ∧ ListsFollow s u i false))

/-- One position of STATION HOLD and STATION RELEASE (R64, R65): a set position sets or clears the hold of a record that
is not FREE, with its effect on the lists; a clear position, or a FREE record, does nothing. The last of the 512
positions is answered ACCEPTED. In that response, byte 2 and bytes 4 to 5, which 12.4 gives no value there, are 0: the
model's choice (log 29), and so is its hand-over in the step that makes it (log 31). -/
def Obligations.HoldAndReleasePositions : Prop :=
  ∀ (s : State) (e : Execution) (hold : Bool),
    let i := e.done
    let r := s.station i
    let marked := (byteAt e.request.body (i / 8)).getLsbD (7 - i % 8)
    let command : Instr := if hold then .stationHold 1 else .stationRelease 1
    s.Executes (if hold then .stationHold else .stationRelease) e →
    (marked = false ∨ r.admin = .free → exec command s = .next (s.entryDone e 512))
    ∧ (marked = true → r.admin ≠ .free →
      ∃ u : State, exec command s = .next (u.entryDone e 512)
        ∧ u = { s with
            stations := u.stations
            sched := { s.sched with entryList := u.sched.entryList, roundList := u.sched.roundList } }
        ∧ OtherStationsKeep s u i
        ∧ u.station i = { r with hold := hold, list := (u.station i).list }
        ∧ ListsFollow s u i false)

/-- One report of STATION READ (R183, R184, R185, 12.4): the record at the index the start, the window and the reports
done give, in the format of the Options, its counters cleared in the same step if asked; after the last report the
response carries them all and the cursor is armed at the next index, or disarmed. In the response, byte 2 and bytes 4 to
5, which 12.4 gives no value there, are 0: the model's choice (log 29), and so is its hand-over in the step that makes
it (log 31). -/
def Obligations.StationReadReport : Prop :=
  ∀ (s : State) (e : Execution), s.Executes .stationRead e →
    let body := e.request.body
    let b := fun j => (byteAt body j).toNat
    let fromCursor := fieldAt body 0 2 = 0xFFFF
    let start := if fromCursor then (s.rp.cursor.map Cursor.next).getD 0 else fieldAt body 0 2
    let window := if fromCursor then (s.rp.cursor.map Cursor.window).getD 0 else b 3
    let index := fun k =>
      if window = 0 then (start + k) % 512 else start / window * window + (start % window + k) % window
    let i := index e.done
    let r := s.station i
    let full := s.rp.options.format = .full
    let counters :=
      [r.counters.downlinkAirtime, r.counters.uplinkAirtime, r.counters.framesDelivered, r.counters.framesFailed,
        r.counters.framesDropped, r.counters.bytesDelivered, r.counters.grants, r.counters.uplinkDiscarded]
    ∃ (u : State) (report : List Byte),
      exec (.stationRead 1) s = .next
          (if b 2 ≤ e.done + 1 then
            u.answered s.rp.queue
              (acceptedResponse e.request ([byteAt body 2, if full then 1 else 0, 0, 0] ++ e.out ++ report))
              (if b 4 = 0 then none else some { next := index (b 2), window := window })
          else
            { u with rp := { u.rp with executing := some { e with done := e.done + 1, out := e.out ++ report } } })
        ∧ u = { s with stations := u.stations } ∧ OtherStationsKeep s u i
        ∧ u.station i =
            (if b 5 ≠ 0 ∧ r.admin ≠ .free then { r with counters := StationCounters.zero } else r)
        ∧ report.length = (if full then 96 else 56)
        ∧ fieldAt report 0 2 = i % 65536
        ∧ fieldAt report 2 1 = (match r.admin with | .free => 0 | .active => 1 | .purging => 2 | .faulted => 3)
        ∧ fieldAt report 3 1 = r.cls.val
        ∧ fieldAt report 4 1 = r.rate.val
        ∧ (let flags := byteAt report 5
           (flags.getLsbD 7 = true ↔ r.rateLock = .locked) ∧ (flags.getLsbD 6 = true ↔ r.power = .dozing)
            ∧ flags.getLsbD 5 = r.hold ∧ flags.getLsbD 4 = r.faultFlag ∧ flags.getLsbD 3 = r.poll)
        ∧ fieldAt report 6 1 = r.share.percent
        ∧ fieldAt report 7 1 = (match r.list with | .none => 0 | .entry => 1 | .round => 2)
        ∧ (r.slot = none → fieldAt report 8 1 = 255)
        ∧ (∀ k, r.slot = some k → fieldAt report 8 1 = k % 256)
        ∧ fieldAt report 10 6 = r.address.toNat
        ∧ fieldAt report 16 4 = (BitVec.ofInt 32 r.deficit).toNat
        ∧ fieldAt report 20 2 = r.queue.length % 65536
        ∧ (¬ full → ∀ j, j < 8 → fieldAt report (24 + 4 * j) 4 = (counters.getD j 0).toNat % 4294967296)
        ∧ (full → (∀ j, j < 8 → fieldAt report (24 + 8 * j) 8 = (counters.getD j 0).toNat)
            ∧ fieldAt report 88 4 = (r.queue.head?.map fun d => (s.desc d).stamp.toNat).getD 0)

/-- One counter of COUNTER READ (R187): read in the width of the format, and cleared in the same step if asked, no other
counter changing; after the eleventh the response carries them all. In the response, byte 2 and bytes 4 to 5, which 12.4
gives no value there, are 0: the model's choice (log 29), and so is its hand-over in the step that makes it (log 31). -/
def Obligations.CounterReadReport : Prop :=
  ∀ (s : State) (e : Execution), s.Executes .counterRead e → e.done < 11 →
    let full := s.rp.options.format = .full
    let c := s.ctr.inOrder.getD e.done 0
    let report := if full then beBytes 8 c.toNat else beBytes 4 (c.toNat % 4294967296)
    ∃ u : State,
      exec (.counterRead 1) s = .next
          (if e.done = 10 then
            u.answered s.rp.queue
              (acceptedResponse e.request ([if full then 1 else 0, 0, 0, 0] ++ e.out ++ report)) none
          else
            { u with rp := { u.rp with executing := some { e with done := e.done + 1, out := e.out ++ report } } })
        ∧ u = { s with ctr := u.ctr }
        ∧ u.ctr.inOrder = (if byteAt e.request.body 0 = 1 then s.ctr.inOrder.set e.done 0 else s.ctr.inOrder)
        ∧ s.ctr.inOrder =
            [s.ctr.badFrames, s.ctr.ingressFull, s.ctr.grantsIssued, s.ctr.grantTimeouts, s.ctr.lateDones,
              s.ctr.protocolErrors, s.ctr.unknownUplink, s.ctr.notesIgnored, s.ctr.correctedEcc, s.ctr.chainFaults,
              s.ctr.memoryFaults]

/-! ### Invariants -/

/-- The state after a power-on reset obeys every law stated below. -/
def Obligations.ResetObeysLaws : Prop :=
  State.reset.Canonical ∧ State.reset.WithinCapacity ∧ State.reset.bm.CellLaw ∧ State.reset.SchedulerRelations
    ∧ State.reset.SweepTimerLaw ∧ State.reset.FeederLaw ∧ State.reset.RetireLaw ∧ State.reset.StationLaws
    ∧ State.reset.PlaceLaw

/-- Every step keeps packet memory and every table in their one canonical form, and the Ingress Buffer (R7), the Uplink
Buffer (R125), the Request Queue (R175) and the Event Queue (R190) within their capacities. -/
def Obligations.StepKeepsFormsAndCapacities : Prop :=
  ∀ s t : State, step s = .next t →
    (s.Canonical → t.Canonical) ∧ (s.WithinCapacity → t.WithinCapacity)

/-- Every step keeps law L2 (R23), and law L9 (R30): the retired count falls in no step but a reset. -/
def Obligations.StepKeepsCellLaw : Prop :=
  ∀ s t : State, s.Canonical → s.bm.CellLaw → step s = .next t →
    t.bm.CellLaw
      ∧ ((∀ c, s.pending.head? = some c → c ≠ .softReset ∧ (∀ b, c ≠ .powerOnReset b) ∧ ∀ l, c ≠ .selfTest l) →
          s.bm.retiredCount ≤ t.bm.retiredCount)

/-- Every step keeps the relations between the scheduler state, the freeze causes, the open slots and the link (R133,
R142), the sweep timer law (R151), the Feeder law (R99, R101, R111) and the retire limit (R145). -/
def Obligations.StepKeepsSchedulerLaws : Prop :=
  ∀ s t : State, s.Canonical → s.SchedulerRelations → s.SweepTimerLaw → s.FeederLaw → s.RetireLaw → step s = .next t →
    t.SchedulerRelations ∧ t.SweepTimerLaw ∧ t.FeederLaw ∧ t.RetireLaw

/-- Every step keeps the laws of the Station Table and the Airtime Scheduler: FREE records (R56), L3 of the lists (R92),
L10 of the Poll Queue (R71), L4 of the slots (R99), L6 of the deficits (R87), the class ranges (R75), the Options (R180),
at most one purge entry for a station (R154), and at most 1,088 frames in a queue and 64 in a grant (R54, R75). So the
Entry List, the Round List, the Poll Queue and the Purge List fit the 512 stations. -/
def Obligations.StepKeepsStationLaws : Prop :=
  ∀ s t : State, s.Canonical → s.StationLaws → step s = .next t → t.StationLaws ∧ t.ListsFit

/-- Every step keeps law L1 (R18): every descriptor is in exactly the place its Place field names. So the Reclaim Queue
(R31), the Disposal List (R160) and the free descriptor list (R17) hold at most 8,192. -/
def Obligations.StepKeepsPlaceLaw : Prop :=
  ∀ s t : State, s.Canonical → s.StationLaws → s.PlaceLaw → step s = .next t →
    t.PlaceLaw ∧ t.bm.reclaim.length ≤ 8192 ∧ t.disposal.length ≤ 8192 ∧ t.bm.freeDescs.toList.length ≤ 8192
end

