-- ==== Sys2Proof/Laws/Bytes.lean ====
section
/-! SUPPORT. Big-endian fields: a number is read back from its bytes, and a field of a message from the part that holds
it. -/

namespace Sys2Proof.Machine

@[simp] theorem length_beBytes : ∀ n v, (beBytes n v).length = n
  | 0, _ => rfl
  | n + 1, v => by simp [beBytes, length_beBytes n v]

@[simp] theorem length_zeros (n : Nat) : (zeros n).length = n := by simp [zeros]

theorem beNat_acc : ∀ (bytes : List Byte) (acc : Nat),
    bytes.foldl (fun v b => 256 * v + b.toNat) acc = acc * 256 ^ bytes.length + beNat bytes
  | [], acc => by simp [beNat]
  | b :: rest, acc => by
    simp only [List.foldl_cons, List.length_cons, beNat]
    rw [beNat_acc rest, beNat_acc rest]
    ring

theorem beNat_cons (b : Byte) (rest : List Byte) : beNat (b :: rest) = b.toNat * 256 ^ rest.length + beNat rest := by
  simp only [beNat, List.foldl_cons]
  rw [beNat_acc]
  simp [beNat]

/-- The number read back is the number modulo what the field holds. -/
theorem beNat_beBytes : ∀ n v, beNat (beBytes n v) = v % 256 ^ n
  | 0, v => by simp [beBytes, beNat, Nat.mod_one]
  | n + 1, v => by
    rw [beBytes, beNat_cons, beNat_beBytes n v, length_beBytes]
    simp only [BitVec.toNat_ofNat, Nat.reducePow]
    rw [pow_succ, Nat.mod_mul]
    ring

theorem beNat_lt : ∀ bytes : List Byte, beNat bytes < 256 ^ bytes.length
  | [] => by simp [beNat]
  | b :: rest => by
    rw [beNat_cons, List.length_cons, pow_succ]
    have h := beNat_lt rest
    have hb : b.toNat < 256 := b.isLt
    have : b.toNat * 256 ^ rest.length ≤ 255 * 256 ^ rest.length := Nat.mul_le_mul_right _ (by omega)
    omega

/-- Bytes are the bytes of the number they spell. -/
theorem beBytes_beNat : ∀ bytes : List Byte, beBytes bytes.length (beNat bytes) = bytes
  | [] => rfl
  | b :: rest => by
    have hlt := beNat_lt rest
    have hpos : 0 < 256 ^ rest.length := by positivity
    rw [List.length_cons, beBytes, beNat_cons]
    congr 1
    · rw [show b.toNat * 256 ^ rest.length + beNat rest = beNat rest + 256 ^ rest.length * b.toNat by ring,
        Nat.add_mul_div_left _ _ hpos, Nat.div_eq_of_lt hlt]
      simp
    · conv_rhs => rw [← beBytes_beNat rest]
      rw [show b.toNat * 256 ^ rest.length + beNat rest = beNat rest + 256 ^ rest.length * b.toNat by ring]
      exact beBytes_add_mul rest.length (beNat rest) b.toNat
where
  beBytes_add_mul : ∀ n v c, beBytes n (v + 256 ^ n * c) = beBytes n v
    | 0, _, _ => rfl
    | n + 1, v, c => by
      have hpos : 0 < 256 ^ n := by positivity
      simp only [beBytes]
      rw [show v + 256 ^ (n + 1) * c = v + 256 ^ n * (256 * c) by ring, Nat.add_mul_div_left _ _ hpos]
      congr 1
      · apply BitVec.eq_of_toNat_eq
        simp [Nat.add_mul_mod_self_left]
      · exact beBytes_add_mul n v (256 * c)

/-- A field that begins at or after the end of the first part lies in the second. -/
theorem fieldAt_append_right (a b : List Byte) (offset n : Nat) (h : a.length ≤ offset) :
    fieldAt (a ++ b) offset n = fieldAt b (offset - a.length) n := by
  simp [fieldAt, List.drop_append, List.drop_eq_nil_of_le h]

/-- A field that ends within the first part lies in it. -/
theorem fieldAt_append_left (a b : List Byte) (offset n : Nat) (h : offset + n ≤ a.length) :
    fieldAt (a ++ b) offset n = fieldAt a offset n := by
  simp only [fieldAt]
  rw [List.drop_append_of_le_length (by omega), List.take_append_of_le_length (by simp; omega)]

/-- A whole part read as one field. -/
theorem fieldAt_beBytes (n v : Nat) : fieldAt (beBytes n v) 0 n = v % 256 ^ n := by
  simp [fieldAt, List.take_of_length_le, beNat_beBytes]

theorem fieldAt_lt (bytes : List Byte) (offset n : Nat) : fieldAt bytes offset n < 256 ^ n := by
  refine lt_of_lt_of_le (beNat_lt _) (Nat.pow_le_pow_right (by omega) ?_)
  simp

theorem beNat_singleton (b : Byte) : beNat [b] = b.toNat := by simp [beNat]

/-- A field of one byte is that byte. -/
theorem fieldAt_one (bytes : List Byte) (offset : Nat) : fieldAt bytes offset 1 = (byteAt bytes offset).toNat := by
  simp only [fieldAt, byteAt]
  rcases Nat.lt_or_ge offset bytes.length with h | h
  · rw [List.drop_eq_getElem_cons h, List.getD_eq_getElem _ _ h]
    exact beNat_singleton _
  · rw [List.drop_eq_nil_of_le h]
    simp [beNat, List.getD_eq_getElem?_getD, List.getElem?_eq_none h]

end Sys2Proof.Machine
end

