-- ==== Sys2Proof/Laws/Config.lean ====
section
/-! SUPPORT. The sizes and thresholds as numbers, for simp. -/

namespace Sys2Proof.Config

@[simp] theorem descriptorCount_eq : descriptorCount = 8192 := rfl
@[simp] theorem cellCount_eq : cellCount = 16384 := rfl
@[simp] theorem cellBytes_eq : cellBytes = 256 := rfl
@[simp] theorem stationCount_eq : stationCount = 512 := rfl
@[simp] theorem slotCount_eq : slotCount = 4 := rfl
@[simp] theorem reserve_eq : reserve = 32 := rfl
@[simp] theorem ingressSpace_eq : ingressSpace = 32768 := rfl
@[simp] theorem uplinkSpace_eq : uplinkSpace = 65536 := rfl
@[simp] theorem maxFrame_eq : maxFrame = 4096 := rfl
@[simp] theorem minFrame_eq : minFrame = 14 := rfl
@[simp] theorem requestPlaces_eq : requestPlaces = 8 := rfl
@[simp] theorem eventPlaces_eq : eventPlaces = 32 := rfl
@[simp] theorem maxRequestBody_eq : maxRequestBody = 1024 := rfl
@[simp] theorem disposalRecords_eq : disposalRecords = 32 := rfl
@[simp] theorem deficitFloor_eq : deficitFloor = -1048575 := rfl
@[simp] theorem lockUpTime_eq : lockUpTime = 1000 := rfl
@[simp] theorem lockDownTime_eq : lockDownTime = 100 := rfl
@[simp] theorem pauseOnDescs_eq : pauseOnDescs = 256 := rfl
@[simp] theorem pauseOnCells_eq : pauseOnCells = 512 := rfl
@[simp] theorem pauseOffDescs_eq : pauseOffDescs = 512 := rfl
@[simp] theorem pauseOffCells_eq : pauseOffCells = 1024 := rfl
@[simp] theorem partCode_eq : partCode = 0x5120 := rfl
@[simp] theorem revision_eq : revision = 1 := rfl
@[simp] theorem noSelfTest_eq : noSelfTest = 0xFFFF := rfl

end Sys2Proof.Config
end

