-- ==== Sys2Proof/Laws/Table.lean ====
section
/-! SUPPORT. What reading and writing a table come to, and that a write keeps the canonical form. -/

namespace Sys2Proof.Machine

variable {α : Type}

theorem Table.get_nil (d : α) (i : Nat) : Table.get d [] i = d := rfl

section
variable [DecidableEq α]

/-- Below the first index a canonical table reads as the default. -/
theorem Table.get_of_lt {d : α} : ∀ {t : Table α} {lo i : Nat}, Table.wfFrom d lo t = true → i < lo → Table.get d t i = d
  | [], _, _, _, _ => rfl
  | (k, v) :: rest, lo, i, h, hi => by
    simp only [Table.wfFrom, Bool.and_eq_true, decide_eq_true_eq] at h
    have hk : k ≠ i := by omega
    simp only [Table.get, hk, if_false]
    exact Table.get_of_lt h.2 (by omega)

/-- Writing one entry leaves every other as it reads. -/
theorem Table.get_set_ne (d : α) : ∀ (t : Table α) (i j : Nat) (v : α), j ≠ i →
    Table.get d (Table.set d t i v) j = Table.get d t j
  | [], i, j, v, h => by
    by_cases hv : v = d <;> simp [Table.set, Table.get, hv, Ne.symm h]
  | (k, w) :: rest, i, j, v, h => by
    have ih := Table.get_set_ne d rest i j v h
    simp only [Table.set]
    split_ifs with h1 h2 h3 h4
    · rfl
    · simp [Table.get, Ne.symm h]
    · subst h3; simp [Table.get, Ne.symm h]
    · subst h3; simp [Table.get, Ne.symm h]
    · simp only [Table.get, ih]

/-- A value other than the default is read back from any table. -/
theorem Table.get_set_same_of_ne (d : α) : ∀ (t : Table α) (i : Nat) {v : α}, v ≠ d →
    Table.get d (Table.set d t i v) i = v
  | [], i, v, hv => by simp [Table.set, Table.get, hv]
  | (k, w) :: rest, i, v, hv => by
    simp only [Table.set, hv, if_false]
    split_ifs with h1 h2
    · simp [Table.get]
    · simp [Table.get]
    · have hk : k ≠ i := fun h => h2 h.symm
      simp only [Table.get, hk, if_false]
      exact Table.get_set_same_of_ne d rest i hv

theorem Table.get_set_same_from {d : α} : ∀ {t : Table α} {lo : Nat} (i : Nat) (v : α), Table.wfFrom d lo t = true →
    Table.get d (Table.set d t i v) i = v
  | [], _, i, v, _ => by by_cases hv : v = d <;> simp [Table.set, Table.get, hv]
  | (k, w) :: rest, lo, i, v, h => by
    have h' := h
    simp only [Table.wfFrom, Bool.and_eq_true, decide_eq_true_eq] at h
    simp only [Table.set]
    split_ifs with h1 hv h2 hv
    · subst hv
      have hk : k ≠ i := by omega
      simp only [Table.get, hk, if_false]
      exact Table.get_of_lt h.2 (by omega)
    · simp [Table.get]
    · subst hv; subst h2
      exact Table.get_of_lt h.2 (by omega)
    · simp [Table.get]
    · have hk : k ≠ i := fun e => h2 e.symm
      simp only [Table.get, hk, if_false]
      exact Table.get_set_same_from i v h.2

/-- Any value is read back from a canonical table. -/
theorem Table.get_set_same {d : α} {t : Table α} (h : Table.wf d t = true) (i : Nat) (v : α) :
    Table.get d (Table.set d t i v) i = v := Table.get_set_same_from i v h

theorem Table.get_set {d : α} {t : Table α} (h : Table.wf d t = true) (i j : Nat) (v : α) :
    Table.get d (Table.set d t i v) j = if j = i then v else Table.get d t j := by
  by_cases hj : j = i
  · subst hj; simp [Table.get_set_same h]
  · simp [hj, Table.get_set_ne]

theorem Table.wfFrom_mono {d : α} {t : Table α} {lo lo' : Nat} (h : Table.wfFrom d lo t = true) (hl : lo' ≤ lo) :
    Table.wfFrom d lo' t = true := by
  cases t with
  | nil => rfl
  | cons e rest =>
    obtain ⟨k, v⟩ := e
    simp only [Table.wfFrom, Bool.and_eq_true, decide_eq_true_eq] at h ⊢
    exact ⟨⟨by omega, h.1.2⟩, h.2⟩

theorem Table.wfFrom_set {d : α} : ∀ {t : Table α} {lo : Nat} (i : Nat) (v : α), Table.wfFrom d lo t = true → lo ≤ i →
    Table.wfFrom d lo (Table.set d t i v) = true
  | [], lo, i, v, _, hi => by
    by_cases hv : v = d <;> simp [Table.set, Table.wfFrom, hv, hi]
  | (k, w) :: rest, lo, i, v, h, hi => by
    have h' := h
    simp only [Table.wfFrom, Bool.and_eq_true, decide_eq_true_eq] at h
    simp only [Table.set]
    split_ifs with h1 hv h2 hv
    · exact h'
    · simp only [Table.wfFrom, Bool.and_eq_true, decide_eq_true_eq]
      exact ⟨⟨hi, hv⟩, ⟨by omega, h.1.2⟩, h.2⟩
    · exact Table.wfFrom_mono h.2 (by omega)
    · simp only [Table.wfFrom, Bool.and_eq_true, decide_eq_true_eq]
      subst h2
      exact ⟨⟨hi, hv⟩, h.2⟩
    · simp only [Table.wfFrom, Bool.and_eq_true, decide_eq_true_eq]
      exact ⟨⟨h.1.1, h.1.2⟩, Table.wfFrom_set i v h.2 (by omega)⟩

/-- A write keeps the canonical form. -/
theorem Table.wf_set {d : α} {t : Table α} (h : Table.wf d t = true) (i : Nat) (v : α) :
    Table.wf d (Table.set d t i v) = true := Table.wfFrom_set i v h (Nat.zero_le i)

/-- A change of every listed value that never gives the default keeps the canonical form. -/
theorem Table.wfFrom_map {d : α} {f : α → α} (hf : ∀ v, v ≠ d → f v ≠ d) : ∀ {t : Table α} {lo : Nat},
    Table.wfFrom d lo t = true → Table.wfFrom d lo (t.map fun e => (e.1, f e.2)) = true
  | [], _, _ => rfl
  | (k, v) :: rest, lo, h => by
    simp only [Table.wfFrom, List.map_cons, Bool.and_eq_true, decide_eq_true_eq] at h ⊢
    exact ⟨⟨h.1.1, hf v h.1.2⟩, Table.wfFrom_map hf h.2⟩

theorem Table.wf_map {d : α} {f : α → α} (hf : ∀ v, v ≠ d → f v ≠ d) {t : Table α} (h : Table.wf d t = true) :
    Table.wf d (t.map fun e => (e.1, f e.2)) = true := Table.wfFrom_map hf h

theorem Table.wfFrom_filter {d : α} {p : Nat × α → Bool} : ∀ {t : Table α} {lo : Nat}, Table.wfFrom d lo t = true →
    Table.wfFrom d lo (t.filter p) = true
  | [], _, _ => rfl
  | (k, v) :: rest, lo, h => by
    simp only [Table.wfFrom, Bool.and_eq_true, decide_eq_true_eq] at h
    rw [List.filter_cons]
    split_ifs
    · simp only [Table.wfFrom, Bool.and_eq_true, decide_eq_true_eq]
      exact ⟨h.1, Table.wfFrom_filter h.2⟩
    · exact Table.wfFrom_mono (Table.wfFrom_filter h.2) (by omega)

/-- Entries taken out of a canonical table leave it canonical. -/
theorem Table.wf_filter {d : α} {p : Nat × α → Bool} {t : Table α} (h : Table.wf d t = true) :
    Table.wf d (t.filter p) = true := Table.wfFrom_filter h

/-- Entries taken out by their index read as the default, and every other as before. -/
theorem Table.get_filter {d : α} {p : Nat → Bool} : ∀ {t : Table α} {lo : Nat}, Table.wfFrom d lo t = true → ∀ i,
    Table.get d (t.filter fun e => p e.1) i = if p i then Table.get d t i else d
  | [], _, _, i => by simp [Table.get]
  | (k, v) :: rest, lo, h, i => by
    simp only [Table.wfFrom, Bool.and_eq_true, decide_eq_true_eq] at h
    have ih := Table.get_filter (p := p) h.2 i
    rw [List.filter_cons]
    by_cases hk : k = i
    · subst hk
      by_cases hp : p k = true
      · simp [hp, Table.get]
      · rw [if_neg hp, ih, if_neg hp, if_neg hp]
    · by_cases hp : p k = true
      · simp only [hp, if_true, Table.get, hk, if_false, ih]
      · rw [if_neg hp, ih]
        simp only [Table.get, hk, if_false]

end

section
variable [DecidableEq α]

theorem Table.wfFrom_tabulate {d : α} (f : Nat → α) : ∀ n lo,
    Table.wfFrom d lo (((List.range' lo n).map fun i => (i, f i)).filter fun e => decide (e.2 ≠ d)) = true
  | 0, _ => rfl
  | n + 1, lo => by
    rw [List.range'_succ, List.map_cons, List.filter_cons]
    split_ifs with h
    · simp only [Table.wfFrom, Bool.and_eq_true, decide_eq_true_eq]
      exact ⟨⟨le_refl _, by simpa using h⟩, Table.wfFrom_tabulate f n (lo + 1)⟩
    · exact Table.wfFrom_mono (Table.wfFrom_tabulate f n (lo + 1)) (by omega)

/-- A tabulated table is canonical. -/
theorem Table.wf_tabulate {d : α} (n : Nat) (f : Nat → α) : Table.wf d (Table.tabulate d n f) = true := by
  rw [Table.tabulate, List.range_eq_range']
  exact Table.wfFrom_tabulate f n 0

theorem Table.get_tabulate_from {d : α} (f : Nat → α) : ∀ n lo i,
    Table.get d (((List.range' lo n).map fun i => (i, f i)).filter fun e => decide (e.2 ≠ d)) i
      = if lo ≤ i ∧ i < lo + n then f i else d
  | 0, lo, i => by
    rw [if_neg (by omega)]; rfl
  | n + 1, lo, i => by
    have ih := Table.get_tabulate_from (d := d) f n (lo + 1) i
    rw [List.range'_succ, List.map_cons, List.filter_cons]
    by_cases hi : lo = i
    · subst hi
      rw [if_neg (by omega)] at ih
      by_cases hf : f lo = d
      · rw [if_neg (by simp [hf]), ih, if_pos (by omega), hf]
      · simp [hf, Table.get]
    · have : (lo ≤ i ∧ i < lo + (n + 1)) ↔ (lo + 1 ≤ i ∧ i < lo + 1 + n) := by omega
      simp only [this]
      split_ifs with h1 h2 h2 <;> simp_all [Table.get]

/-- Each entry of a tabulated table. -/
theorem Table.get_tabulate {d : α} (n : Nat) (f : Nat → α) (i : Nat) :
    Table.get d (Table.tabulate d n f) i = if i < n then f i else d := by
  rw [Table.tabulate, List.range_eq_range', Table.get_tabulate_from]
  simp

/-- Canonical tables with equal entries are equal, from any index on. -/
theorem Table.ext_from {d : α} : ∀ {t u : Table α} {lo : Nat}, Table.wfFrom d lo t = true → Table.wfFrom d lo u = true →
    (∀ i, Table.get d t i = Table.get d u i) → t = u
  | [], [], _, _, _, _ => rfl
  | [], (k, v) :: u, lo, _, h2, h => by
    have hk := h k
    simp only [Table.wfFrom, Bool.and_eq_true, decide_eq_true_eq] at h2
    simp only [Table.get, if_true] at hk
    exact absurd hk.symm h2.1.2
  | (k, v) :: t, [], lo, h1, _, h => by
    have hk := h k
    simp only [Table.wfFrom, Bool.and_eq_true, decide_eq_true_eq] at h1
    simp only [Table.get, if_true] at hk
    exact absurd hk h1.1.2
  | (k, v) :: t, (l, w) :: u, lo, h1, h2, h => by
    simp only [Table.wfFrom, Bool.and_eq_true, decide_eq_true_eq] at h1 h2
    have hkl : k = l := by
      rcases Nat.lt_trichotomy k l with hlt | heq | hgt
      · have hk := h k
        rw [Table.get, if_pos rfl, Table.get, if_neg (by omega), Table.get_of_lt h2.2 (by omega)] at hk
        exact absurd hk h1.1.2
      · exact heq
      · have hl := h l
        rw [Table.get, if_neg (by omega), Table.get_of_lt h1.2 (by omega), Table.get, if_pos rfl] at hl
        exact absurd hl.symm h2.1.2
    subst hkl
    have hv : v = w := by have hk := h k; simpa [Table.get] using hk
    subst hv
    congr 1
    apply Table.ext_from h1.2 h2.2
    intro i
    by_cases hi : k = i
    · subst hi
      rw [Table.get_of_lt h1.2 (by omega), Table.get_of_lt h2.2 (by omega)]
    · simpa [Table.get, hi] using h i

/-- Canonical tables with equal entries are equal data. -/
theorem Table.ext_get {d : α} {t u : Table α} (h1 : Table.wf d t = true) (h2 : Table.wf d u = true)
    (h : ∀ i, Table.get d t i = Table.get d u i) : t = u := Table.ext_from h1 h2 h

end

/-- A change of every listed value that leaves the default alone is a change of every entry. -/
theorem Table.get_map (d : α) {f : α → α} (hf : f d = d) : ∀ (t : Table α) (i : Nat),
    Table.get d (t.map fun e => (e.1, f e.2)) i = f (Table.get d t i)
  | [], _ => hf.symm
  | (k, v) :: rest, i => by
    simp only [List.map_cons, Table.get]
    split_ifs
    · rfl
    · exact Table.get_map d hf rest i

end Sys2Proof.Machine
end

