-- ==== Sys2Proof/Laws/Memory.lean ====
section
/-! SUPPORT. Packet memory: every write keeps the canonical form, and what a read finds after a write. -/

namespace Sys2Proof.Machine

theorem Memory.wf_nil : Memory.wf [] = true := rfl

theorem Memory.wf_write {m : Memory} (h : m.wf = true) (a : Nat) (b : Byte) : (m.write a b).wf = true :=
  Table.wf_set h a b

theorem Memory.wf_writeBytes : ∀ (bytes : List Byte) {m : Memory} (a : Nat), m.wf = true →
    (m.writeBytes a bytes).wf = true
  | [], _, _, h => h
  | b :: rest, _, a, h => Memory.wf_writeBytes rest (a + 1) (Memory.wf_write h a b)

theorem Memory.wf_writeFrame : ∀ (segs : List Segment) (bytes : List Byte) {m : Memory}, m.wf = true →
    (m.writeFrame segs bytes).wf = true
  | [], _, _, h => h
  | _ :: rest, _, _, h => Memory.wf_writeFrame rest _ (Memory.wf_writeBytes _ _ h)

theorem Memory.read_write {m : Memory} (h : m.wf = true) (a x : Nat) (b : Byte) :
    (m.write a b).read x = if x = a then b else m.read x := Table.get_set h a x b

/-- After writing bytes from `a` up, byte `k` of them stands at `a + k`, and every other address reads as before. -/
theorem Memory.read_writeBytes : ∀ (bytes : List Byte) {m : Memory} (a x : Nat), m.wf = true →
    (m.writeBytes a bytes).read x = if a ≤ x ∧ x < a + bytes.length then bytes.getD (x - a) 0 else m.read x
  | [], m, a, x, _ => by
    have : ¬ (a ≤ x ∧ x < a + ([] : List Byte).length) := by simp
    rw [if_neg this]; rfl
  | b :: rest, m, a, x, h => by
    simp only [Memory.writeBytes, List.length_cons]
    rw [Memory.read_writeBytes rest (a + 1) x (Memory.wf_write h a b), Memory.read_write h]
    by_cases hx : x = a
    · subst hx
      simp
    · by_cases h1 : a + 1 ≤ x ∧ x < a + 1 + rest.length
      · have h2 : a ≤ x ∧ x < a + (rest.length + 1) := by omega
        have h3 : x - a = (x - (a + 1)) + 1 := by omega
        simp [h1, h2, h3]
      · have h2 : ¬ (a ≤ x ∧ x < a + (rest.length + 1)) := by omega
        rw [if_neg h1, if_neg h2, if_neg hx]

theorem Memory.length_readBytes (m : Memory) : ∀ (a n : Nat), (m.readBytes a n).length = n
  | _, 0 => rfl
  | a, n + 1 => by simp [Memory.readBytes, Memory.length_readBytes m (a + 1) n]

theorem Memory.getD_readBytes (m : Memory) : ∀ (a n k : Nat), k < n → (m.readBytes a n).getD k 0 = m.read (a + k)
  | a, n + 1, 0, _ => by simp [Memory.readBytes]
  | a, n + 1, k + 1, h => by
    have := Memory.getD_readBytes m (a + 1) n k (by omega)
    simp only [Memory.readBytes, List.getD_cons_succ, this]
    congr 1; omega

/-- A longer read begins with the shorter one. -/
theorem Memory.take_readBytes (m : Memory) : ∀ (a n k : Nat), k ≤ n → (m.readBytes a n).take k = m.readBytes a k
  | _, _, 0, _ => by simp [Memory.readBytes]
  | a, n + 1, k + 1, h => by simp [Memory.readBytes, Memory.take_readBytes m (a + 1) n k (by omega)]

end Sys2Proof.Machine
end

