-- ==== Sys2Proof/Laws/Runs.lean ====
section
/-! SUPPORT. The operations on runs are those of a queue on the list they stand for. -/

namespace Sys2Proof.Machine

theorem Runs.count_eq : ∀ r : Runs, r.count = r.toList.length
  | [] => rfl
  | (a, k) :: rest => by simp [Runs.count, Runs.toList, Runs.count_eq rest]

theorem Runs.pop_eq : ∀ r : Runs, (r.pop.map fun p => (p.1, Runs.toList p.2)) =
    match r.toList with
    | [] => none
    | x :: xs => some (x, xs)
  | [] => rfl
  | (a, 0) :: rest => by simp [Runs.pop, Runs.toList]
  | (a, k + 1) :: rest => by simp [Runs.pop, Runs.toList, List.range'_succ]

theorem Runs.pop_none {r : Runs} : r.pop = none ↔ r.toList = [] := by
  have h := Runs.pop_eq r
  cases hp : r.pop <;> cases hl : r.toList <;> simp [hp, hl] at h ⊢

theorem Runs.pop_some {r r' : Runs} {x : Nat} (h : r.pop = some (x, r')) : r.toList = x :: r'.toList := by
  have e := Runs.pop_eq r
  rw [h] at e
  cases hl : r.toList with
  | nil => simp [hl] at e
  | cons y ys => simp [hl] at e; simp [e]

theorem Runs.exists_pop {r : Runs} {x : Nat} {xs : List Nat} (h : r.toList = x :: xs) :
    ∃ r', r.pop = some (x, r') ∧ r'.toList = xs := by
  cases hp : r.pop with
  | none => rw [Runs.pop_none] at hp; simp [hp] at h
  | some p =>
    obtain ⟨y, r'⟩ := p
    have e := Runs.pop_some hp
    rw [h] at e
    simp only [List.cons.injEq] at e
    exact ⟨r', by rw [e.1], e.2.symm⟩

theorem Runs.popN_some : ∀ {n : Nat} {r r' : Runs} {xs : List Nat}, r.popN n = some (xs, r') →
    xs.length = n ∧ r.toList = xs ++ r'.toList
  | 0, r, r', xs, h => by
    simp only [Runs.popN, Option.some.injEq, Prod.mk.injEq] at h
    obtain ⟨rfl, rfl⟩ := h
    simp
  | n + 1, r, r', xs, h => by
    simp only [Runs.popN] at h
    cases hp : r.pop with
    | none => simp [hp] at h
    | some p =>
      obtain ⟨x, r1⟩ := p
      simp only [hp] at h
      cases hq : r1.popN n with
      | none => simp [hq] at h
      | some q =>
        obtain ⟨ys, r2⟩ := q
        simp only [hq, Option.some.injEq, Prod.mk.injEq] at h
        obtain ⟨rfl, rfl⟩ := h
        have ih := Runs.popN_some hq
        exact ⟨by simp [ih.1], by rw [Runs.pop_some hp, ih.2]; rfl⟩

theorem Runs.exists_popN : ∀ {n : Nat} {r : Runs}, n ≤ r.toList.length →
    ∃ r', r.popN n = some (r.toList.take n, r') ∧ r'.toList = r.toList.drop n
  | 0, r, _ => ⟨r, by simp [Runs.popN], by simp⟩
  | n + 1, r, h => by
    cases hl : r.toList with
    | nil => simp [hl] at h
    | cons x xs =>
      obtain ⟨r1, hp, h1⟩ := Runs.exists_pop hl
      rw [hl] at h
      obtain ⟨r2, hq, h2⟩ := Runs.exists_popN (n := n) (r := r1) (by rw [h1]; simpa using h)
      refine ⟨r2, ?_, ?_⟩
      · simp [Runs.popN, hp, hq, h1]
      · simp [h2, h1]

theorem Runs.popN_none {n : Nat} {r : Runs} : r.popN n = none ↔ r.toList.length < n := by
  constructor
  · intro h
    by_contra hc
    obtain ⟨r', h', _⟩ := Runs.exists_popN (n := n) (r := r) (by omega)
    rw [h] at h'; cases h'
  · intro h
    cases hp : r.popN n with
    | none => rfl
    | some p =>
      obtain ⟨xs, r'⟩ := p
      have e := Runs.popN_some hp
      have := congrArg List.length e.2
      simp at this
      omega

theorem Runs.toList_push : ∀ (r : Runs) (x : Nat), (r.push x).toList = r.toList ++ [x]
  | [], x => by simp [Runs.push, Runs.toList]
  | [(a, k)], x => by
    simp only [Runs.push]
    split_ifs with h
    · subst h
      simp [Runs.toList, List.range'_concat]
      omega
    · simp [Runs.toList]
  | (a, k) :: next :: rest, x => by
    simp only [Runs.push]
    rw [Runs.toList, Runs.toList_push (next :: rest) x, Runs.toList.eq_2 a k (next :: rest)]
    simp

theorem Runs.toList_upTo (n : Nat) : (Runs.upTo n).toList = List.range n := by
  cases n <;> simp [Runs.upTo, Runs.toList, List.range_eq_range']

/-- The numbers that are no index of a canonical table, ascending (R34). -/
theorem Runs.toList_gaps {α : Type} [DecidableEq α] (d : α) (n : Nat) : ∀ (t : Table α) (lo : Nat), lo ≤ n →
    Table.wfFrom d lo t = true → (∀ e ∈ t, e.1 < n) →
    (Runs.gaps n t lo).toList = (List.range' lo (n - lo)).filter fun c => decide (Table.get d t c = d)
  | [], lo, hlo, _, _ => by
    simp only [Runs.gaps, Table.get]
    split_ifs with h
    · simp [Runs.toList, show n - 1 - lo + 1 = n - lo by omega]
    · simp [Runs.toList, show n - lo = 0 by omega]
  | (k, v) :: rest, lo, hlo, hw, hn => by
    have hw' := hw
    simp only [Table.wfFrom, Bool.and_eq_true, decide_eq_true_eq] at hw
    have hk : k < n := hn (k, v) (by simp)
    have ih := Runs.toList_gaps d n rest (k + 1) (by omega) hw.2 (fun e he => hn e (by simp [he]))
    have split : List.range' lo (n - lo) = List.range' lo (k - lo) ++ k :: List.range' (k + 1) (n - (k + 1)) := by
      rw [show n - lo = (k - lo) + (n - (k + 1) + 1) by omega, ← List.range'_append_1,
        show lo + (k - lo) = k by omega, List.range'_succ]
    have below : (List.range' lo (k - lo)).filter (fun c => decide (Table.get d ((k, v) :: rest) c = d))
        = List.range' lo (k - lo) := by
      rw [List.filter_eq_self]
      intro c hc
      rw [List.mem_range'_1] at hc
      have hkc : k ≠ c := by omega
      simp only [Table.get, hkc, if_false, decide_eq_true_eq]
      exact Table.get_of_lt hw.2 (by omega)
    have above : (List.range' (k + 1) (n - (k + 1))).filter (fun c => decide (Table.get d ((k, v) :: rest) c = d))
        = (List.range' (k + 1) (n - (k + 1))).filter fun c => decide (Table.get d rest c = d) := by
      apply List.filter_congr
      intro c hc
      rw [List.mem_range'_1] at hc
      have hkc : k ≠ c := by omega
      simp [Table.get, hkc]
    rw [split, List.filter_append, below, List.filter_cons_of_neg (by simp [Table.get, hw.1.2]), above, ← ih]
    simp only [Runs.gaps]
    split_ifs with h
    · simp [Runs.toList, show k - 1 - lo + 1 = k - lo by omega]
    · simp [show k - lo = 0 by omega]

end Sys2Proof.Machine
end

