-- ==== Sys2Proof/Laws/PacketMemory.lean ====
section
/-! SUPPORT. What the operations of the Buffer Manager do: which fields they leave alone, and what a descriptor, an owner
entry and the free lists read after them. -/

namespace Sys2Proof.Machine

/-! ### One descriptor, one owner entry -/

@[simp] theorem BufferManager.setDesc_owners (b : BufferManager) (d : Nat) (x : Descriptor) :
    (b.setDesc d x).owners = b.owners := rfl
@[simp] theorem BufferManager.setDesc_owner (b : BufferManager) (d c : Nat) (x : Descriptor) :
    (b.setDesc d x).owner c = b.owner c := rfl
@[simp] theorem BufferManager.setDesc_freeDescs (b : BufferManager) (d : Nat) (x : Descriptor) :
    (b.setDesc d x).freeDescs = b.freeDescs := rfl
@[simp] theorem BufferManager.setDesc_freeCells (b : BufferManager) (d : Nat) (x : Descriptor) :
    (b.setDesc d x).freeCells = b.freeCells := rfl
@[simp] theorem BufferManager.setDesc_mem (b : BufferManager) (d : Nat) (x : Descriptor) :
    (b.setDesc d x).mem = b.mem := rfl
@[simp] theorem BufferManager.setDesc_ecc (b : BufferManager) (d : Nat) (x : Descriptor) :
    (b.setDesc d x).ecc = b.ecc := rfl
@[simp] theorem BufferManager.setDesc_reclaim (b : BufferManager) (d : Nat) (x : Descriptor) :
    (b.setDesc d x).reclaim = b.reclaim := rfl
@[simp] theorem BufferManager.setDesc_scan (b : BufferManager) (d : Nat) (x : Descriptor) :
    (b.setDesc d x).scan = b.scan := rfl
@[simp] theorem BufferManager.setDesc_pauseWanted (b : BufferManager) (d : Nat) (x : Descriptor) :
    (b.setDesc d x).pauseWanted = b.pauseWanted := rfl
@[simp] theorem BufferManager.setDesc_retiredCount (b : BufferManager) (d : Nat) (x : Descriptor) :
    (b.setDesc d x).retiredCount = b.retiredCount := rfl

@[simp] theorem BufferManager.setOwner_desc (b : BufferManager) (c d : Nat) (o : Owner) :
    (b.setOwner c o).desc d = b.desc d := rfl
@[simp] theorem BufferManager.setOwner_freeCells (b : BufferManager) (c : Nat) (o : Owner) :
    (b.setOwner c o).freeCells = b.freeCells := rfl
@[simp] theorem BufferManager.freeCell_desc (b : BufferManager) (c d : Nat) : (b.freeCell c).desc d = b.desc d := rfl
@[simp] theorem BufferManager.retireCell_desc (b : BufferManager) (c d : Nat) : (b.retireCell c).desc d = b.desc d := rfl
@[simp] theorem BufferManager.freeCell_owners (b : BufferManager) (c : Nat) :
    (b.freeCell c).owners = Table.set Owner.free b.owners c .free := rfl
@[simp] theorem BufferManager.retireCell_owners (b : BufferManager) (c : Nat) :
    (b.retireCell c).owners = Table.set Owner.free b.owners c .retired := rfl
@[simp] theorem BufferManager.freeCell_freeCells (b : BufferManager) (c : Nat) :
    (b.freeCell c).freeCells = b.freeCells.push c := rfl
@[simp] theorem BufferManager.retireCell_freeCells (b : BufferManager) (c : Nat) :
    (b.retireCell c).freeCells = b.freeCells := rfl

theorem BufferManager.desc_setDesc_ne (b : BufferManager) {d e : Nat} (x : Descriptor) (h : e ≠ d) :
    (b.setDesc d x).desc e = b.desc e := Table.get_set_ne _ _ _ _ _ h

theorem BufferManager.desc_setDesc_same (b : BufferManager) (d : Nat) {x : Descriptor} (h : x ≠ Descriptor.cleared) :
    (b.setDesc d x).desc d = x := Table.get_set_same_of_ne _ _ _ h

theorem BufferManager.desc_setDesc {b : BufferManager} (h : Table.wf Descriptor.cleared b.descs = true) (d e : Nat)
    (x : Descriptor) : (b.setDesc d x).desc e = if e = d then x else b.desc e := Table.get_set h d e x

theorem BufferManager.owner_setOwner_ne (b : BufferManager) {c e : Nat} (o : Owner) (h : e ≠ c) :
    (b.setOwner c o).owner e = b.owner e := Table.get_set_ne _ _ _ _ _ h

theorem BufferManager.owner_setOwner_same (b : BufferManager) (c : Nat) {o : Owner} (h : o ≠ .free) :
    (b.setOwner c o).owner c = o := Table.get_set_same_of_ne _ _ _ h

theorem BufferManager.owner_setOwner {b : BufferManager} (h : Table.wf Owner.free b.owners = true) (c e : Nat)
    (o : Owner) : (b.setOwner c o).owner e = if e = c then o else b.owner e := Table.get_set h c e o

theorem BufferManager.owner_freeCell {b : BufferManager} (h : Table.wf Owner.free b.owners = true) (c e : Nat) :
    (b.freeCell c).owner e = if e = c then .free else b.owner e := Table.get_set h c e .free

theorem BufferManager.owner_retireCell (b : BufferManager) (c e : Nat) :
    (b.retireCell c).owner e = if e = c then .retired else b.owner e := by
  by_cases h : e = c
  · subst h; simp [retireCell, owner_setOwner_same]
  · simp [retireCell, owner_setOwner_ne _ _ h, h]

/-! ### Counts -/

theorem BufferManager.freeGeneral_eq (b : BufferManager) : b.freeGeneral = b.freeDescs.toList.length - 32 := by
  simp [freeGeneral, Runs.count_eq]

theorem BufferManager.freeCellCount_eq (b : BufferManager) : b.freeCellCount = b.freeCells.toList.length := by
  simp [freeCellCount, Runs.count_eq]

/-- Retiring a cell that is not retired raises the number of RETIRED entries by 1. -/
theorem Table.countP_retire : ∀ (t : Table Owner) (c : Nat), Table.get Owner.free t c ≠ .retired →
    (Table.set Owner.free t c .retired).countP (fun e => e.2 == .retired) = t.countP (fun e => e.2 == .retired) + 1
  | [], c, _ => by simp [Table.set]
  | (k, w) :: rest, c, h => by
    simp only [Table.set, Table.get] at h ⊢
    split_ifs with h1 h2 h3
    · simp_all
    · simp
    · simp_all
    · subst h3
      have : w ≠ .retired := by simpa using h
      simp [List.countP_cons, this]
    · have hk : ¬ k = c := fun e => h3 e.symm
      simp only [hk, if_false] at h
      simp only [List.countP_cons, Table.countP_retire rest c h]
      omega

/-- In a canonical table, a write that is not RETIRED over an entry that is not RETIRED leaves the number. -/
theorem Table.countP_keep : ∀ (t : Table Owner) (lo c : Nat) (o : Owner), Table.wfFrom Owner.free lo t = true →
    Table.get Owner.free t c ≠ .retired → o ≠ .retired →
    (Table.set Owner.free t c o).countP (fun e => e.2 == .retired) = t.countP (fun e => e.2 == .retired)
  | [], _, c, o, _, _, ho => by by_cases h : o = .free <;> simp [Table.set, h, ho]
  | (k, w) :: rest, lo, c, o, hw, h, ho => by
    simp only [Table.wfFrom, Bool.and_eq_true, decide_eq_true_eq] at hw
    simp only [Table.set, Table.get] at h ⊢
    split_ifs with h1 h2 h3 h4
    · rfl
    · simp [List.countP_cons, ho]
    · subst h3
      have : w ≠ .retired := by simpa using h
      simp [List.countP_cons, this]
    · subst h3
      have : w ≠ .retired := by simpa using h
      simp [List.countP_cons, this, ho]
    · have hk : ¬ k = c := fun e => h3 e.symm
      simp only [hk, if_false] at h
      simp only [List.countP_cons, Table.countP_keep rest _ c o hw.2 h ho]

/-- No write but RETIRED raises the number. -/
theorem Table.countP_set_le : ∀ (t : Table Owner) (c : Nat) (o : Owner), o ≠ .retired →
    (Table.set Owner.free t c o).countP (fun e => e.2 == .retired) ≤ t.countP (fun e => e.2 == .retired)
  | [], c, o, ho => by by_cases h : o = .free <;> simp [Table.set, h, ho]
  | (k, w) :: rest, c, o, ho => by
    have ih := Table.countP_set_le rest c o ho
    simp only [Table.set]
    split_ifs <;> simp only [List.countP_cons] <;> simp [ho] <;> omega

theorem BufferManager.retiredCount_own_le : ∀ (cells : List Nat) (b : BufferManager) (d : Nat),
    (b.own d cells).retiredCount ≤ b.retiredCount
  | [], _, _ => le_refl _
  | _ :: rest, b, d =>
    le_trans (retiredCount_own_le rest _ d) (Table.countP_set_le b.owners _ (.desc d) (by simp))

theorem BufferManager.retiredCount_giveBack_le (d : Nat) : ∀ (segs : List Segment) (b : BufferManager),
    (b.giveBack d segs).retiredCount ≤ b.retiredCount
  | [], _ => le_refl _
  | g :: rest, b => by
    rw [giveBack]
    refine le_trans (retiredCount_giveBack_le d rest _) ?_
    split
    · exact Table.countP_set_le b.owners _ .free (by simp)
    · exact le_refl _

theorem BufferManager.retiredCount_retireCell (b : BufferManager) (c : Nat) (h : b.owner c ≠ .retired) :
    (b.retireCell c).retiredCount = b.retiredCount + 1 := Table.countP_retire b.owners c h

theorem BufferManager.retiredCount_setOwner {b : BufferManager} (hw : Table.wf Owner.free b.owners = true) (c : Nat)
    {o : Owner} (h : b.owner c ≠ .retired) (ho : o ≠ .retired) : (b.setOwner c o).retiredCount = b.retiredCount :=
  Table.countP_keep b.owners 0 c o hw h ho

/-! ### Claims -/

/-- Cells taken by a descriptor name it; no other owner entry changes. -/
theorem BufferManager.owner_own : ∀ (cells : List Nat) (b : BufferManager) (d c : Nat),
    (b.own d cells).owner c = if c ∈ cells then .desc d else b.owner c
  | [], b, d, c => by simp [own]
  | a :: rest, b, d, c => by
    rw [own, owner_own rest]
    by_cases hr : c ∈ rest
    · simp [hr]
    · by_cases ha : c = a
      · subst ha; simp [hr, owner_setOwner_same]
      · simp [hr, ha, owner_setOwner_ne]

/-- A claim of cells changes the owner table alone. -/
theorem BufferManager.own_eq : ∀ (cells : List Nat) (b : BufferManager) (d : Nat),
    b.own d cells = { b with owners := (b.own d cells).owners }
  | [], _, _ => rfl
  | a :: rest, b, d => by rw [own, own_eq rest]; rfl

theorem BufferManager.wf_own : ∀ (cells : List Nat) (b : BufferManager) (d : Nat),
    Table.wf Owner.free b.owners = true → Table.wf Owner.free (b.own d cells).owners = true
  | [], _, _, h => h
  | a :: rest, b, d, h => wf_own rest _ d (Table.wf_set h _ _)

/-- A claim to queue succeeds exactly when a general descriptor and the cells are free (R20, R44). -/
theorem BufferManager.claimToQueue_isSome (b : BufferManager) (n : Nat) :
    (b.claimToQueue n).isSome = true ↔
      1 ≤ b.freeDescs.toList.length - 32 ∧ (n + 255) / 256 ≤ b.freeCells.toList.length := by
  simp only [claimToQueue, freeGeneral_eq, freeCellCount_eq, cellsFor, ceilDiv, Config.cellBytes_eq]
  rw [show n + 256 - 1 = n + 255 by omega]
  split_ifs with h
  · cases hl : b.freeDescs.toList with
    | nil => simp [hl] at h
    | cons d ds =>
      obtain ⟨r, hp, _⟩ := Runs.exists_pop hl
      obtain ⟨r', hq, _⟩ := Runs.exists_popN h.2
      simp [hp, hq, ← hl, h]
  · simp [h]

/-- What a successful claim to queue takes (R20, R21): the head descriptor and the cells, in order, from the heads of
their lists, owned by the descriptor. -/
theorem BufferManager.claimToQueue_some {b b' : BufferManager} {n d : Nat} {cells : List Nat}
    (h : b.claimToQueue n = some (d, cells, b')) :
    b.freeDescs.toList = d :: b'.freeDescs.toList
      ∧ cells = b.freeCells.toList.take ((n + 255) / 256)
      ∧ (n + 255) / 256 ≤ b.freeCells.toList.length
      ∧ b'.freeCells.toList = b.freeCells.toList.drop ((n + 255) / 256)
      ∧ (∀ c, b'.owner c = if c ∈ cells then .desc d else b.owner c)
      ∧ b' = { b with owners := b'.owners, freeDescs := b'.freeDescs, freeCells := b'.freeCells }
      ∧ (Table.wf Owner.free b.owners = true → Table.wf Owner.free b'.owners = true)
      ∧ b'.retiredCount ≤ b.retiredCount := by
  have hs := (claimToQueue_isSome b n).1 (by rw [h]; rfl)
  simp only [claimToQueue] at h
  split_ifs at h with hc
  cases hp : b.freeDescs.pop with
  | none => simp [hp] at h
  | some p =>
    obtain ⟨d1, r1⟩ := p
    cases hq : b.freeCells.popN (cellsFor n) with
    | none => simp [hp, hq] at h
    | some q =>
      obtain ⟨cs, r2⟩ := q
      simp only [hp, hq, Option.some.injEq, Prod.mk.injEq] at h
      obtain ⟨rfl, rfl, rfl⟩ := h
      have e1 := Runs.pop_some hp
      have e2 := Runs.popN_some hq
      have en : cellsFor n = (n + 255) / 256 := by simp [cellsFor, ceilDiv]
      rw [en] at e2
      have eo := own_eq cs { b with freeDescs := r1, freeCells := r2 } d1
      refine ⟨?_, ?_, hs.2, ?_, ?_, ?_, ?_, retiredCount_own_le _ _ _⟩
      · rw [eo]; exact e1
      · rw [e2.2, ← e2.1]; simp
      · rw [eo]; rw [e2.2, ← e2.1]; simp
      · intro c; rw [owner_own]; rfl
      · rw [eo]
      · intro hw; exact wf_own _ _ _ hw

/-- A claim to refuse takes the head descriptor and no cell, and fails only when none is free (R20). -/
theorem BufferManager.claimToRefuse_none (b : BufferManager) :
    b.claimToRefuse = none ↔ b.freeDescs.toList = [] := by
  rw [← Runs.pop_none]
  cases hp : b.freeDescs.pop with
  | none => simp [claimToRefuse, hp]
  | some p => simp [claimToRefuse, hp]

theorem BufferManager.claimToRefuse_some {b b' : BufferManager} {d : Nat} (h : b.claimToRefuse = some (d, b')) :
    b.freeDescs.toList = d :: b'.freeDescs.toList ∧ b' = { b with freeDescs := b'.freeDescs } := by
  cases hp : b.freeDescs.pop with
  | none => simp [claimToRefuse, hp] at h
  | some p =>
    obtain ⟨d1, r⟩ := p
    simp only [claimToRefuse, hp, Option.some.injEq, Prod.mk.injEq] at h
    obtain ⟨rfl, rfl⟩ := h
    exact ⟨Runs.pop_some hp, rfl⟩

/-! ### Descriptors returned (R19) -/

theorem BufferManager.returnDescs_eq : ∀ (ds : List Nat) (b : BufferManager),
    b.returnDescs ds = { b with descs := (b.returnDescs ds).descs, freeDescs := (b.returnDescs ds).freeDescs }
  | [], _ => rfl
  | d :: rest, b => by rw [returnDescs, returnDescs_eq rest]; rfl

theorem BufferManager.freeDescs_returnDescs : ∀ (ds : List Nat) (b : BufferManager),
    (b.returnDescs ds).freeDescs.toList = b.freeDescs.toList ++ ds
  | [], b => by simp [returnDescs]
  | d :: rest, b => by
    rw [returnDescs, freeDescs_returnDescs rest]
    simp [returnDesc, Runs.toList_push]

theorem BufferManager.wf_returnDescs : ∀ (ds : List Nat) (b : BufferManager),
    Table.wf Descriptor.cleared b.descs = true → Table.wf Descriptor.cleared (b.returnDescs ds).descs = true
  | [], _, h => h
  | d :: rest, b, h => wf_returnDescs rest _ (Table.wf_set h _ _)

theorem BufferManager.desc_returnDescs : ∀ (ds : List Nat) (b : BufferManager) (e : Nat),
    Table.wf Descriptor.cleared b.descs = true →
    (b.returnDescs ds).desc e = if e ∈ ds then Descriptor.cleared else b.desc e
  | [], b, e, _ => by simp [returnDescs]
  | d :: rest, b, e, h => by
    rw [returnDescs, desc_returnDescs rest _ e (Table.wf_set h _ _)]
    by_cases hr : e ∈ rest
    · simp [hr]
    · have h1 : (b.returnDesc d).desc e = (b.setDesc d Descriptor.cleared).desc e := rfl
      rw [if_neg hr, h1, desc_setDesc h]
      by_cases hd : e = d <;> simp [hd, hr]

/-! ### Codes (R28) -/

/-- After a write, every word of the cells written agrees with its code, and every other reads as before. -/
theorem get_eccAfterWrite {ecc : Table Ecc} (h : Table.wf Ecc.sound ecc = true) (segs : List Segment) (w : Nat) :
    Table.get Ecc.sound (eccAfterWrite ecc segs) w =
      if ∃ g ∈ segs, g.cell.toNat = w / 32 then .sound else Table.get Ecc.sound ecc w := by
  unfold eccAfterWrite
  rw [Table.get_filter (p := fun i => !(segs.any fun g => g.cell.toNat == i / Config.cellWords)) h]
  by_cases hs : ∃ g ∈ segs, g.cell.toNat = w / 32
  · rw [if_pos hs, if_neg]
    simpa using hs
  · rw [if_neg hs, if_pos]
    simpa using hs

theorem wf_eccAfterWrite {ecc : Table Ecc} (h : Table.wf Ecc.sound ecc = true) (segs : List Segment) :
    Table.wf Ecc.sound (eccAfterWrite ecc segs) = true := Table.wf_filter h

/-! ### Cells given back without a walk (R50) -/

theorem BufferManager.giveBack_eq (d : Nat) : ∀ (segs : List Segment) (b : BufferManager),
    b.giveBack d segs = { b with owners := (b.giveBack d segs).owners, freeCells := (b.giveBack d segs).freeCells }
  | [], _ => rfl
  | g :: rest, b => by rw [giveBack, giveBack_eq d rest]; split <;> rfl

theorem BufferManager.wf_giveBack (d : Nat) : ∀ (segs : List Segment) (b : BufferManager),
    Table.wf Owner.free b.owners = true → Table.wf Owner.free (b.giveBack d segs).owners = true
  | [], _, h => h
  | g :: rest, b, h => by
    rw [giveBack]
    apply wf_giveBack d rest
    split
    · exact Table.wf_set h _ _
    · exact h

/-- With distinct cells that are all the descriptor's own, every cell is freed, in order. -/
theorem BufferManager.giveBack_own (d : Nat) : ∀ (segs : List Segment) (b : BufferManager),
    Table.wf Owner.free b.owners = true → (segs.map fun g => g.cell.toNat).Nodup →
    (∀ g ∈ segs, b.owner g.cell.toNat = .desc d) →
    (b.giveBack d segs).freeCells.toList = b.freeCells.toList ++ segs.map (fun g => g.cell.toNat)
      ∧ ∀ c, (b.giveBack d segs).owner c = if c ∈ segs.map (fun g => g.cell.toNat) then .free else b.owner c
  | [], b, _, _, _ => by simp [giveBack]
  | g :: rest, b, h, hn, ho => by
    rw [List.map_cons, List.nodup_cons] at hn
    have hg := ho g (by simp)
    have hf : ∀ c, (b.freeCell g.cell.toNat).owner c = if c = g.cell.toNat then .free else b.owner c :=
      fun c => owner_freeCell h _ c
    have ih := giveBack_own d rest (b.freeCell g.cell.toNat) (Table.wf_set h _ _) hn.2 (by
      intro g' hg'
      have : g'.cell.toNat ≠ g.cell.toNat := by
        intro he; apply hn.1; rw [← he]; exact List.mem_map.2 ⟨g', hg', rfl⟩
      rw [hf, if_neg this]
      exact ho g' (by simp [hg']))
    rw [giveBack, if_pos hg]
    constructor
    · rw [ih.1]; simp [Runs.toList_push]
    · intro c
      rw [ih.2, hf]
      by_cases h1 : c ∈ rest.map fun g => g.cell.toNat
      · simp only [List.map_cons, List.mem_cons, h1, or_true, if_true]
      · by_cases h2 : c = g.cell.toNat <;> simp [h1, h2]

/-! ### Walks (R24 to R27) -/

/-- A release walk changes the owner table and the free cell list alone. -/
theorem BufferManager.releaseEntries_eq (d : Nat) (bad : Option Nat) (length : Nat) :
    ∀ (segs : List Segment) (k sum : Nat) (b : BufferManager),
    (releaseEntries d bad length segs k sum b).2 =
      { b with
        owners := (releaseEntries d bad length segs k sum b).2.owners
        freeCells := (releaseEntries d bad length segs k sum b).2.freeCells }
  | [], _, _, _ => rfl
  | g :: rest, k, sum, b => by
    rw [releaseEntries]
    cases b.entryFault d k g with
    | some f => rfl
    | none =>
      simp only
      rw [releaseEntries_eq d bad length rest]
      split <;> rfl

theorem BufferManager.releaseWalk_eq (b : BufferManager) (d : Nat) :
    (b.releaseWalk d).2 =
      { b with owners := (b.releaseWalk d).2.owners, freeCells := (b.releaseWalk d).2.freeCells } := by
  unfold releaseWalk
  simp only
  split
  · exact releaseEntries_eq _ _ _ _ _ _ _
  · rfl

/-- An invariant of the owner table and the free cell list that freeing and retiring an owned cell keep is kept by a
release walk. -/
theorem BufferManager.releaseEntries_keeps {P : BufferManager → Prop} (d : Nat)
    (hfree : ∀ b c, P b → c < 16384 → b.owner c = .desc d → P (b.freeCell c))
    (hretire : ∀ b c, P b → c < 16384 → b.owner c = .desc d → P (b.retireCell c)) (bad : Option Nat) (length : Nat) :
    ∀ (segs : List Segment) (k sum : Nat) (b : BufferManager), P b → P (releaseEntries d bad length segs k sum b).2
  | [], _, _, _, h => h
  | g :: rest, k, sum, b, h => by
    rw [releaseEntries]
    cases hf : b.entryFault d k g with
    | some f => exact h
    | none =>
      simp only [entryFault] at hf
      split_ifs at hf with h1 h2 h3
      have h1' : g.cell.toNat < 16384 := by simpa using h1
      have h2' : b.owner g.cell.toNat = .desc d := by simpa using h2
      apply releaseEntries_keeps d hfree hretire bad length rest
      split
      · exact hretire b _ h h1' h2'
      · exact hfree b _ h h1' h2'

theorem BufferManager.releaseWalk_keeps {P : BufferManager → Prop} (d : Nat)
    (hfree : ∀ b c, P b → c < 16384 → b.owner c = .desc d → P (b.freeCell c))
    (hretire : ∀ b c, P b → c < 16384 → b.owner c = .desc d → P (b.retireCell c)) (b : BufferManager) (h : P b) :
    P (b.releaseWalk d).2 := by
  unfold releaseWalk
  simp only
  split
  · exact releaseEntries_keeps d hfree hretire _ _ _ _ _ b h
  · exact h

/-- A release walk keeps the owner table canonical. -/
theorem BufferManager.wf_releaseWalk (b : BufferManager) (d : Nat) (h : Table.wf Owner.free b.owners = true) :
    Table.wf Owner.free (b.releaseWalk d).2.owners = true :=
  releaseWalk_keeps (P := fun b => Table.wf Owner.free b.owners = true) d (fun _ _ h _ _ => Table.wf_set h _ _)
    (fun _ _ h _ _ => Table.wf_set h _ _) b h

end Sys2Proof.Machine
end

