-- ==== Sys2Proof/Laws/State.lean ====
section
/-! SUPPORT. What every named update of State leaves in every field, so that no proof unfolds an update. -/

namespace Sys2Proof.Machine

/-! ### setStation -/

@[simp] theorem State.setStation_pending (s : State) (i : Nat) (r : Station) :
    (s.setStation i r).pending =
      s.pending := rfl
@[simp] theorem State.setStation_inReset (s : State) (i : Nat) (r : Station) :
    (s.setStation i r).inReset =
      s.inReset := rfl
@[simp] theorem State.setStation_timeBase (s : State) (i : Nat) (r : Station) :
    (s.setStation i r).timeBase =
      s.timeBase := rfl
@[simp] theorem State.setStation_rx (s : State) (i : Nat) (r : Station) : (s.setStation i r).rx = s.rx := rfl
@[simp] theorem State.setStation_tx (s : State) (i : Nat) (r : Station) : (s.setStation i r).tx = s.tx := rfl
@[simp] theorem State.setStation_radio (s : State) (i : Nat) (r : Station) : (s.setStation i r).radio = s.radio := rfl
@[simp] theorem State.setStation_adm (s : State) (i : Nat) (r : Station) : (s.setStation i r).adm = s.adm := rfl
@[simp] theorem State.setStation_bm (s : State) (i : Nat) (r : Station) : (s.setStation i r).bm = s.bm := rfl
@[simp] theorem State.setStation_stations (s : State) (i : Nat) (r : Station) :
    (s.setStation i r).stations =
      Table.set Station.free s.stations i r := rfl
@[simp] theorem State.setStation_sched (s : State) (i : Nat) (r : Station) : (s.setStation i r).sched = s.sched := rfl
@[simp] theorem State.setStation_feeder (s : State) (i : Nat) (r : Station) :
    (s.setStation i r).feeder =
      s.feeder := rfl
@[simp] theorem State.setStation_uplink (s : State) (i : Nat) (r : Station) :
    (s.setStation i r).uplink =
      s.uplink := rfl
@[simp] theorem State.setStation_sweep (s : State) (i : Nat) (r : Station) : (s.setStation i r).sweep = s.sweep := rfl
@[simp] theorem State.setStation_purge (s : State) (i : Nat) (r : Station) : (s.setStation i r).purge = s.purge := rfl
@[simp] theorem State.setStation_disposal (s : State) (i : Nat) (r : Station) :
    (s.setStation i r).disposal =
      s.disposal := rfl
@[simp] theorem State.setStation_rp (s : State) (i : Nat) (r : Station) : (s.setStation i r).rp = s.rp := rfl
@[simp] theorem State.setStation_events (s : State) (i : Nat) (r : Station) :
    (s.setStation i r).events =
      s.events := rfl
@[simp] theorem State.setStation_faultClaims (s : State) (i : Nat) (r : Station) :
    (s.setStation i r).faultClaims =
      s.faultClaims := rfl
@[simp] theorem State.setStation_ctr (s : State) (i : Nat) (r : Station) : (s.setStation i r).ctr = s.ctr := rfl
@[simp] theorem State.setStation_freeCtr (s : State) (i : Nat) (r : Station) :
    (s.setStation i r).freeCtr =
      s.freeCtr := rfl

/-! ### setDesc -/

@[simp] theorem State.setDesc_pending (s : State) (d : Nat) (x : Descriptor) :
    (s.setDesc d x).pending =
      s.pending := rfl
@[simp] theorem State.setDesc_inReset (s : State) (d : Nat) (x : Descriptor) :
    (s.setDesc d x).inReset =
      s.inReset := rfl
@[simp] theorem State.setDesc_timeBase (s : State) (d : Nat) (x : Descriptor) :
    (s.setDesc d x).timeBase =
      s.timeBase := rfl
@[simp] theorem State.setDesc_rx (s : State) (d : Nat) (x : Descriptor) : (s.setDesc d x).rx = s.rx := rfl
@[simp] theorem State.setDesc_tx (s : State) (d : Nat) (x : Descriptor) : (s.setDesc d x).tx = s.tx := rfl
@[simp] theorem State.setDesc_radio (s : State) (d : Nat) (x : Descriptor) : (s.setDesc d x).radio = s.radio := rfl
@[simp] theorem State.setDesc_adm (s : State) (d : Nat) (x : Descriptor) : (s.setDesc d x).adm = s.adm := rfl
@[simp] theorem State.setDesc_bm (s : State) (d : Nat) (x : Descriptor) : (s.setDesc d x).bm = s.bm.setDesc d x := rfl
@[simp] theorem State.setDesc_stations (s : State) (d : Nat) (x : Descriptor) :
    (s.setDesc d x).stations =
      s.stations := rfl
@[simp] theorem State.setDesc_sched (s : State) (d : Nat) (x : Descriptor) : (s.setDesc d x).sched = s.sched := rfl
@[simp] theorem State.setDesc_feeder (s : State) (d : Nat) (x : Descriptor) : (s.setDesc d x).feeder = s.feeder := rfl
@[simp] theorem State.setDesc_uplink (s : State) (d : Nat) (x : Descriptor) : (s.setDesc d x).uplink = s.uplink := rfl
@[simp] theorem State.setDesc_sweep (s : State) (d : Nat) (x : Descriptor) : (s.setDesc d x).sweep = s.sweep := rfl
@[simp] theorem State.setDesc_purge (s : State) (d : Nat) (x : Descriptor) : (s.setDesc d x).purge = s.purge := rfl
@[simp] theorem State.setDesc_disposal (s : State) (d : Nat) (x : Descriptor) :
    (s.setDesc d x).disposal =
      s.disposal := rfl
@[simp] theorem State.setDesc_rp (s : State) (d : Nat) (x : Descriptor) : (s.setDesc d x).rp = s.rp := rfl
@[simp] theorem State.setDesc_events (s : State) (d : Nat) (x : Descriptor) : (s.setDesc d x).events = s.events := rfl
@[simp] theorem State.setDesc_faultClaims (s : State) (d : Nat) (x : Descriptor) :
    (s.setDesc d x).faultClaims =
      s.faultClaims := rfl
@[simp] theorem State.setDesc_ctr (s : State) (d : Nat) (x : Descriptor) : (s.setDesc d x).ctr = s.ctr := rfl
@[simp] theorem State.setDesc_freeCtr (s : State) (d : Nat) (x : Descriptor) :
    (s.setDesc d x).freeCtr =
      s.freeCtr := rfl

/-! ### setSlot -/

@[simp] theorem State.setSlot_pending (s : State) (k : Nat) (g : Option Grant) :
    (s.setSlot k g).pending =
      s.pending := rfl
@[simp] theorem State.setSlot_inReset (s : State) (k : Nat) (g : Option Grant) :
    (s.setSlot k g).inReset =
      s.inReset := rfl
@[simp] theorem State.setSlot_timeBase (s : State) (k : Nat) (g : Option Grant) :
    (s.setSlot k g).timeBase =
      s.timeBase := rfl
@[simp] theorem State.setSlot_rx (s : State) (k : Nat) (g : Option Grant) : (s.setSlot k g).rx = s.rx := rfl
@[simp] theorem State.setSlot_tx (s : State) (k : Nat) (g : Option Grant) : (s.setSlot k g).tx = s.tx := rfl
@[simp] theorem State.setSlot_radio (s : State) (k : Nat) (g : Option Grant) : (s.setSlot k g).radio = s.radio := rfl
@[simp] theorem State.setSlot_adm (s : State) (k : Nat) (g : Option Grant) : (s.setSlot k g).adm = s.adm := rfl
@[simp] theorem State.setSlot_bm (s : State) (k : Nat) (g : Option Grant) : (s.setSlot k g).bm = s.bm := rfl
@[simp] theorem State.setSlot_stations (s : State) (k : Nat) (g : Option Grant) :
    (s.setSlot k g).stations =
      s.stations := rfl
@[simp] theorem State.setSlot_sched (s : State) (k : Nat) (g : Option Grant) :
    (s.setSlot k g).sched =
      { s.sched with slots := Table.set none s.sched.slots k g } := rfl
@[simp] theorem State.setSlot_feeder (s : State) (k : Nat) (g : Option Grant) :
    (s.setSlot k g).feeder =
      s.feeder := rfl
@[simp] theorem State.setSlot_uplink (s : State) (k : Nat) (g : Option Grant) :
    (s.setSlot k g).uplink =
      s.uplink := rfl
@[simp] theorem State.setSlot_sweep (s : State) (k : Nat) (g : Option Grant) : (s.setSlot k g).sweep = s.sweep := rfl
@[simp] theorem State.setSlot_purge (s : State) (k : Nat) (g : Option Grant) : (s.setSlot k g).purge = s.purge := rfl
@[simp] theorem State.setSlot_disposal (s : State) (k : Nat) (g : Option Grant) :
    (s.setSlot k g).disposal =
      s.disposal := rfl
@[simp] theorem State.setSlot_rp (s : State) (k : Nat) (g : Option Grant) : (s.setSlot k g).rp = s.rp := rfl
@[simp] theorem State.setSlot_events (s : State) (k : Nat) (g : Option Grant) :
    (s.setSlot k g).events =
      s.events := rfl
@[simp] theorem State.setSlot_faultClaims (s : State) (k : Nat) (g : Option Grant) :
    (s.setSlot k g).faultClaims =
      s.faultClaims := rfl
@[simp] theorem State.setSlot_ctr (s : State) (k : Nat) (g : Option Grant) : (s.setSlot k g).ctr = s.ctr := rfl
@[simp] theorem State.setSlot_freeCtr (s : State) (k : Nat) (g : Option Grant) :
    (s.setSlot k g).freeCtr =
      s.freeCtr := rfl

/-! ### record -/

@[simp] theorem State.record_pending (s : State) (e : Event) : (s.record e).pending = s.pending := rfl
@[simp] theorem State.record_inReset (s : State) (e : Event) : (s.record e).inReset = s.inReset := rfl
@[simp] theorem State.record_timeBase (s : State) (e : Event) : (s.record e).timeBase = s.timeBase := rfl
@[simp] theorem State.record_rx (s : State) (e : Event) : (s.record e).rx = s.rx := rfl
@[simp] theorem State.record_tx (s : State) (e : Event) : (s.record e).tx = s.tx := rfl
@[simp] theorem State.record_radio (s : State) (e : Event) : (s.record e).radio = s.radio := rfl
@[simp] theorem State.record_adm (s : State) (e : Event) : (s.record e).adm = s.adm := rfl
@[simp] theorem State.record_bm (s : State) (e : Event) : (s.record e).bm = s.bm := rfl
@[simp] theorem State.record_stations (s : State) (e : Event) : (s.record e).stations = s.stations := rfl
@[simp] theorem State.record_sched (s : State) (e : Event) : (s.record e).sched = s.sched := rfl
@[simp] theorem State.record_feeder (s : State) (e : Event) : (s.record e).feeder = s.feeder := rfl
@[simp] theorem State.record_uplink (s : State) (e : Event) : (s.record e).uplink = s.uplink := rfl
@[simp] theorem State.record_sweep (s : State) (e : Event) : (s.record e).sweep = s.sweep := rfl
@[simp] theorem State.record_purge (s : State) (e : Event) : (s.record e).purge = s.purge := rfl
@[simp] theorem State.record_disposal (s : State) (e : Event) : (s.record e).disposal = s.disposal := rfl
@[simp] theorem State.record_rp (s : State) (e : Event) : (s.record e).rp = s.rp := rfl
@[simp] theorem State.record_events (s : State) (e : Event) : (s.record e).events = s.events.put s.timeBase e := rfl
@[simp] theorem State.record_faultClaims (s : State) (e : Event) : (s.record e).faultClaims = s.faultClaims := rfl
@[simp] theorem State.record_ctr (s : State) (e : Event) : (s.record e).ctr = s.ctr := rfl
@[simp] theorem State.record_freeCtr (s : State) (e : Event) : (s.record e).freeCtr = s.freeCtr := rfl

/-! ### setCause -/

@[simp] theorem State.setCause_pending (s : State) (c : Cause) (b : Bool) :
    (s.setCause c b).pending =
      s.pending := rfl
@[simp] theorem State.setCause_inReset (s : State) (c : Cause) (b : Bool) :
    (s.setCause c b).inReset =
      s.inReset := rfl
@[simp] theorem State.setCause_timeBase (s : State) (c : Cause) (b : Bool) :
    (s.setCause c b).timeBase =
      s.timeBase := rfl
@[simp] theorem State.setCause_rx (s : State) (c : Cause) (b : Bool) : (s.setCause c b).rx = s.rx := rfl
@[simp] theorem State.setCause_tx (s : State) (c : Cause) (b : Bool) : (s.setCause c b).tx = s.tx := rfl
@[simp] theorem State.setCause_radio (s : State) (c : Cause) (b : Bool) : (s.setCause c b).radio = s.radio := rfl
@[simp] theorem State.setCause_adm (s : State) (c : Cause) (b : Bool) : (s.setCause c b).adm = s.adm := rfl
@[simp] theorem State.setCause_bm (s : State) (c : Cause) (b : Bool) : (s.setCause c b).bm = s.bm := rfl
@[simp] theorem State.setCause_stations (s : State) (c : Cause) (b : Bool) :
    (s.setCause c b).stations =
      s.stations := rfl
@[simp] theorem State.setCause_sched (s : State) (c : Cause) (b : Bool) :
    (s.setCause c b).sched =
      { s.sched with causes := s.sched.causes.put c b } := rfl
@[simp] theorem State.setCause_feeder (s : State) (c : Cause) (b : Bool) : (s.setCause c b).feeder = s.feeder := rfl
@[simp] theorem State.setCause_uplink (s : State) (c : Cause) (b : Bool) : (s.setCause c b).uplink = s.uplink := rfl
@[simp] theorem State.setCause_sweep (s : State) (c : Cause) (b : Bool) : (s.setCause c b).sweep = s.sweep := rfl
@[simp] theorem State.setCause_purge (s : State) (c : Cause) (b : Bool) : (s.setCause c b).purge = s.purge := rfl
@[simp] theorem State.setCause_disposal (s : State) (c : Cause) (b : Bool) :
    (s.setCause c b).disposal =
      s.disposal := rfl
@[simp] theorem State.setCause_rp (s : State) (c : Cause) (b : Bool) : (s.setCause c b).rp = s.rp := rfl
@[simp] theorem State.setCause_events (s : State) (c : Cause) (b : Bool) : (s.setCause c b).events = s.events := rfl
@[simp] theorem State.setCause_faultClaims (s : State) (c : Cause) (b : Bool) :
    (s.setCause c b).faultClaims =
      s.faultClaims := rfl
@[simp] theorem State.setCause_ctr (s : State) (c : Cause) (b : Bool) : (s.setCause c b).ctr = s.ctr := rfl
@[simp] theorem State.setCause_freeCtr (s : State) (c : Cause) (b : Bool) :
    (s.setCause c b).freeCtr =
      s.freeCtr := rfl

/-! ### setSched -/

@[simp] theorem State.setSched_pending (s : State) (n : SchedState) : (s.setSched n).pending = s.pending := rfl
@[simp] theorem State.setSched_inReset (s : State) (n : SchedState) : (s.setSched n).inReset = s.inReset := rfl
@[simp] theorem State.setSched_timeBase (s : State) (n : SchedState) : (s.setSched n).timeBase = s.timeBase := rfl
@[simp] theorem State.setSched_rx (s : State) (n : SchedState) : (s.setSched n).rx = s.rx := rfl
@[simp] theorem State.setSched_tx (s : State) (n : SchedState) : (s.setSched n).tx = s.tx := rfl
@[simp] theorem State.setSched_radio (s : State) (n : SchedState) : (s.setSched n).radio = s.radio := rfl
@[simp] theorem State.setSched_adm (s : State) (n : SchedState) : (s.setSched n).adm = s.adm := rfl
@[simp] theorem State.setSched_bm (s : State) (n : SchedState) : (s.setSched n).bm = s.bm := rfl
@[simp] theorem State.setSched_stations (s : State) (n : SchedState) : (s.setSched n).stations = s.stations := rfl
@[simp] theorem State.setSched_sched (s : State) (n : SchedState) :
    (s.setSched n).sched =
      { s.sched with state := n } := rfl
@[simp] theorem State.setSched_feeder (s : State) (n : SchedState) : (s.setSched n).feeder = s.feeder := rfl
@[simp] theorem State.setSched_uplink (s : State) (n : SchedState) : (s.setSched n).uplink = s.uplink := rfl
@[simp] theorem State.setSched_sweep (s : State) (n : SchedState) :
    (s.setSched n).sweep =
      s.sweep.onState s.rp.options.sweep s.sched.state n := rfl
@[simp] theorem State.setSched_purge (s : State) (n : SchedState) : (s.setSched n).purge = s.purge := rfl
@[simp] theorem State.setSched_disposal (s : State) (n : SchedState) : (s.setSched n).disposal = s.disposal := rfl
@[simp] theorem State.setSched_rp (s : State) (n : SchedState) : (s.setSched n).rp = s.rp := rfl
@[simp] theorem State.setSched_events (s : State) (n : SchedState) : (s.setSched n).events = s.events := rfl
@[simp] theorem State.setSched_faultClaims (s : State) (n : SchedState) :
    (s.setSched n).faultClaims =
      s.faultClaims := rfl
@[simp] theorem State.setSched_ctr (s : State) (n : SchedState) : (s.setSched n).ctr = s.ctr := rfl
@[simp] theorem State.setSched_freeCtr (s : State) (n : SchedState) : (s.setSched n).freeCtr = s.freeCtr := rfl

/-! ### setCandidate -/

@[simp] theorem State.setCandidate_pending (s : State) (c : Option Candidate) :
    (s.setCandidate c).pending =
      s.pending := rfl
@[simp] theorem State.setCandidate_inReset (s : State) (c : Option Candidate) :
    (s.setCandidate c).inReset =
      s.inReset := rfl
@[simp] theorem State.setCandidate_timeBase (s : State) (c : Option Candidate) :
    (s.setCandidate c).timeBase =
      s.timeBase := rfl
@[simp] theorem State.setCandidate_rx (s : State) (c : Option Candidate) : (s.setCandidate c).rx = s.rx := rfl
@[simp] theorem State.setCandidate_tx (s : State) (c : Option Candidate) : (s.setCandidate c).tx = s.tx := rfl
@[simp] theorem State.setCandidate_radio (s : State) (c : Option Candidate) :
    (s.setCandidate c).radio =
      s.radio := rfl
@[simp] theorem State.setCandidate_adm (s : State) (c : Option Candidate) : (s.setCandidate c).adm = s.adm := rfl
@[simp] theorem State.setCandidate_bm (s : State) (c : Option Candidate) : (s.setCandidate c).bm = s.bm := rfl
@[simp] theorem State.setCandidate_stations (s : State) (c : Option Candidate) :
    (s.setCandidate c).stations =
      s.stations := rfl
@[simp] theorem State.setCandidate_sched (s : State) (c : Option Candidate) :
    (s.setCandidate c).sched =
      { s.sched with candidate := c } := rfl
@[simp] theorem State.setCandidate_feeder (s : State) (c : Option Candidate) :
    (s.setCandidate c).feeder =
      s.feeder := rfl
@[simp] theorem State.setCandidate_uplink (s : State) (c : Option Candidate) :
    (s.setCandidate c).uplink =
      s.uplink := rfl
@[simp] theorem State.setCandidate_sweep (s : State) (c : Option Candidate) :
    (s.setCandidate c).sweep =
      s.sweep := rfl
@[simp] theorem State.setCandidate_purge (s : State) (c : Option Candidate) :
    (s.setCandidate c).purge =
      s.purge := rfl
@[simp] theorem State.setCandidate_disposal (s : State) (c : Option Candidate) :
    (s.setCandidate c).disposal =
      s.disposal := rfl
@[simp] theorem State.setCandidate_rp (s : State) (c : Option Candidate) : (s.setCandidate c).rp = s.rp := rfl
@[simp] theorem State.setCandidate_events (s : State) (c : Option Candidate) :
    (s.setCandidate c).events =
      s.events := rfl
@[simp] theorem State.setCandidate_faultClaims (s : State) (c : Option Candidate) :
    (s.setCandidate c).faultClaims =
      s.faultClaims := rfl
@[simp] theorem State.setCandidate_ctr (s : State) (c : Option Candidate) : (s.setCandidate c).ctr = s.ctr := rfl
@[simp] theorem State.setCandidate_freeCtr (s : State) (c : Option Candidate) :
    (s.setCandidate c).freeCtr =
      s.freeCtr := rfl

/-! ### popQueue -/

@[simp] theorem State.popQueue_pending (s : State) (i : Nat) : (s.popQueue i).pending = s.pending := rfl
@[simp] theorem State.popQueue_inReset (s : State) (i : Nat) : (s.popQueue i).inReset = s.inReset := rfl
@[simp] theorem State.popQueue_timeBase (s : State) (i : Nat) : (s.popQueue i).timeBase = s.timeBase := rfl
@[simp] theorem State.popQueue_rx (s : State) (i : Nat) : (s.popQueue i).rx = s.rx := rfl
@[simp] theorem State.popQueue_tx (s : State) (i : Nat) : (s.popQueue i).tx = s.tx := rfl
@[simp] theorem State.popQueue_radio (s : State) (i : Nat) : (s.popQueue i).radio = s.radio := rfl
@[simp] theorem State.popQueue_adm (s : State) (i : Nat) : (s.popQueue i).adm = s.adm := rfl
@[simp] theorem State.popQueue_bm (s : State) (i : Nat) : (s.popQueue i).bm = s.bm := rfl
@[simp] theorem State.popQueue_stations (s : State) (i : Nat) :
    (s.popQueue i).stations =
      Table.set Station.free s.stations i { s.station i with queue := (s.station i).queue.drop 1 } := rfl
@[simp] theorem State.popQueue_sched (s : State) (i : Nat) : (s.popQueue i).sched = s.sched := rfl
@[simp] theorem State.popQueue_feeder (s : State) (i : Nat) : (s.popQueue i).feeder = s.feeder := rfl
@[simp] theorem State.popQueue_uplink (s : State) (i : Nat) : (s.popQueue i).uplink = s.uplink := rfl
@[simp] theorem State.popQueue_sweep (s : State) (i : Nat) : (s.popQueue i).sweep = s.sweep := rfl
@[simp] theorem State.popQueue_purge (s : State) (i : Nat) : (s.popQueue i).purge = s.purge := rfl
@[simp] theorem State.popQueue_disposal (s : State) (i : Nat) : (s.popQueue i).disposal = s.disposal := rfl
@[simp] theorem State.popQueue_rp (s : State) (i : Nat) : (s.popQueue i).rp = s.rp := rfl
@[simp] theorem State.popQueue_events (s : State) (i : Nat) : (s.popQueue i).events = s.events := rfl
@[simp] theorem State.popQueue_faultClaims (s : State) (i : Nat) : (s.popQueue i).faultClaims = s.faultClaims := rfl
@[simp] theorem State.popQueue_ctr (s : State) (i : Nat) : (s.popQueue i).ctr = s.ctr := rfl
@[simp] theorem State.popQueue_freeCtr (s : State) (i : Nat) : (s.popQueue i).freeCtr = s.freeCtr := rfl

/-! ### startFrame -/

@[simp] theorem State.startFrame_pending (s : State) (b : OutBody) : (s.startFrame b).pending = s.pending := rfl
@[simp] theorem State.startFrame_inReset (s : State) (b : OutBody) : (s.startFrame b).inReset = s.inReset := rfl
@[simp] theorem State.startFrame_timeBase (s : State) (b : OutBody) : (s.startFrame b).timeBase = s.timeBase := rfl
@[simp] theorem State.startFrame_rx (s : State) (b : OutBody) : (s.startFrame b).rx = s.rx := rfl
@[simp] theorem State.startFrame_tx (s : State) (b : OutBody) :
    (s.startFrame b).tx =
      { s.tx with line := some { pauseFlag := s.tx.pauseSent, body := b } } := rfl
@[simp] theorem State.startFrame_radio (s : State) (b : OutBody) : (s.startFrame b).radio = s.radio := rfl
@[simp] theorem State.startFrame_adm (s : State) (b : OutBody) : (s.startFrame b).adm = s.adm := rfl
@[simp] theorem State.startFrame_bm (s : State) (b : OutBody) : (s.startFrame b).bm = s.bm := rfl
@[simp] theorem State.startFrame_stations (s : State) (b : OutBody) : (s.startFrame b).stations = s.stations := rfl
@[simp] theorem State.startFrame_sched (s : State) (b : OutBody) : (s.startFrame b).sched = s.sched := rfl
@[simp] theorem State.startFrame_feeder (s : State) (b : OutBody) : (s.startFrame b).feeder = s.feeder := rfl
@[simp] theorem State.startFrame_uplink (s : State) (b : OutBody) : (s.startFrame b).uplink = s.uplink := rfl
@[simp] theorem State.startFrame_sweep (s : State) (b : OutBody) : (s.startFrame b).sweep = s.sweep := rfl
@[simp] theorem State.startFrame_purge (s : State) (b : OutBody) : (s.startFrame b).purge = s.purge := rfl
@[simp] theorem State.startFrame_disposal (s : State) (b : OutBody) : (s.startFrame b).disposal = s.disposal := rfl
@[simp] theorem State.startFrame_rp (s : State) (b : OutBody) : (s.startFrame b).rp = s.rp := rfl
@[simp] theorem State.startFrame_events (s : State) (b : OutBody) : (s.startFrame b).events = s.events := rfl
@[simp] theorem State.startFrame_faultClaims (s : State) (b : OutBody) :
    (s.startFrame b).faultClaims =
      s.faultClaims := rfl
@[simp] theorem State.startFrame_ctr (s : State) (b : OutBody) : (s.startFrame b).ctr = s.ctr := rfl
@[simp] theorem State.startFrame_freeCtr (s : State) (b : OutBody) : (s.startFrame b).freeCtr = s.freeCtr := rfl

/-! ### sendSections -/

@[simp] theorem State.sendSections_pending (s : State) (l : List Section) :
    (s.sendSections l).pending =
      s.pending := rfl
@[simp] theorem State.sendSections_inReset (s : State) (l : List Section) :
    (s.sendSections l).inReset =
      s.inReset := rfl
@[simp] theorem State.sendSections_timeBase (s : State) (l : List Section) :
    (s.sendSections l).timeBase =
      s.timeBase := rfl
@[simp] theorem State.sendSections_rx (s : State) (l : List Section) : (s.sendSections l).rx = s.rx := rfl
@[simp] theorem State.sendSections_tx (s : State) (l : List Section) : (s.sendSections l).tx = s.tx := rfl
@[simp] theorem State.sendSections_radio (s : State) (l : List Section) :
    (s.sendSections l).radio =
      { s.radio with stream := s.radio.stream.map fun g => { g with sections := g.sections ++ l } } := rfl
@[simp] theorem State.sendSections_adm (s : State) (l : List Section) : (s.sendSections l).adm = s.adm := rfl
@[simp] theorem State.sendSections_bm (s : State) (l : List Section) : (s.sendSections l).bm = s.bm := rfl
@[simp] theorem State.sendSections_stations (s : State) (l : List Section) :
    (s.sendSections l).stations =
      s.stations := rfl
@[simp] theorem State.sendSections_sched (s : State) (l : List Section) : (s.sendSections l).sched = s.sched := rfl
@[simp] theorem State.sendSections_feeder (s : State) (l : List Section) : (s.sendSections l).feeder = s.feeder := rfl
@[simp] theorem State.sendSections_uplink (s : State) (l : List Section) : (s.sendSections l).uplink = s.uplink := rfl
@[simp] theorem State.sendSections_sweep (s : State) (l : List Section) : (s.sendSections l).sweep = s.sweep := rfl
@[simp] theorem State.sendSections_purge (s : State) (l : List Section) : (s.sendSections l).purge = s.purge := rfl
@[simp] theorem State.sendSections_disposal (s : State) (l : List Section) :
    (s.sendSections l).disposal =
      s.disposal := rfl
@[simp] theorem State.sendSections_rp (s : State) (l : List Section) : (s.sendSections l).rp = s.rp := rfl
@[simp] theorem State.sendSections_events (s : State) (l : List Section) : (s.sendSections l).events = s.events := rfl
@[simp] theorem State.sendSections_faultClaims (s : State) (l : List Section) :
    (s.sendSections l).faultClaims =
      s.faultClaims := rfl
@[simp] theorem State.sendSections_ctr (s : State) (l : List Section) : (s.sendSections l).ctr = s.ctr := rfl
@[simp] theorem State.sendSections_freeCtr (s : State) (l : List Section) :
    (s.sendSections l).freeCtr =
      s.freeCtr := rfl

/-! ### claimFault -/

@[simp] theorem State.claimFault_pending (s : State) (p : Phase) (i : Nat) :
    (s.claimFault p i).pending =
      s.pending := rfl
@[simp] theorem State.claimFault_inReset (s : State) (p : Phase) (i : Nat) :
    (s.claimFault p i).inReset =
      s.inReset := rfl
@[simp] theorem State.claimFault_timeBase (s : State) (p : Phase) (i : Nat) :
    (s.claimFault p i).timeBase =
      s.timeBase := rfl
@[simp] theorem State.claimFault_rx (s : State) (p : Phase) (i : Nat) : (s.claimFault p i).rx = s.rx := rfl
@[simp] theorem State.claimFault_tx (s : State) (p : Phase) (i : Nat) : (s.claimFault p i).tx = s.tx := rfl
@[simp] theorem State.claimFault_radio (s : State) (p : Phase) (i : Nat) : (s.claimFault p i).radio = s.radio := rfl
@[simp] theorem State.claimFault_adm (s : State) (p : Phase) (i : Nat) : (s.claimFault p i).adm = s.adm := rfl
@[simp] theorem State.claimFault_bm (s : State) (p : Phase) (i : Nat) : (s.claimFault p i).bm = s.bm := rfl
@[simp] theorem State.claimFault_stations (s : State) (p : Phase) (i : Nat) :
    (s.claimFault p i).stations =
      s.stations := rfl
@[simp] theorem State.claimFault_sched (s : State) (p : Phase) (i : Nat) : (s.claimFault p i).sched = s.sched := rfl
@[simp] theorem State.claimFault_feeder (s : State) (p : Phase) (i : Nat) :
    (s.claimFault p i).feeder =
      s.feeder := rfl
@[simp] theorem State.claimFault_uplink (s : State) (p : Phase) (i : Nat) :
    (s.claimFault p i).uplink =
      s.uplink := rfl
@[simp] theorem State.claimFault_sweep (s : State) (p : Phase) (i : Nat) : (s.claimFault p i).sweep = s.sweep := rfl
@[simp] theorem State.claimFault_purge (s : State) (p : Phase) (i : Nat) : (s.claimFault p i).purge = s.purge := rfl
@[simp] theorem State.claimFault_disposal (s : State) (p : Phase) (i : Nat) :
    (s.claimFault p i).disposal =
      s.disposal := rfl
@[simp] theorem State.claimFault_rp (s : State) (p : Phase) (i : Nat) : (s.claimFault p i).rp = s.rp := rfl
@[simp] theorem State.claimFault_events (s : State) (p : Phase) (i : Nat) :
    (s.claimFault p i).events =
      s.events := rfl
@[simp] theorem State.claimFault_faultClaims (s : State) (p : Phase) (i : Nat) :
    (s.claimFault p i).faultClaims =
      s.faultClaims ++ [{ station := i, admin := (s.station i).admin, phase := p }] := rfl
@[simp] theorem State.claimFault_ctr (s : State) (p : Phase) (i : Nat) : (s.claimFault p i).ctr = s.ctr := rfl
@[simp] theorem State.claimFault_freeCtr (s : State) (p : Phase) (i : Nat) :
    (s.claimFault p i).freeCtr =
      s.freeCtr := rfl

/-! ### ignoreNote -/

@[simp] theorem State.ignoreNote_pending (s : State) : (s.ignoreNote).pending = s.pending := rfl
@[simp] theorem State.ignoreNote_inReset (s : State) : (s.ignoreNote).inReset = s.inReset := rfl
@[simp] theorem State.ignoreNote_timeBase (s : State) : (s.ignoreNote).timeBase = s.timeBase := rfl
@[simp] theorem State.ignoreNote_rx (s : State) : (s.ignoreNote).rx = s.rx := rfl
@[simp] theorem State.ignoreNote_tx (s : State) : (s.ignoreNote).tx = s.tx := rfl
@[simp] theorem State.ignoreNote_radio (s : State) : (s.ignoreNote).radio = s.radio := rfl
@[simp] theorem State.ignoreNote_adm (s : State) : (s.ignoreNote).adm = s.adm := rfl
@[simp] theorem State.ignoreNote_bm (s : State) : (s.ignoreNote).bm = s.bm := rfl
@[simp] theorem State.ignoreNote_stations (s : State) : (s.ignoreNote).stations = s.stations := rfl
@[simp] theorem State.ignoreNote_sched (s : State) : (s.ignoreNote).sched = s.sched := rfl
@[simp] theorem State.ignoreNote_feeder (s : State) : (s.ignoreNote).feeder = s.feeder := rfl
@[simp] theorem State.ignoreNote_uplink (s : State) : (s.ignoreNote).uplink = s.uplink := rfl
@[simp] theorem State.ignoreNote_sweep (s : State) : (s.ignoreNote).sweep = s.sweep := rfl
@[simp] theorem State.ignoreNote_purge (s : State) : (s.ignoreNote).purge = s.purge := rfl
@[simp] theorem State.ignoreNote_disposal (s : State) : (s.ignoreNote).disposal = s.disposal := rfl
@[simp] theorem State.ignoreNote_rp (s : State) : (s.ignoreNote).rp = s.rp := rfl
@[simp] theorem State.ignoreNote_events (s : State) : (s.ignoreNote).events = s.events := rfl
@[simp] theorem State.ignoreNote_faultClaims (s : State) : (s.ignoreNote).faultClaims = s.faultClaims := rfl
@[simp] theorem State.ignoreNote_ctr (s : State) :
    (s.ignoreNote).ctr =
      { s.ctr with notesIgnored := addTo s.ctr.notesIgnored 1 } := rfl
@[simp] theorem State.ignoreNote_freeCtr (s : State) : (s.ignoreNote).freeCtr = s.freeCtr := rfl

/-! ### dispose -/

@[simp] theorem State.dispose_pending (s : State) (d : Nat) (r : Reason) : (s.dispose d r).pending = s.pending := rfl
@[simp] theorem State.dispose_inReset (s : State) (d : Nat) (r : Reason) : (s.dispose d r).inReset = s.inReset := rfl
@[simp] theorem State.dispose_timeBase (s : State) (d : Nat) (r : Reason) :
    (s.dispose d r).timeBase =
      s.timeBase := rfl
@[simp] theorem State.dispose_rx (s : State) (d : Nat) (r : Reason) : (s.dispose d r).rx = s.rx := rfl
@[simp] theorem State.dispose_tx (s : State) (d : Nat) (r : Reason) : (s.dispose d r).tx = s.tx := rfl
@[simp] theorem State.dispose_radio (s : State) (d : Nat) (r : Reason) : (s.dispose d r).radio = s.radio := rfl
@[simp] theorem State.dispose_adm (s : State) (d : Nat) (r : Reason) : (s.dispose d r).adm = s.adm := rfl
@[simp] theorem State.dispose_bm (s : State) (d : Nat) (r : Reason) :
    (s.dispose d r).bm =
      s.bm.setDesc d { s.desc d with reason := some r, place := .disposal } := rfl
@[simp] theorem State.dispose_stations (s : State) (d : Nat) (r : Reason) :
    (s.dispose d r).stations =
      s.stations := rfl
@[simp] theorem State.dispose_sched (s : State) (d : Nat) (r : Reason) : (s.dispose d r).sched = s.sched := rfl
@[simp] theorem State.dispose_feeder (s : State) (d : Nat) (r : Reason) : (s.dispose d r).feeder = s.feeder := rfl
@[simp] theorem State.dispose_uplink (s : State) (d : Nat) (r : Reason) : (s.dispose d r).uplink = s.uplink := rfl
@[simp] theorem State.dispose_sweep (s : State) (d : Nat) (r : Reason) : (s.dispose d r).sweep = s.sweep := rfl
@[simp] theorem State.dispose_purge (s : State) (d : Nat) (r : Reason) : (s.dispose d r).purge = s.purge := rfl
@[simp] theorem State.dispose_disposal (s : State) (d : Nat) (r : Reason) :
    (s.dispose d r).disposal =
      s.disposal ++ [d] := rfl
@[simp] theorem State.dispose_rp (s : State) (d : Nat) (r : Reason) : (s.dispose d r).rp = s.rp := rfl
@[simp] theorem State.dispose_events (s : State) (d : Nat) (r : Reason) : (s.dispose d r).events = s.events := rfl
@[simp] theorem State.dispose_faultClaims (s : State) (d : Nat) (r : Reason) :
    (s.dispose d r).faultClaims =
      s.faultClaims := rfl
@[simp] theorem State.dispose_ctr (s : State) (d : Nat) (r : Reason) : (s.dispose d r).ctr = s.ctr := rfl
@[simp] theorem State.dispose_freeCtr (s : State) (d : Nat) (r : Reason) : (s.dispose d r).freeCtr = s.freeCtr := rfl

/-! ### toReclaim -/

@[simp] theorem State.toReclaim_pending (s : State) (d : Nat) : (s.toReclaim d).pending = s.pending := rfl
@[simp] theorem State.toReclaim_inReset (s : State) (d : Nat) : (s.toReclaim d).inReset = s.inReset := rfl
@[simp] theorem State.toReclaim_timeBase (s : State) (d : Nat) : (s.toReclaim d).timeBase = s.timeBase := rfl
@[simp] theorem State.toReclaim_rx (s : State) (d : Nat) : (s.toReclaim d).rx = s.rx := rfl
@[simp] theorem State.toReclaim_tx (s : State) (d : Nat) : (s.toReclaim d).tx = s.tx := rfl
@[simp] theorem State.toReclaim_radio (s : State) (d : Nat) : (s.toReclaim d).radio = s.radio := rfl
@[simp] theorem State.toReclaim_adm (s : State) (d : Nat) : (s.toReclaim d).adm = s.adm := rfl
@[simp] theorem State.toReclaim_bm (s : State) (d : Nat) :
    (s.toReclaim d).bm =
      { s.bm.setDesc d { s.desc d with reason := some .chainFault, place := .reclaim } with
        reclaim := s.bm.reclaim ++ [d] } := rfl
@[simp] theorem State.toReclaim_stations (s : State) (d : Nat) : (s.toReclaim d).stations = s.stations := rfl
@[simp] theorem State.toReclaim_sched (s : State) (d : Nat) : (s.toReclaim d).sched = s.sched := rfl
@[simp] theorem State.toReclaim_feeder (s : State) (d : Nat) : (s.toReclaim d).feeder = s.feeder := rfl
@[simp] theorem State.toReclaim_uplink (s : State) (d : Nat) : (s.toReclaim d).uplink = s.uplink := rfl
@[simp] theorem State.toReclaim_sweep (s : State) (d : Nat) : (s.toReclaim d).sweep = s.sweep := rfl
@[simp] theorem State.toReclaim_purge (s : State) (d : Nat) : (s.toReclaim d).purge = s.purge := rfl
@[simp] theorem State.toReclaim_disposal (s : State) (d : Nat) : (s.toReclaim d).disposal = s.disposal := rfl
@[simp] theorem State.toReclaim_rp (s : State) (d : Nat) : (s.toReclaim d).rp = s.rp := rfl
@[simp] theorem State.toReclaim_events (s : State) (d : Nat) : (s.toReclaim d).events = s.events := rfl
@[simp] theorem State.toReclaim_faultClaims (s : State) (d : Nat) : (s.toReclaim d).faultClaims = s.faultClaims := rfl
@[simp] theorem State.toReclaim_ctr (s : State) (d : Nat) : (s.toReclaim d).ctr = s.ctr := rfl
@[simp] theorem State.toReclaim_freeCtr (s : State) (d : Nat) : (s.toReclaim d).freeCtr = s.freeCtr := rfl

/-! ### progress -/

@[simp] theorem State.progress_pending (s : State) (e : Execution) (o : List Byte) :
    (s.progress e o).pending =
      s.pending := rfl
@[simp] theorem State.progress_inReset (s : State) (e : Execution) (o : List Byte) :
    (s.progress e o).inReset =
      s.inReset := rfl
@[simp] theorem State.progress_timeBase (s : State) (e : Execution) (o : List Byte) :
    (s.progress e o).timeBase =
      s.timeBase := rfl
@[simp] theorem State.progress_rx (s : State) (e : Execution) (o : List Byte) : (s.progress e o).rx = s.rx := rfl
@[simp] theorem State.progress_tx (s : State) (e : Execution) (o : List Byte) : (s.progress e o).tx = s.tx := rfl
@[simp] theorem State.progress_radio (s : State) (e : Execution) (o : List Byte) :
    (s.progress e o).radio =
      s.radio := rfl
@[simp] theorem State.progress_adm (s : State) (e : Execution) (o : List Byte) : (s.progress e o).adm = s.adm := rfl
@[simp] theorem State.progress_bm (s : State) (e : Execution) (o : List Byte) : (s.progress e o).bm = s.bm := rfl
@[simp] theorem State.progress_stations (s : State) (e : Execution) (o : List Byte) :
    (s.progress e o).stations =
      s.stations := rfl
@[simp] theorem State.progress_sched (s : State) (e : Execution) (o : List Byte) :
    (s.progress e o).sched =
      s.sched := rfl
@[simp] theorem State.progress_feeder (s : State) (e : Execution) (o : List Byte) :
    (s.progress e o).feeder =
      s.feeder := rfl
@[simp] theorem State.progress_uplink (s : State) (e : Execution) (o : List Byte) :
    (s.progress e o).uplink =
      s.uplink := rfl
@[simp] theorem State.progress_sweep (s : State) (e : Execution) (o : List Byte) :
    (s.progress e o).sweep =
      s.sweep := rfl
@[simp] theorem State.progress_purge (s : State) (e : Execution) (o : List Byte) :
    (s.progress e o).purge =
      s.purge := rfl
@[simp] theorem State.progress_disposal (s : State) (e : Execution) (o : List Byte) :
    (s.progress e o).disposal =
      s.disposal := rfl
@[simp] theorem State.progress_rp (s : State) (e : Execution) (o : List Byte) :
    (s.progress e o).rp =
      { s.rp with executing := some { e with done := e.done + 1, out := e.out ++ o } } := rfl
@[simp] theorem State.progress_events (s : State) (e : Execution) (o : List Byte) :
    (s.progress e o).events =
      s.events := rfl
@[simp] theorem State.progress_faultClaims (s : State) (e : Execution) (o : List Byte) :
    (s.progress e o).faultClaims =
      s.faultClaims := rfl
@[simp] theorem State.progress_ctr (s : State) (e : Execution) (o : List Byte) : (s.progress e o).ctr = s.ctr := rfl
@[simp] theorem State.progress_freeCtr (s : State) (e : Execution) (o : List Byte) :
    (s.progress e o).freeCtr =
      s.freeCtr := rfl

/-! ### admissionEnds -/

@[simp] theorem State.admissionEnds_pending (s : State) : (s.admissionEnds).pending = s.pending := rfl
@[simp] theorem State.admissionEnds_inReset (s : State) : (s.admissionEnds).inReset = s.inReset := rfl
@[simp] theorem State.admissionEnds_timeBase (s : State) : (s.admissionEnds).timeBase = s.timeBase := rfl
@[simp] theorem State.admissionEnds_rx (s : State) :
    (s.admissionEnds).rx =
      { s.rx with ingress := s.rx.ingress.drop 1 } := rfl
@[simp] theorem State.admissionEnds_tx (s : State) : (s.admissionEnds).tx = s.tx := rfl
@[simp] theorem State.admissionEnds_radio (s : State) : (s.admissionEnds).radio = s.radio := rfl
@[simp] theorem State.admissionEnds_adm (s : State) : (s.admissionEnds).adm = Admission.idle := rfl
@[simp] theorem State.admissionEnds_bm (s : State) : (s.admissionEnds).bm = s.bm := rfl
@[simp] theorem State.admissionEnds_stations (s : State) : (s.admissionEnds).stations = s.stations := rfl
@[simp] theorem State.admissionEnds_sched (s : State) : (s.admissionEnds).sched = s.sched := rfl
@[simp] theorem State.admissionEnds_feeder (s : State) : (s.admissionEnds).feeder = s.feeder := rfl
@[simp] theorem State.admissionEnds_uplink (s : State) : (s.admissionEnds).uplink = s.uplink := rfl
@[simp] theorem State.admissionEnds_sweep (s : State) : (s.admissionEnds).sweep = s.sweep := rfl
@[simp] theorem State.admissionEnds_purge (s : State) : (s.admissionEnds).purge = s.purge := rfl
@[simp] theorem State.admissionEnds_disposal (s : State) : (s.admissionEnds).disposal = s.disposal := rfl
@[simp] theorem State.admissionEnds_rp (s : State) : (s.admissionEnds).rp = s.rp := rfl
@[simp] theorem State.admissionEnds_events (s : State) : (s.admissionEnds).events = s.events := rfl
@[simp] theorem State.admissionEnds_faultClaims (s : State) : (s.admissionEnds).faultClaims = s.faultClaims := rfl
@[simp] theorem State.admissionEnds_ctr (s : State) : (s.admissionEnds).ctr = s.ctr := rfl
@[simp] theorem State.admissionEnds_freeCtr (s : State) : (s.admissionEnds).freeCtr = s.freeCtr := rfl

/-! ### lateDone -/

@[simp] theorem State.lateDone_pending (s : State) (m : DoneMsg) : (s.lateDone m).pending = s.pending := rfl
@[simp] theorem State.lateDone_inReset (s : State) (m : DoneMsg) : (s.lateDone m).inReset = s.inReset := rfl
@[simp] theorem State.lateDone_timeBase (s : State) (m : DoneMsg) : (s.lateDone m).timeBase = s.timeBase := rfl
@[simp] theorem State.lateDone_rx (s : State) (m : DoneMsg) : (s.lateDone m).rx = s.rx := rfl
@[simp] theorem State.lateDone_tx (s : State) (m : DoneMsg) : (s.lateDone m).tx = s.tx := rfl
@[simp] theorem State.lateDone_radio (s : State) (m : DoneMsg) : (s.lateDone m).radio = s.radio := rfl
@[simp] theorem State.lateDone_adm (s : State) (m : DoneMsg) : (s.lateDone m).adm = s.adm := rfl
@[simp] theorem State.lateDone_bm (s : State) (m : DoneMsg) : (s.lateDone m).bm = s.bm := rfl
@[simp] theorem State.lateDone_stations (s : State) (m : DoneMsg) : (s.lateDone m).stations = s.stations := rfl
@[simp] theorem State.lateDone_sched (s : State) (m : DoneMsg) : (s.lateDone m).sched = s.sched := rfl
@[simp] theorem State.lateDone_feeder (s : State) (m : DoneMsg) : (s.lateDone m).feeder = s.feeder := rfl
@[simp] theorem State.lateDone_uplink (s : State) (m : DoneMsg) : (s.lateDone m).uplink = s.uplink := rfl
@[simp] theorem State.lateDone_sweep (s : State) (m : DoneMsg) : (s.lateDone m).sweep = s.sweep := rfl
@[simp] theorem State.lateDone_purge (s : State) (m : DoneMsg) : (s.lateDone m).purge = s.purge := rfl
@[simp] theorem State.lateDone_disposal (s : State) (m : DoneMsg) : (s.lateDone m).disposal = s.disposal := rfl
@[simp] theorem State.lateDone_rp (s : State) (m : DoneMsg) : (s.lateDone m).rp = s.rp := rfl
@[simp] theorem State.lateDone_events (s : State) (m : DoneMsg) :
    (s.lateDone m).events =
      s.events.put s.timeBase (.lateDone m.slot m.serial) := rfl
@[simp] theorem State.lateDone_faultClaims (s : State) (m : DoneMsg) :
    (s.lateDone m).faultClaims =
      s.faultClaims := rfl
@[simp] theorem State.lateDone_ctr (s : State) (m : DoneMsg) :
    (s.lateDone m).ctr =
      { s.ctr with lateDones := addTo s.ctr.lateDones 1 } := rfl
@[simp] theorem State.lateDone_freeCtr (s : State) (m : DoneMsg) : (s.lateDone m).freeCtr = s.freeCtr := rfl

/-! ### protocolError -/

@[simp] theorem State.protocolError_pending (s : State) (c : ProtocolCause) (k a b : Byte) (i : StationIndex) :
    (s.protocolError c k a b i).pending =
      s.pending := rfl
@[simp] theorem State.protocolError_inReset (s : State) (c : ProtocolCause) (k a b : Byte) (i : StationIndex) :
    (s.protocolError c k a b i).inReset =
      s.inReset := rfl
@[simp] theorem State.protocolError_timeBase (s : State) (c : ProtocolCause) (k a b : Byte) (i : StationIndex) :
    (s.protocolError c k a b i).timeBase =
      s.timeBase := rfl
@[simp] theorem State.protocolError_rx (s : State) (c : ProtocolCause) (k a b : Byte) (i : StationIndex) :
    (s.protocolError c k a b i).rx =
      s.rx := rfl
@[simp] theorem State.protocolError_tx (s : State) (c : ProtocolCause) (k a b : Byte) (i : StationIndex) :
    (s.protocolError c k a b i).tx =
      s.tx := rfl
@[simp] theorem State.protocolError_radio (s : State) (c : ProtocolCause) (k a b : Byte) (i : StationIndex) :
    (s.protocolError c k a b i).radio =
      s.radio := rfl
@[simp] theorem State.protocolError_adm (s : State) (c : ProtocolCause) (k a b : Byte) (i : StationIndex) :
    (s.protocolError c k a b i).adm =
      s.adm := rfl
@[simp] theorem State.protocolError_bm (s : State) (c : ProtocolCause) (k a b : Byte) (i : StationIndex) :
    (s.protocolError c k a b i).bm =
      s.bm := rfl
@[simp] theorem State.protocolError_stations (s : State) (c : ProtocolCause) (k a b : Byte) (i : StationIndex) :
    (s.protocolError c k a b i).stations =
      s.stations := rfl
@[simp] theorem State.protocolError_sched (s : State) (c : ProtocolCause) (k a b : Byte) (i : StationIndex) :
    (s.protocolError c k a b i).sched =
      s.sched := rfl
@[simp] theorem State.protocolError_feeder (s : State) (c : ProtocolCause) (k a b : Byte) (i : StationIndex) :
    (s.protocolError c k a b i).feeder =
      s.feeder := rfl
@[simp] theorem State.protocolError_uplink (s : State) (c : ProtocolCause) (k a b : Byte) (i : StationIndex) :
    (s.protocolError c k a b i).uplink =
      s.uplink := rfl
@[simp] theorem State.protocolError_sweep (s : State) (c : ProtocolCause) (k a b : Byte) (i : StationIndex) :
    (s.protocolError c k a b i).sweep =
      s.sweep := rfl
@[simp] theorem State.protocolError_purge (s : State) (c : ProtocolCause) (k a b : Byte) (i : StationIndex) :
    (s.protocolError c k a b i).purge =
      s.purge := rfl
@[simp] theorem State.protocolError_disposal (s : State) (c : ProtocolCause) (k a b : Byte) (i : StationIndex) :
    (s.protocolError c k a b i).disposal =
      s.disposal := rfl
@[simp] theorem State.protocolError_rp (s : State) (c : ProtocolCause) (k a b : Byte) (i : StationIndex) :
    (s.protocolError c k a b i).rp =
      s.rp := rfl
@[simp] theorem State.protocolError_events (s : State) (c : ProtocolCause) (k a b : Byte) (i : StationIndex) :
    (s.protocolError c k a b i).events =
      s.events.put s.timeBase (.radioProtocol c k a b i) := rfl
@[simp] theorem State.protocolError_faultClaims (s : State) (c : ProtocolCause) (k a b : Byte) (i : StationIndex) :
    (s.protocolError c k a b i).faultClaims =
      s.faultClaims := rfl
@[simp] theorem State.protocolError_ctr (s : State) (c : ProtocolCause) (k a b : Byte) (i : StationIndex) :
    (s.protocolError c k a b i).ctr =
      { s.ctr with protocolErrors := addTo s.ctr.protocolErrors 1 } := rfl
@[simp] theorem State.protocolError_freeCtr (s : State) (c : ProtocolCause) (k a b : Byte) (i : StationIndex) :
    (s.protocolError c k a b i).freeCtr =
      s.freeCtr := rfl

/-! ### enterFrozen -/

@[simp] theorem State.enterFrozen_pending (s : State) : (s.enterFrozen).pending = s.pending := rfl
@[simp] theorem State.enterFrozen_inReset (s : State) : (s.enterFrozen).inReset = s.inReset := rfl
@[simp] theorem State.enterFrozen_timeBase (s : State) : (s.enterFrozen).timeBase = s.timeBase := rfl
@[simp] theorem State.enterFrozen_rx (s : State) : (s.enterFrozen).rx = s.rx := rfl
@[simp] theorem State.enterFrozen_tx (s : State) : (s.enterFrozen).tx = s.tx := rfl
@[simp] theorem State.enterFrozen_radio (s : State) : (s.enterFrozen).radio = s.radio := rfl
@[simp] theorem State.enterFrozen_adm (s : State) : (s.enterFrozen).adm = s.adm := rfl
@[simp] theorem State.enterFrozen_bm (s : State) : (s.enterFrozen).bm = s.bm := rfl
@[simp] theorem State.enterFrozen_stations (s : State) : (s.enterFrozen).stations = s.stations := rfl
@[simp] theorem State.enterFrozen_sched (s : State) : (s.enterFrozen).sched = { s.sched with state := .frozen } := rfl
@[simp] theorem State.enterFrozen_feeder (s : State) : (s.enterFrozen).feeder = s.feeder := rfl
@[simp] theorem State.enterFrozen_uplink (s : State) : (s.enterFrozen).uplink = s.uplink := rfl
@[simp] theorem State.enterFrozen_sweep (s : State) :
    (s.enterFrozen).sweep =
      s.sweep.onState s.rp.options.sweep s.sched.state .frozen := rfl
@[simp] theorem State.enterFrozen_purge (s : State) : (s.enterFrozen).purge = s.purge := rfl
@[simp] theorem State.enterFrozen_disposal (s : State) : (s.enterFrozen).disposal = s.disposal := rfl
@[simp] theorem State.enterFrozen_rp (s : State) : (s.enterFrozen).rp = s.rp := rfl
@[simp] theorem State.enterFrozen_events (s : State) :
    (s.enterFrozen).events =
      s.events.put s.timeBase (.frozen s.sched.causes) := rfl
@[simp] theorem State.enterFrozen_faultClaims (s : State) : (s.enterFrozen).faultClaims = s.faultClaims := rfl
@[simp] theorem State.enterFrozen_ctr (s : State) : (s.enterFrozen).ctr = s.ctr := rfl
@[simp] theorem State.enterFrozen_freeCtr (s : State) : (s.enterFrozen).freeCtr = s.freeCtr := rfl

/-! ### commitRates -/

@[simp] theorem State.commitRates_pending (s : State) : (s.commitRates).pending = s.pending := rfl
@[simp] theorem State.commitRates_inReset (s : State) : (s.commitRates).inReset = s.inReset := rfl
@[simp] theorem State.commitRates_timeBase (s : State) : (s.commitRates).timeBase = s.timeBase := rfl
@[simp] theorem State.commitRates_rx (s : State) : (s.commitRates).rx = s.rx := rfl
@[simp] theorem State.commitRates_tx (s : State) : (s.commitRates).tx = s.tx := rfl
@[simp] theorem State.commitRates_radio (s : State) : (s.commitRates).radio = s.radio := rfl
@[simp] theorem State.commitRates_adm (s : State) : (s.commitRates).adm = s.adm := rfl
@[simp] theorem State.commitRates_bm (s : State) : (s.commitRates).bm = s.bm := rfl
@[simp] theorem State.commitRates_stations (s : State) : (s.commitRates).stations = s.stations := rfl
@[simp] theorem State.commitRates_sched (s : State) :
    (s.commitRates).sched =
      { s.sched with liveRate := s.sched.shadowRate } := rfl
@[simp] theorem State.commitRates_feeder (s : State) : (s.commitRates).feeder = s.feeder := rfl
@[simp] theorem State.commitRates_uplink (s : State) : (s.commitRates).uplink = s.uplink := rfl
@[simp] theorem State.commitRates_sweep (s : State) : (s.commitRates).sweep = s.sweep := rfl
@[simp] theorem State.commitRates_purge (s : State) : (s.commitRates).purge = s.purge := rfl
@[simp] theorem State.commitRates_disposal (s : State) : (s.commitRates).disposal = s.disposal := rfl
@[simp] theorem State.commitRates_rp (s : State) : (s.commitRates).rp = s.rp := rfl
@[simp] theorem State.commitRates_events (s : State) : (s.commitRates).events = s.events := rfl
@[simp] theorem State.commitRates_faultClaims (s : State) : (s.commitRates).faultClaims = s.faultClaims := rfl
@[simp] theorem State.commitRates_ctr (s : State) : (s.commitRates).ctr = s.ctr := rfl
@[simp] theorem State.commitRates_freeCtr (s : State) : (s.commitRates).freeCtr = s.freeCtr := rfl

/-! ### leaveList -/

@[simp] theorem State.leaveList_pending (s : State) (i : Nat) : (s.leaveList i).pending = s.pending := rfl
@[simp] theorem State.leaveList_inReset (s : State) (i : Nat) : (s.leaveList i).inReset = s.inReset := rfl
@[simp] theorem State.leaveList_timeBase (s : State) (i : Nat) : (s.leaveList i).timeBase = s.timeBase := rfl
@[simp] theorem State.leaveList_rx (s : State) (i : Nat) : (s.leaveList i).rx = s.rx := rfl
@[simp] theorem State.leaveList_tx (s : State) (i : Nat) : (s.leaveList i).tx = s.tx := rfl
@[simp] theorem State.leaveList_radio (s : State) (i : Nat) : (s.leaveList i).radio = s.radio := rfl
@[simp] theorem State.leaveList_adm (s : State) (i : Nat) : (s.leaveList i).adm = s.adm := rfl
@[simp] theorem State.leaveList_bm (s : State) (i : Nat) : (s.leaveList i).bm = s.bm := rfl
@[simp] theorem State.leaveList_stations (s : State) (i : Nat) :
    (s.leaveList i).stations =
      Table.set Station.free s.stations i { s.station i with list := .none } := rfl
@[simp] theorem State.leaveList_sched (s : State) (i : Nat) :
    (s.leaveList i).sched =
      { s.sched with
        entryList := s.sched.entryList.filter (· ≠ i), roundList := s.sched.roundList.filter (· ≠ i) } := rfl
@[simp] theorem State.leaveList_feeder (s : State) (i : Nat) : (s.leaveList i).feeder = s.feeder := rfl
@[simp] theorem State.leaveList_uplink (s : State) (i : Nat) : (s.leaveList i).uplink = s.uplink := rfl
@[simp] theorem State.leaveList_sweep (s : State) (i : Nat) : (s.leaveList i).sweep = s.sweep := rfl
@[simp] theorem State.leaveList_purge (s : State) (i : Nat) : (s.leaveList i).purge = s.purge := rfl
@[simp] theorem State.leaveList_disposal (s : State) (i : Nat) : (s.leaveList i).disposal = s.disposal := rfl
@[simp] theorem State.leaveList_rp (s : State) (i : Nat) : (s.leaveList i).rp = s.rp := rfl
@[simp] theorem State.leaveList_events (s : State) (i : Nat) : (s.leaveList i).events = s.events := rfl
@[simp] theorem State.leaveList_faultClaims (s : State) (i : Nat) : (s.leaveList i).faultClaims = s.faultClaims := rfl
@[simp] theorem State.leaveList_ctr (s : State) (i : Nat) : (s.leaveList i).ctr = s.ctr := rfl
@[simp] theorem State.leaveList_freeCtr (s : State) (i : Nat) : (s.leaveList i).freeCtr = s.freeCtr := rfl

/-! ### topUpHead -/

@[simp] theorem State.topUpHead_pending (s : State) (i : Nat) (l : List Nat) :
    (s.topUpHead i l).pending =
      s.pending := rfl
@[simp] theorem State.topUpHead_inReset (s : State) (i : Nat) (l : List Nat) :
    (s.topUpHead i l).inReset =
      s.inReset := rfl
@[simp] theorem State.topUpHead_timeBase (s : State) (i : Nat) (l : List Nat) :
    (s.topUpHead i l).timeBase =
      s.timeBase := rfl
@[simp] theorem State.topUpHead_rx (s : State) (i : Nat) (l : List Nat) : (s.topUpHead i l).rx = s.rx := rfl
@[simp] theorem State.topUpHead_tx (s : State) (i : Nat) (l : List Nat) : (s.topUpHead i l).tx = s.tx := rfl
@[simp] theorem State.topUpHead_radio (s : State) (i : Nat) (l : List Nat) : (s.topUpHead i l).radio = s.radio := rfl
@[simp] theorem State.topUpHead_adm (s : State) (i : Nat) (l : List Nat) : (s.topUpHead i l).adm = s.adm := rfl
@[simp] theorem State.topUpHead_bm (s : State) (i : Nat) (l : List Nat) : (s.topUpHead i l).bm = s.bm := rfl
@[simp] theorem State.topUpHead_stations (s : State) (i : Nat) (l : List Nat) :
    (s.topUpHead i l).stations =
      Table.set Station.free s.stations i
        { s.station i with deficit := (s.station i).deficit + (s.liveClass (s.station i)).quantum } := rfl
@[simp] theorem State.topUpHead_sched (s : State) (i : Nat) (l : List Nat) :
    (s.topUpHead i l).sched =
      { s.sched with roundList := l ++ [i] } := rfl
@[simp] theorem State.topUpHead_feeder (s : State) (i : Nat) (l : List Nat) :
    (s.topUpHead i l).feeder =
      s.feeder := rfl
@[simp] theorem State.topUpHead_uplink (s : State) (i : Nat) (l : List Nat) :
    (s.topUpHead i l).uplink =
      s.uplink := rfl
@[simp] theorem State.topUpHead_sweep (s : State) (i : Nat) (l : List Nat) : (s.topUpHead i l).sweep = s.sweep := rfl
@[simp] theorem State.topUpHead_purge (s : State) (i : Nat) (l : List Nat) : (s.topUpHead i l).purge = s.purge := rfl
@[simp] theorem State.topUpHead_disposal (s : State) (i : Nat) (l : List Nat) :
    (s.topUpHead i l).disposal =
      s.disposal := rfl
@[simp] theorem State.topUpHead_rp (s : State) (i : Nat) (l : List Nat) : (s.topUpHead i l).rp = s.rp := rfl
@[simp] theorem State.topUpHead_events (s : State) (i : Nat) (l : List Nat) :
    (s.topUpHead i l).events =
      s.events := rfl
@[simp] theorem State.topUpHead_faultClaims (s : State) (i : Nat) (l : List Nat) :
    (s.topUpHead i l).faultClaims =
      s.faultClaims := rfl
@[simp] theorem State.topUpHead_ctr (s : State) (i : Nat) (l : List Nat) : (s.topUpHead i l).ctr = s.ctr := rfl
@[simp] theorem State.topUpHead_freeCtr (s : State) (i : Nat) (l : List Nat) :
    (s.topUpHead i l).freeCtr =
      s.freeCtr := rfl

/-! ### reportFault -/

@[simp] theorem State.reportFault_pending (s : State) (p : Phase) (i : Nat) (c : BitVec 32) (f : WalkFault) :
    (s.reportFault p i c f).pending =
      s.pending := rfl
@[simp] theorem State.reportFault_inReset (s : State) (p : Phase) (i : Nat) (c : BitVec 32) (f : WalkFault) :
    (s.reportFault p i c f).inReset =
      s.inReset := rfl
@[simp] theorem State.reportFault_timeBase (s : State) (p : Phase) (i : Nat) (c : BitVec 32) (f : WalkFault) :
    (s.reportFault p i c f).timeBase =
      s.timeBase := rfl
@[simp] theorem State.reportFault_rx (s : State) (p : Phase) (i : Nat) (c : BitVec 32) (f : WalkFault) :
    (s.reportFault p i c f).rx =
      s.rx := rfl
@[simp] theorem State.reportFault_tx (s : State) (p : Phase) (i : Nat) (c : BitVec 32) (f : WalkFault) :
    (s.reportFault p i c f).tx =
      s.tx := rfl
@[simp] theorem State.reportFault_radio (s : State) (p : Phase) (i : Nat) (c : BitVec 32) (f : WalkFault) :
    (s.reportFault p i c f).radio =
      s.radio := rfl
@[simp] theorem State.reportFault_adm (s : State) (p : Phase) (i : Nat) (c : BitVec 32) (f : WalkFault) :
    (s.reportFault p i c f).adm =
      s.adm := rfl
@[simp] theorem State.reportFault_bm (s : State) (p : Phase) (i : Nat) (c : BitVec 32) (f : WalkFault) :
    (s.reportFault p i c f).bm =
      s.bm := rfl
@[simp] theorem State.reportFault_stations (s : State) (p : Phase) (i : Nat) (c : BitVec 32) (f : WalkFault) :
    (s.reportFault p i c f).stations =
      s.stations := rfl
@[simp] theorem State.reportFault_sched (s : State) (p : Phase) (i : Nat) (c : BitVec 32) (f : WalkFault) :
    (s.reportFault p i c f).sched =
      s.sched := rfl
@[simp] theorem State.reportFault_feeder (s : State) (p : Phase) (i : Nat) (c : BitVec 32) (f : WalkFault) :
    (s.reportFault p i c f).feeder =
      s.feeder := rfl
@[simp] theorem State.reportFault_uplink (s : State) (p : Phase) (i : Nat) (c : BitVec 32) (f : WalkFault) :
    (s.reportFault p i c f).uplink =
      s.uplink := rfl
@[simp] theorem State.reportFault_sweep (s : State) (p : Phase) (i : Nat) (c : BitVec 32) (f : WalkFault) :
    (s.reportFault p i c f).sweep =
      s.sweep := rfl
@[simp] theorem State.reportFault_purge (s : State) (p : Phase) (i : Nat) (c : BitVec 32) (f : WalkFault) :
    (s.reportFault p i c f).purge =
      s.purge := rfl
@[simp] theorem State.reportFault_disposal (s : State) (p : Phase) (i : Nat) (c : BitVec 32) (f : WalkFault) :
    (s.reportFault p i c f).disposal =
      s.disposal := rfl
@[simp] theorem State.reportFault_rp (s : State) (p : Phase) (i : Nat) (c : BitVec 32) (f : WalkFault) :
    (s.reportFault p i c f).rp =
      s.rp := rfl
@[simp] theorem State.reportFault_events (s : State) (p : Phase) (i : Nat) (c : BitVec 32) (f : WalkFault) :
    (s.reportFault p i c f).events =
      s.events.put s.timeBase (.fault f.cause p i c f.cell f.segment) := rfl
@[simp] theorem State.reportFault_faultClaims (s : State) (p : Phase) (i : Nat) (c : BitVec 32) (f : WalkFault) :
    (s.reportFault p i c f).faultClaims =
      s.faultClaims := rfl
@[simp] theorem State.reportFault_freeCtr (s : State) (p : Phase) (i : Nat) (c : BitVec 32) (f : WalkFault) :
    (s.reportFault p i c f).freeCtr =
      s.freeCtr := rfl

end Sys2Proof.Machine
end

