-- ==== Sys2Proof/Laws/Ops.lean ====
section
/-! SUPPORT. What the shared operations leave alone, field by field. -/

namespace Sys2Proof.Machine

/-- Two states that agree in every field are one. -/
theorem State.ext_fields {s t : State} (h0 : s.pending = t.pending) (h1 : s.inReset = t.inReset) (h2 : s.timeBase = t.timeBase) (h3 : s.rx = t.rx) (h4 : s.tx = t.tx) (h5 : s.radio = t.radio) (h6 : s.adm = t.adm) (h7 : s.bm = t.bm) (h8 : s.stations = t.stations) (h9 : s.sched = t.sched) (h10 : s.feeder = t.feeder) (h11 : s.uplink = t.uplink) (h12 : s.sweep = t.sweep) (h13 : s.purge = t.purge) (h14 : s.disposal = t.disposal) (h15 : s.rp = t.rp) (h16 : s.events = t.events) (h17 : s.faultClaims = t.faultClaims) (h18 : s.ctr = t.ctr) (h19 : s.freeCtr = t.freeCtr) : s = t := by
  cases s; cases t; simp only at *; subst_vars; rfl

theorem Scheduler.ext_fields {s t : Scheduler} (h0 : s.state = t.state) (h1 : s.causes = t.causes) (h2 : s.liveClass = t.liveClass) (h3 : s.shadowClass = t.shadowClass) (h4 : s.liveRate = t.liveRate) (h5 : s.shadowRate = t.shadowRate) (h6 : s.entryList = t.entryList) (h7 : s.roundList = t.roundList) (h8 : s.pollQueue = t.pollQueue) (h9 : s.slots = t.slots) (h10 : s.serial = t.serial) (h11 : s.candidate = t.candidate) : s = t := by
  cases s; cases t; simp only at *; subst_vars; rfl

theorem BufferManager.ext_fields {s t : BufferManager} (h0 : s.descs = t.descs) (h1 : s.freeDescs = t.freeDescs) (h2 : s.owners = t.owners) (h3 : s.freeCells = t.freeCells) (h4 : s.reclaim = t.reclaim) (h5 : s.scan = t.scan) (h6 : s.selfTestResult = t.selfTestResult) (h7 : s.pauseWanted = t.pauseWanted) (h8 : s.mem = t.mem) (h9 : s.ecc = t.ecc) : s = t := by
  cases s; cases t; simp only at *; subst_vars; rfl

/-! ### count -/

@[simp] theorem State.count_pending (s : State) (i : Nat) (f : StationCounters → StationCounters) : (s.count i f).pending = s.pending := by unfold State.count; split_ifs <;> simp
@[simp] theorem State.count_inReset (s : State) (i : Nat) (f : StationCounters → StationCounters) : (s.count i f).inReset = s.inReset := by unfold State.count; split_ifs <;> simp
@[simp] theorem State.count_timeBase (s : State) (i : Nat) (f : StationCounters → StationCounters) : (s.count i f).timeBase = s.timeBase := by unfold State.count; split_ifs <;> simp
@[simp] theorem State.count_rx (s : State) (i : Nat) (f : StationCounters → StationCounters) : (s.count i f).rx = s.rx := by unfold State.count; split_ifs <;> simp
@[simp] theorem State.count_tx (s : State) (i : Nat) (f : StationCounters → StationCounters) : (s.count i f).tx = s.tx := by unfold State.count; split_ifs <;> simp
@[simp] theorem State.count_radio (s : State) (i : Nat) (f : StationCounters → StationCounters) : (s.count i f).radio = s.radio := by unfold State.count; split_ifs <;> simp
@[simp] theorem State.count_adm (s : State) (i : Nat) (f : StationCounters → StationCounters) : (s.count i f).adm = s.adm := by unfold State.count; split_ifs <;> simp
@[simp] theorem State.count_bm (s : State) (i : Nat) (f : StationCounters → StationCounters) : (s.count i f).bm = s.bm := by unfold State.count; split_ifs <;> simp
@[simp] theorem State.count_sched (s : State) (i : Nat) (f : StationCounters → StationCounters) : (s.count i f).sched = s.sched := by unfold State.count; split_ifs <;> simp
@[simp] theorem State.count_feeder (s : State) (i : Nat) (f : StationCounters → StationCounters) : (s.count i f).feeder = s.feeder := by unfold State.count; split_ifs <;> simp
@[simp] theorem State.count_uplink (s : State) (i : Nat) (f : StationCounters → StationCounters) : (s.count i f).uplink = s.uplink := by unfold State.count; split_ifs <;> simp
@[simp] theorem State.count_sweep (s : State) (i : Nat) (f : StationCounters → StationCounters) : (s.count i f).sweep = s.sweep := by unfold State.count; split_ifs <;> simp
@[simp] theorem State.count_purge (s : State) (i : Nat) (f : StationCounters → StationCounters) : (s.count i f).purge = s.purge := by unfold State.count; split_ifs <;> simp
@[simp] theorem State.count_disposal (s : State) (i : Nat) (f : StationCounters → StationCounters) : (s.count i f).disposal = s.disposal := by unfold State.count; split_ifs <;> simp
@[simp] theorem State.count_rp (s : State) (i : Nat) (f : StationCounters → StationCounters) : (s.count i f).rp = s.rp := by unfold State.count; split_ifs <;> simp
@[simp] theorem State.count_events (s : State) (i : Nat) (f : StationCounters → StationCounters) : (s.count i f).events = s.events := by unfold State.count; split_ifs <;> simp
@[simp] theorem State.count_faultClaims (s : State) (i : Nat) (f : StationCounters → StationCounters) : (s.count i f).faultClaims = s.faultClaims := by unfold State.count; split_ifs <;> simp
@[simp] theorem State.count_ctr (s : State) (i : Nat) (f : StationCounters → StationCounters) : (s.count i f).ctr = s.ctr := by unfold State.count; split_ifs <;> simp
@[simp] theorem State.count_freeCtr (s : State) (i : Nat) (f : StationCounters → StationCounters) : (s.count i f).freeCtr = s.freeCtr := by unfold State.count; split_ifs <;> simp

/-! ### joinList -/

@[simp] theorem State.joinList_pending (s : State) (i : Nat) (freed : Bool) : (s.joinList i freed).pending = s.pending := by unfold State.joinList; simp only; split_ifs <;> rfl
@[simp] theorem State.joinList_inReset (s : State) (i : Nat) (freed : Bool) : (s.joinList i freed).inReset = s.inReset := by unfold State.joinList; simp only; split_ifs <;> rfl
@[simp] theorem State.joinList_timeBase (s : State) (i : Nat) (freed : Bool) : (s.joinList i freed).timeBase = s.timeBase := by unfold State.joinList; simp only; split_ifs <;> rfl
@[simp] theorem State.joinList_rx (s : State) (i : Nat) (freed : Bool) : (s.joinList i freed).rx = s.rx := by unfold State.joinList; simp only; split_ifs <;> rfl
@[simp] theorem State.joinList_tx (s : State) (i : Nat) (freed : Bool) : (s.joinList i freed).tx = s.tx := by unfold State.joinList; simp only; split_ifs <;> rfl
@[simp] theorem State.joinList_radio (s : State) (i : Nat) (freed : Bool) : (s.joinList i freed).radio = s.radio := by unfold State.joinList; simp only; split_ifs <;> rfl
@[simp] theorem State.joinList_adm (s : State) (i : Nat) (freed : Bool) : (s.joinList i freed).adm = s.adm := by unfold State.joinList; simp only; split_ifs <;> rfl
@[simp] theorem State.joinList_bm (s : State) (i : Nat) (freed : Bool) : (s.joinList i freed).bm = s.bm := by unfold State.joinList; simp only; split_ifs <;> rfl
@[simp] theorem State.joinList_feeder (s : State) (i : Nat) (freed : Bool) : (s.joinList i freed).feeder = s.feeder := by unfold State.joinList; simp only; split_ifs <;> rfl
@[simp] theorem State.joinList_uplink (s : State) (i : Nat) (freed : Bool) : (s.joinList i freed).uplink = s.uplink := by unfold State.joinList; simp only; split_ifs <;> rfl
@[simp] theorem State.joinList_sweep (s : State) (i : Nat) (freed : Bool) : (s.joinList i freed).sweep = s.sweep := by unfold State.joinList; simp only; split_ifs <;> rfl
@[simp] theorem State.joinList_purge (s : State) (i : Nat) (freed : Bool) : (s.joinList i freed).purge = s.purge := by unfold State.joinList; simp only; split_ifs <;> rfl
@[simp] theorem State.joinList_disposal (s : State) (i : Nat) (freed : Bool) : (s.joinList i freed).disposal = s.disposal := by unfold State.joinList; simp only; split_ifs <;> rfl
@[simp] theorem State.joinList_rp (s : State) (i : Nat) (freed : Bool) : (s.joinList i freed).rp = s.rp := by unfold State.joinList; simp only; split_ifs <;> rfl
@[simp] theorem State.joinList_events (s : State) (i : Nat) (freed : Bool) : (s.joinList i freed).events = s.events := by unfold State.joinList; simp only; split_ifs <;> rfl
@[simp] theorem State.joinList_faultClaims (s : State) (i : Nat) (freed : Bool) : (s.joinList i freed).faultClaims = s.faultClaims := by unfold State.joinList; simp only; split_ifs <;> rfl
@[simp] theorem State.joinList_ctr (s : State) (i : Nat) (freed : Bool) : (s.joinList i freed).ctr = s.ctr := by unfold State.joinList; simp only; split_ifs <;> rfl
@[simp] theorem State.joinList_freeCtr (s : State) (i : Nat) (freed : Bool) : (s.joinList i freed).freeCtr = s.freeCtr := by unfold State.joinList; simp only; split_ifs <;> rfl
@[simp] theorem State.joinList_sched_state (s : State) (i : Nat) (freed : Bool) : (s.joinList i freed).sched.state = s.sched.state := by unfold State.joinList; simp only; split_ifs <;> rfl
@[simp] theorem State.joinList_sched_causes (s : State) (i : Nat) (freed : Bool) : (s.joinList i freed).sched.causes = s.sched.causes := by unfold State.joinList; simp only; split_ifs <;> rfl
@[simp] theorem State.joinList_sched_liveClass (s : State) (i : Nat) (freed : Bool) : (s.joinList i freed).sched.liveClass = s.sched.liveClass := by unfold State.joinList; simp only; split_ifs <;> rfl
@[simp] theorem State.joinList_sched_shadowClass (s : State) (i : Nat) (freed : Bool) : (s.joinList i freed).sched.shadowClass = s.sched.shadowClass := by unfold State.joinList; simp only; split_ifs <;> rfl
@[simp] theorem State.joinList_sched_liveRate (s : State) (i : Nat) (freed : Bool) : (s.joinList i freed).sched.liveRate = s.sched.liveRate := by unfold State.joinList; simp only; split_ifs <;> rfl
@[simp] theorem State.joinList_sched_shadowRate (s : State) (i : Nat) (freed : Bool) : (s.joinList i freed).sched.shadowRate = s.sched.shadowRate := by unfold State.joinList; simp only; split_ifs <;> rfl
@[simp] theorem State.joinList_sched_pollQueue (s : State) (i : Nat) (freed : Bool) : (s.joinList i freed).sched.pollQueue = s.sched.pollQueue := by unfold State.joinList; simp only; split_ifs <;> rfl
@[simp] theorem State.joinList_sched_slots (s : State) (i : Nat) (freed : Bool) : (s.joinList i freed).sched.slots = s.sched.slots := by unfold State.joinList; simp only; split_ifs <;> rfl
@[simp] theorem State.joinList_sched_serial (s : State) (i : Nat) (freed : Bool) : (s.joinList i freed).sched.serial = s.sched.serial := by unfold State.joinList; simp only; split_ifs <;> rfl
@[simp] theorem State.joinList_sched_candidate (s : State) (i : Nat) (freed : Bool) : (s.joinList i freed).sched.candidate = s.sched.candidate := by unfold State.joinList; simp only; split_ifs <;> rfl

/-! ### relist -/

@[simp] theorem State.relist_pending (s : State) (i : Nat) (was freed : Bool) : (s.relist i was freed).pending = s.pending := by unfold State.relist; split_ifs <;> simp
@[simp] theorem State.relist_inReset (s : State) (i : Nat) (was freed : Bool) : (s.relist i was freed).inReset = s.inReset := by unfold State.relist; split_ifs <;> simp
@[simp] theorem State.relist_timeBase (s : State) (i : Nat) (was freed : Bool) : (s.relist i was freed).timeBase = s.timeBase := by unfold State.relist; split_ifs <;> simp
@[simp] theorem State.relist_rx (s : State) (i : Nat) (was freed : Bool) : (s.relist i was freed).rx = s.rx := by unfold State.relist; split_ifs <;> simp
@[simp] theorem State.relist_tx (s : State) (i : Nat) (was freed : Bool) : (s.relist i was freed).tx = s.tx := by unfold State.relist; split_ifs <;> simp
@[simp] theorem State.relist_radio (s : State) (i : Nat) (was freed : Bool) : (s.relist i was freed).radio = s.radio := by unfold State.relist; split_ifs <;> simp
@[simp] theorem State.relist_adm (s : State) (i : Nat) (was freed : Bool) : (s.relist i was freed).adm = s.adm := by unfold State.relist; split_ifs <;> simp
@[simp] theorem State.relist_bm (s : State) (i : Nat) (was freed : Bool) : (s.relist i was freed).bm = s.bm := by unfold State.relist; split_ifs <;> simp
@[simp] theorem State.relist_feeder (s : State) (i : Nat) (was freed : Bool) : (s.relist i was freed).feeder = s.feeder := by unfold State.relist; split_ifs <;> simp
@[simp] theorem State.relist_uplink (s : State) (i : Nat) (was freed : Bool) : (s.relist i was freed).uplink = s.uplink := by unfold State.relist; split_ifs <;> simp
@[simp] theorem State.relist_sweep (s : State) (i : Nat) (was freed : Bool) : (s.relist i was freed).sweep = s.sweep := by unfold State.relist; split_ifs <;> simp
@[simp] theorem State.relist_purge (s : State) (i : Nat) (was freed : Bool) : (s.relist i was freed).purge = s.purge := by unfold State.relist; split_ifs <;> simp
@[simp] theorem State.relist_disposal (s : State) (i : Nat) (was freed : Bool) : (s.relist i was freed).disposal = s.disposal := by unfold State.relist; split_ifs <;> simp
@[simp] theorem State.relist_rp (s : State) (i : Nat) (was freed : Bool) : (s.relist i was freed).rp = s.rp := by unfold State.relist; split_ifs <;> simp
@[simp] theorem State.relist_events (s : State) (i : Nat) (was freed : Bool) : (s.relist i was freed).events = s.events := by unfold State.relist; split_ifs <;> simp
@[simp] theorem State.relist_faultClaims (s : State) (i : Nat) (was freed : Bool) : (s.relist i was freed).faultClaims = s.faultClaims := by unfold State.relist; split_ifs <;> simp
@[simp] theorem State.relist_ctr (s : State) (i : Nat) (was freed : Bool) : (s.relist i was freed).ctr = s.ctr := by unfold State.relist; split_ifs <;> simp
@[simp] theorem State.relist_freeCtr (s : State) (i : Nat) (was freed : Bool) : (s.relist i was freed).freeCtr = s.freeCtr := by unfold State.relist; split_ifs <;> simp
@[simp] theorem State.relist_sched_state (s : State) (i : Nat) (was freed : Bool) : (s.relist i was freed).sched.state = s.sched.state := by unfold State.relist; split_ifs <;> simp
@[simp] theorem State.relist_sched_causes (s : State) (i : Nat) (was freed : Bool) : (s.relist i was freed).sched.causes = s.sched.causes := by unfold State.relist; split_ifs <;> simp
@[simp] theorem State.relist_sched_liveClass (s : State) (i : Nat) (was freed : Bool) : (s.relist i was freed).sched.liveClass = s.sched.liveClass := by unfold State.relist; split_ifs <;> simp
@[simp] theorem State.relist_sched_shadowClass (s : State) (i : Nat) (was freed : Bool) : (s.relist i was freed).sched.shadowClass = s.sched.shadowClass := by unfold State.relist; split_ifs <;> simp
@[simp] theorem State.relist_sched_liveRate (s : State) (i : Nat) (was freed : Bool) : (s.relist i was freed).sched.liveRate = s.sched.liveRate := by unfold State.relist; split_ifs <;> simp
@[simp] theorem State.relist_sched_shadowRate (s : State) (i : Nat) (was freed : Bool) : (s.relist i was freed).sched.shadowRate = s.sched.shadowRate := by unfold State.relist; split_ifs <;> simp
@[simp] theorem State.relist_sched_pollQueue (s : State) (i : Nat) (was freed : Bool) : (s.relist i was freed).sched.pollQueue = s.sched.pollQueue := by unfold State.relist; split_ifs <;> simp
@[simp] theorem State.relist_sched_slots (s : State) (i : Nat) (was freed : Bool) : (s.relist i was freed).sched.slots = s.sched.slots := by unfold State.relist; split_ifs <;> simp
@[simp] theorem State.relist_sched_serial (s : State) (i : Nat) (was freed : Bool) : (s.relist i was freed).sched.serial = s.sched.serial := by unfold State.relist; split_ifs <;> simp
@[simp] theorem State.relist_sched_candidate (s : State) (i : Nat) (was freed : Bool) : (s.relist i was freed).sched.candidate = s.sched.candidate := by unfold State.relist; split_ifs <;> simp

/-! ### change -/

@[simp] theorem State.change_pending (s : State) (i : Nat) (freed : Bool) (f : Station → Station) : (s.change i freed f).pending = s.pending := by simp [State.change]
@[simp] theorem State.change_inReset (s : State) (i : Nat) (freed : Bool) (f : Station → Station) : (s.change i freed f).inReset = s.inReset := by simp [State.change]
@[simp] theorem State.change_timeBase (s : State) (i : Nat) (freed : Bool) (f : Station → Station) : (s.change i freed f).timeBase = s.timeBase := by simp [State.change]
@[simp] theorem State.change_rx (s : State) (i : Nat) (freed : Bool) (f : Station → Station) : (s.change i freed f).rx = s.rx := by simp [State.change]
@[simp] theorem State.change_tx (s : State) (i : Nat) (freed : Bool) (f : Station → Station) : (s.change i freed f).tx = s.tx := by simp [State.change]
@[simp] theorem State.change_radio (s : State) (i : Nat) (freed : Bool) (f : Station → Station) : (s.change i freed f).radio = s.radio := by simp [State.change]
@[simp] theorem State.change_adm (s : State) (i : Nat) (freed : Bool) (f : Station → Station) : (s.change i freed f).adm = s.adm := by simp [State.change]
@[simp] theorem State.change_bm (s : State) (i : Nat) (freed : Bool) (f : Station → Station) : (s.change i freed f).bm = s.bm := by simp [State.change]
@[simp] theorem State.change_feeder (s : State) (i : Nat) (freed : Bool) (f : Station → Station) : (s.change i freed f).feeder = s.feeder := by simp [State.change]
@[simp] theorem State.change_uplink (s : State) (i : Nat) (freed : Bool) (f : Station → Station) : (s.change i freed f).uplink = s.uplink := by simp [State.change]
@[simp] theorem State.change_sweep (s : State) (i : Nat) (freed : Bool) (f : Station → Station) : (s.change i freed f).sweep = s.sweep := by simp [State.change]
@[simp] theorem State.change_purge (s : State) (i : Nat) (freed : Bool) (f : Station → Station) : (s.change i freed f).purge = s.purge := by simp [State.change]
@[simp] theorem State.change_disposal (s : State) (i : Nat) (freed : Bool) (f : Station → Station) : (s.change i freed f).disposal = s.disposal := by simp [State.change]
@[simp] theorem State.change_rp (s : State) (i : Nat) (freed : Bool) (f : Station → Station) : (s.change i freed f).rp = s.rp := by simp [State.change]
@[simp] theorem State.change_events (s : State) (i : Nat) (freed : Bool) (f : Station → Station) : (s.change i freed f).events = s.events := by simp [State.change]
@[simp] theorem State.change_faultClaims (s : State) (i : Nat) (freed : Bool) (f : Station → Station) : (s.change i freed f).faultClaims = s.faultClaims := by simp [State.change]
@[simp] theorem State.change_ctr (s : State) (i : Nat) (freed : Bool) (f : Station → Station) : (s.change i freed f).ctr = s.ctr := by simp [State.change]
@[simp] theorem State.change_freeCtr (s : State) (i : Nat) (freed : Bool) (f : Station → Station) : (s.change i freed f).freeCtr = s.freeCtr := by simp [State.change]
@[simp] theorem State.change_sched_state (s : State) (i : Nat) (freed : Bool) (f : Station → Station) : (s.change i freed f).sched.state = s.sched.state := by simp [State.change]
@[simp] theorem State.change_sched_causes (s : State) (i : Nat) (freed : Bool) (f : Station → Station) : (s.change i freed f).sched.causes = s.sched.causes := by simp [State.change]
@[simp] theorem State.change_sched_liveClass (s : State) (i : Nat) (freed : Bool) (f : Station → Station) : (s.change i freed f).sched.liveClass = s.sched.liveClass := by simp [State.change]
@[simp] theorem State.change_sched_shadowClass (s : State) (i : Nat) (freed : Bool) (f : Station → Station) : (s.change i freed f).sched.shadowClass = s.sched.shadowClass := by simp [State.change]
@[simp] theorem State.change_sched_liveRate (s : State) (i : Nat) (freed : Bool) (f : Station → Station) : (s.change i freed f).sched.liveRate = s.sched.liveRate := by simp [State.change]
@[simp] theorem State.change_sched_shadowRate (s : State) (i : Nat) (freed : Bool) (f : Station → Station) : (s.change i freed f).sched.shadowRate = s.sched.shadowRate := by simp [State.change]
@[simp] theorem State.change_sched_pollQueue (s : State) (i : Nat) (freed : Bool) (f : Station → Station) : (s.change i freed f).sched.pollQueue = s.sched.pollQueue := by simp [State.change]
@[simp] theorem State.change_sched_slots (s : State) (i : Nat) (freed : Bool) (f : Station → Station) : (s.change i freed f).sched.slots = s.sched.slots := by simp [State.change]
@[simp] theorem State.change_sched_serial (s : State) (i : Nat) (freed : Bool) (f : Station → Station) : (s.change i freed f).sched.serial = s.sched.serial := by simp [State.change]
@[simp] theorem State.change_sched_candidate (s : State) (i : Nat) (freed : Bool) (f : Station → Station) : (s.change i freed f).sched.candidate = s.sched.candidate := by simp [State.change]

/-! ### cancelPoll -/

@[simp] theorem State.cancelPoll_pending (s : State) (i : Nat) : (s.cancelPoll i).pending = s.pending := by unfold State.cancelPoll; split_ifs <;> rfl
@[simp] theorem State.cancelPoll_inReset (s : State) (i : Nat) : (s.cancelPoll i).inReset = s.inReset := by unfold State.cancelPoll; split_ifs <;> rfl
@[simp] theorem State.cancelPoll_timeBase (s : State) (i : Nat) : (s.cancelPoll i).timeBase = s.timeBase := by unfold State.cancelPoll; split_ifs <;> rfl
@[simp] theorem State.cancelPoll_rx (s : State) (i : Nat) : (s.cancelPoll i).rx = s.rx := by unfold State.cancelPoll; split_ifs <;> rfl
@[simp] theorem State.cancelPoll_tx (s : State) (i : Nat) : (s.cancelPoll i).tx = s.tx := by unfold State.cancelPoll; split_ifs <;> rfl
@[simp] theorem State.cancelPoll_radio (s : State) (i : Nat) : (s.cancelPoll i).radio = s.radio := by unfold State.cancelPoll; split_ifs <;> rfl
@[simp] theorem State.cancelPoll_adm (s : State) (i : Nat) : (s.cancelPoll i).adm = s.adm := by unfold State.cancelPoll; split_ifs <;> rfl
@[simp] theorem State.cancelPoll_bm (s : State) (i : Nat) : (s.cancelPoll i).bm = s.bm := by unfold State.cancelPoll; split_ifs <;> rfl
@[simp] theorem State.cancelPoll_feeder (s : State) (i : Nat) : (s.cancelPoll i).feeder = s.feeder := by unfold State.cancelPoll; split_ifs <;> rfl
@[simp] theorem State.cancelPoll_uplink (s : State) (i : Nat) : (s.cancelPoll i).uplink = s.uplink := by unfold State.cancelPoll; split_ifs <;> rfl
@[simp] theorem State.cancelPoll_sweep (s : State) (i : Nat) : (s.cancelPoll i).sweep = s.sweep := by unfold State.cancelPoll; split_ifs <;> rfl
@[simp] theorem State.cancelPoll_purge (s : State) (i : Nat) : (s.cancelPoll i).purge = s.purge := by unfold State.cancelPoll; split_ifs <;> rfl
@[simp] theorem State.cancelPoll_disposal (s : State) (i : Nat) : (s.cancelPoll i).disposal = s.disposal := by unfold State.cancelPoll; split_ifs <;> rfl
@[simp] theorem State.cancelPoll_rp (s : State) (i : Nat) : (s.cancelPoll i).rp = s.rp := by unfold State.cancelPoll; split_ifs <;> rfl
@[simp] theorem State.cancelPoll_events (s : State) (i : Nat) : (s.cancelPoll i).events = s.events := by unfold State.cancelPoll; split_ifs <;> rfl
@[simp] theorem State.cancelPoll_faultClaims (s : State) (i : Nat) : (s.cancelPoll i).faultClaims = s.faultClaims := by unfold State.cancelPoll; split_ifs <;> rfl
@[simp] theorem State.cancelPoll_ctr (s : State) (i : Nat) : (s.cancelPoll i).ctr = s.ctr := by unfold State.cancelPoll; split_ifs <;> rfl
@[simp] theorem State.cancelPoll_freeCtr (s : State) (i : Nat) : (s.cancelPoll i).freeCtr = s.freeCtr := by unfold State.cancelPoll; split_ifs <;> rfl
@[simp] theorem State.cancelPoll_sched_state (s : State) (i : Nat) : (s.cancelPoll i).sched.state = s.sched.state := by unfold State.cancelPoll; split_ifs <;> rfl
@[simp] theorem State.cancelPoll_sched_causes (s : State) (i : Nat) : (s.cancelPoll i).sched.causes = s.sched.causes := by unfold State.cancelPoll; split_ifs <;> rfl
@[simp] theorem State.cancelPoll_sched_liveClass (s : State) (i : Nat) : (s.cancelPoll i).sched.liveClass = s.sched.liveClass := by unfold State.cancelPoll; split_ifs <;> rfl
@[simp] theorem State.cancelPoll_sched_shadowClass (s : State) (i : Nat) : (s.cancelPoll i).sched.shadowClass = s.sched.shadowClass := by unfold State.cancelPoll; split_ifs <;> rfl
@[simp] theorem State.cancelPoll_sched_liveRate (s : State) (i : Nat) : (s.cancelPoll i).sched.liveRate = s.sched.liveRate := by unfold State.cancelPoll; split_ifs <;> rfl
@[simp] theorem State.cancelPoll_sched_shadowRate (s : State) (i : Nat) : (s.cancelPoll i).sched.shadowRate = s.sched.shadowRate := by unfold State.cancelPoll; split_ifs <;> rfl
@[simp] theorem State.cancelPoll_sched_entryList (s : State) (i : Nat) : (s.cancelPoll i).sched.entryList = s.sched.entryList := by unfold State.cancelPoll; split_ifs <;> rfl
@[simp] theorem State.cancelPoll_sched_roundList (s : State) (i : Nat) : (s.cancelPoll i).sched.roundList = s.sched.roundList := by unfold State.cancelPoll; split_ifs <;> rfl
@[simp] theorem State.cancelPoll_sched_slots (s : State) (i : Nat) : (s.cancelPoll i).sched.slots = s.sched.slots := by unfold State.cancelPoll; split_ifs <;> rfl
@[simp] theorem State.cancelPoll_sched_serial (s : State) (i : Nat) : (s.cancelPoll i).sched.serial = s.sched.serial := by unfold State.cancelPoll; split_ifs <;> rfl
@[simp] theorem State.cancelPoll_sched_candidate (s : State) (i : Nat) : (s.cancelPoll i).sched.candidate = s.sched.candidate := by unfold State.cancelPoll; split_ifs <;> rfl

/-! ### checkStopped -/

@[simp] theorem State.checkStopped_pending (s : State) : (s.checkStopped).pending = s.pending := by unfold State.checkStopped; split_ifs <;> rfl
@[simp] theorem State.checkStopped_inReset (s : State) : (s.checkStopped).inReset = s.inReset := by unfold State.checkStopped; split_ifs <;> rfl
@[simp] theorem State.checkStopped_timeBase (s : State) : (s.checkStopped).timeBase = s.timeBase := by unfold State.checkStopped; split_ifs <;> rfl
@[simp] theorem State.checkStopped_rx (s : State) : (s.checkStopped).rx = s.rx := by unfold State.checkStopped; split_ifs <;> rfl
@[simp] theorem State.checkStopped_tx (s : State) : (s.checkStopped).tx = s.tx := by unfold State.checkStopped; split_ifs <;> rfl
@[simp] theorem State.checkStopped_radio (s : State) : (s.checkStopped).radio = s.radio := by unfold State.checkStopped; split_ifs <;> rfl
@[simp] theorem State.checkStopped_adm (s : State) : (s.checkStopped).adm = s.adm := by unfold State.checkStopped; split_ifs <;> rfl
@[simp] theorem State.checkStopped_bm (s : State) : (s.checkStopped).bm = s.bm := by unfold State.checkStopped; split_ifs <;> rfl
@[simp] theorem State.checkStopped_stations (s : State) : (s.checkStopped).stations = s.stations := by unfold State.checkStopped; split_ifs <;> rfl
@[simp] theorem State.checkStopped_feeder (s : State) : (s.checkStopped).feeder = s.feeder := by unfold State.checkStopped; split_ifs <;> rfl
@[simp] theorem State.checkStopped_uplink (s : State) : (s.checkStopped).uplink = s.uplink := by unfold State.checkStopped; split_ifs <;> rfl
@[simp] theorem State.checkStopped_sweep (s : State) : (s.checkStopped).sweep = s.sweep := by unfold State.checkStopped; split_ifs <;> rfl
@[simp] theorem State.checkStopped_purge (s : State) : (s.checkStopped).purge = s.purge := by unfold State.checkStopped; split_ifs <;> rfl
@[simp] theorem State.checkStopped_disposal (s : State) : (s.checkStopped).disposal = s.disposal := by unfold State.checkStopped; split_ifs <;> rfl
@[simp] theorem State.checkStopped_rp (s : State) : (s.checkStopped).rp = s.rp := by unfold State.checkStopped; split_ifs <;> rfl
@[simp] theorem State.checkStopped_faultClaims (s : State) : (s.checkStopped).faultClaims = s.faultClaims := by unfold State.checkStopped; split_ifs <;> rfl
@[simp] theorem State.checkStopped_ctr (s : State) : (s.checkStopped).ctr = s.ctr := by unfold State.checkStopped; split_ifs <;> rfl
@[simp] theorem State.checkStopped_freeCtr (s : State) : (s.checkStopped).freeCtr = s.freeCtr := by unfold State.checkStopped; split_ifs <;> rfl
@[simp] theorem State.checkStopped_sched_liveClass (s : State) : (s.checkStopped).sched.liveClass = s.sched.liveClass := by unfold State.checkStopped; split_ifs <;> rfl
@[simp] theorem State.checkStopped_sched_shadowClass (s : State) : (s.checkStopped).sched.shadowClass = s.sched.shadowClass := by unfold State.checkStopped; split_ifs <;> rfl
@[simp] theorem State.checkStopped_sched_liveRate (s : State) : (s.checkStopped).sched.liveRate = s.sched.liveRate := by unfold State.checkStopped; split_ifs <;> rfl
@[simp] theorem State.checkStopped_sched_shadowRate (s : State) : (s.checkStopped).sched.shadowRate = s.sched.shadowRate := by unfold State.checkStopped; split_ifs <;> rfl
@[simp] theorem State.checkStopped_sched_entryList (s : State) : (s.checkStopped).sched.entryList = s.sched.entryList := by unfold State.checkStopped; split_ifs <;> rfl
@[simp] theorem State.checkStopped_sched_roundList (s : State) : (s.checkStopped).sched.roundList = s.sched.roundList := by unfold State.checkStopped; split_ifs <;> rfl
@[simp] theorem State.checkStopped_sched_pollQueue (s : State) : (s.checkStopped).sched.pollQueue = s.sched.pollQueue := by unfold State.checkStopped; split_ifs <;> rfl
@[simp] theorem State.checkStopped_sched_slots (s : State) : (s.checkStopped).sched.slots = s.sched.slots := by unfold State.checkStopped; split_ifs <;> rfl
@[simp] theorem State.checkStopped_sched_serial (s : State) : (s.checkStopped).sched.serial = s.sched.serial := by unfold State.checkStopped; split_ifs <;> rfl
@[simp] theorem State.checkStopped_sched_candidate (s : State) : (s.checkStopped).sched.candidate = s.sched.candidate := by unfold State.checkStopped; split_ifs <;> rfl

/-! ### checkRetired -/

@[simp] theorem State.checkRetired_pending (s : State) : (s.checkRetired).pending = s.pending := by unfold State.checkRetired; split_ifs <;> rfl
@[simp] theorem State.checkRetired_inReset (s : State) : (s.checkRetired).inReset = s.inReset := by unfold State.checkRetired; split_ifs <;> rfl
@[simp] theorem State.checkRetired_timeBase (s : State) : (s.checkRetired).timeBase = s.timeBase := by unfold State.checkRetired; split_ifs <;> rfl
@[simp] theorem State.checkRetired_rx (s : State) : (s.checkRetired).rx = s.rx := by unfold State.checkRetired; split_ifs <;> rfl
@[simp] theorem State.checkRetired_tx (s : State) : (s.checkRetired).tx = s.tx := by unfold State.checkRetired; split_ifs <;> rfl
@[simp] theorem State.checkRetired_radio (s : State) : (s.checkRetired).radio = s.radio := by unfold State.checkRetired; split_ifs <;> rfl
@[simp] theorem State.checkRetired_adm (s : State) : (s.checkRetired).adm = s.adm := by unfold State.checkRetired; split_ifs <;> rfl
@[simp] theorem State.checkRetired_bm (s : State) : (s.checkRetired).bm = s.bm := by unfold State.checkRetired; split_ifs <;> rfl
@[simp] theorem State.checkRetired_stations (s : State) : (s.checkRetired).stations = s.stations := by unfold State.checkRetired; split_ifs <;> rfl
@[simp] theorem State.checkRetired_feeder (s : State) : (s.checkRetired).feeder = s.feeder := by unfold State.checkRetired; split_ifs <;> rfl
@[simp] theorem State.checkRetired_uplink (s : State) : (s.checkRetired).uplink = s.uplink := by unfold State.checkRetired; split_ifs <;> rfl
@[simp] theorem State.checkRetired_purge (s : State) : (s.checkRetired).purge = s.purge := by unfold State.checkRetired; split_ifs <;> rfl
@[simp] theorem State.checkRetired_disposal (s : State) : (s.checkRetired).disposal = s.disposal := by unfold State.checkRetired; split_ifs <;> rfl
@[simp] theorem State.checkRetired_rp (s : State) : (s.checkRetired).rp = s.rp := by unfold State.checkRetired; split_ifs <;> rfl
@[simp] theorem State.checkRetired_faultClaims (s : State) : (s.checkRetired).faultClaims = s.faultClaims := by unfold State.checkRetired; split_ifs <;> rfl
@[simp] theorem State.checkRetired_ctr (s : State) : (s.checkRetired).ctr = s.ctr := by unfold State.checkRetired; split_ifs <;> rfl
@[simp] theorem State.checkRetired_freeCtr (s : State) : (s.checkRetired).freeCtr = s.freeCtr := by unfold State.checkRetired; split_ifs <;> rfl
@[simp] theorem State.checkRetired_sched_causes (s : State) : (s.checkRetired).sched.causes = s.sched.causes := by unfold State.checkRetired; split_ifs <;> rfl
@[simp] theorem State.checkRetired_sched_liveClass (s : State) : (s.checkRetired).sched.liveClass = s.sched.liveClass := by unfold State.checkRetired; split_ifs <;> rfl
@[simp] theorem State.checkRetired_sched_shadowClass (s : State) : (s.checkRetired).sched.shadowClass = s.sched.shadowClass := by unfold State.checkRetired; split_ifs <;> rfl
@[simp] theorem State.checkRetired_sched_liveRate (s : State) : (s.checkRetired).sched.liveRate = s.sched.liveRate := by unfold State.checkRetired; split_ifs <;> rfl
@[simp] theorem State.checkRetired_sched_shadowRate (s : State) : (s.checkRetired).sched.shadowRate = s.sched.shadowRate := by unfold State.checkRetired; split_ifs <;> rfl
@[simp] theorem State.checkRetired_sched_entryList (s : State) : (s.checkRetired).sched.entryList = s.sched.entryList := by unfold State.checkRetired; split_ifs <;> rfl
@[simp] theorem State.checkRetired_sched_roundList (s : State) : (s.checkRetired).sched.roundList = s.sched.roundList := by unfold State.checkRetired; split_ifs <;> rfl
@[simp] theorem State.checkRetired_sched_pollQueue (s : State) : (s.checkRetired).sched.pollQueue = s.sched.pollQueue := by unfold State.checkRetired; split_ifs <;> rfl
@[simp] theorem State.checkRetired_sched_slots (s : State) : (s.checkRetired).sched.slots = s.sched.slots := by unfold State.checkRetired; split_ifs <;> rfl
@[simp] theorem State.checkRetired_sched_serial (s : State) : (s.checkRetired).sched.serial = s.sched.serial := by unfold State.checkRetired; split_ifs <;> rfl
@[simp] theorem State.checkRetired_sched_candidate (s : State) : (s.checkRetired).sched.candidate = s.sched.candidate := by unfold State.checkRetired; split_ifs <;> rfl

/-! ### slotFreed -/

@[simp] theorem State.slotFreed_pending (s : State) : (s.slotFreed).pending = s.pending := by unfold State.slotFreed; split_ifs <;> simp
@[simp] theorem State.slotFreed_inReset (s : State) : (s.slotFreed).inReset = s.inReset := by unfold State.slotFreed; split_ifs <;> simp
@[simp] theorem State.slotFreed_timeBase (s : State) : (s.slotFreed).timeBase = s.timeBase := by unfold State.slotFreed; split_ifs <;> simp
@[simp] theorem State.slotFreed_rx (s : State) : (s.slotFreed).rx = s.rx := by unfold State.slotFreed; split_ifs <;> simp
@[simp] theorem State.slotFreed_tx (s : State) : (s.slotFreed).tx = s.tx := by unfold State.slotFreed; split_ifs <;> simp
@[simp] theorem State.slotFreed_radio (s : State) : (s.slotFreed).radio = s.radio := by unfold State.slotFreed; split_ifs <;> simp
@[simp] theorem State.slotFreed_adm (s : State) : (s.slotFreed).adm = s.adm := by unfold State.slotFreed; split_ifs <;> simp
@[simp] theorem State.slotFreed_bm (s : State) : (s.slotFreed).bm = s.bm := by unfold State.slotFreed; split_ifs <;> simp
@[simp] theorem State.slotFreed_stations (s : State) : (s.slotFreed).stations = s.stations := by unfold State.slotFreed; split_ifs <;> simp
@[simp] theorem State.slotFreed_feeder (s : State) : (s.slotFreed).feeder = s.feeder := by unfold State.slotFreed; split_ifs <;> simp
@[simp] theorem State.slotFreed_uplink (s : State) : (s.slotFreed).uplink = s.uplink := by unfold State.slotFreed; split_ifs <;> simp
@[simp] theorem State.slotFreed_purge (s : State) : (s.slotFreed).purge = s.purge := by unfold State.slotFreed; split_ifs <;> simp
@[simp] theorem State.slotFreed_disposal (s : State) : (s.slotFreed).disposal = s.disposal := by unfold State.slotFreed; split_ifs <;> simp
@[simp] theorem State.slotFreed_rp (s : State) : (s.slotFreed).rp = s.rp := by unfold State.slotFreed; split_ifs <;> simp
@[simp] theorem State.slotFreed_faultClaims (s : State) : (s.slotFreed).faultClaims = s.faultClaims := by unfold State.slotFreed; split_ifs <;> simp
@[simp] theorem State.slotFreed_ctr (s : State) : (s.slotFreed).ctr = s.ctr := by unfold State.slotFreed; split_ifs <;> simp
@[simp] theorem State.slotFreed_freeCtr (s : State) : (s.slotFreed).freeCtr = s.freeCtr := by unfold State.slotFreed; split_ifs <;> simp
@[simp] theorem State.slotFreed_sched_liveClass (s : State) : (s.slotFreed).sched.liveClass = s.sched.liveClass := by unfold State.slotFreed; split_ifs <;> simp
@[simp] theorem State.slotFreed_sched_shadowClass (s : State) : (s.slotFreed).sched.shadowClass = s.sched.shadowClass := by unfold State.slotFreed; split_ifs <;> simp
@[simp] theorem State.slotFreed_sched_liveRate (s : State) : (s.slotFreed).sched.liveRate = s.sched.liveRate := by unfold State.slotFreed; split_ifs <;> simp
@[simp] theorem State.slotFreed_sched_shadowRate (s : State) : (s.slotFreed).sched.shadowRate = s.sched.shadowRate := by unfold State.slotFreed; split_ifs <;> simp
@[simp] theorem State.slotFreed_sched_entryList (s : State) : (s.slotFreed).sched.entryList = s.sched.entryList := by unfold State.slotFreed; split_ifs <;> simp
@[simp] theorem State.slotFreed_sched_roundList (s : State) : (s.slotFreed).sched.roundList = s.sched.roundList := by unfold State.slotFreed; split_ifs <;> simp
@[simp] theorem State.slotFreed_sched_pollQueue (s : State) : (s.slotFreed).sched.pollQueue = s.sched.pollQueue := by unfold State.slotFreed; split_ifs <;> simp
@[simp] theorem State.slotFreed_sched_slots (s : State) : (s.slotFreed).sched.slots = s.sched.slots := by unfold State.slotFreed; split_ifs <;> simp
@[simp] theorem State.slotFreed_sched_serial (s : State) : (s.slotFreed).sched.serial = s.sched.serial := by unfold State.slotFreed; split_ifs <;> simp
@[simp] theorem State.slotFreed_sched_candidate (s : State) : (s.slotFreed).sched.candidate = s.sched.candidate := by unfold State.slotFreed; split_ifs <;> simp

/-! ### withPools -/

@[simp] theorem State.withPools_pending (s : State) (b : BufferManager) : (s.withPools b).pending = s.pending := by unfold State.withPools; simp only; split_ifs <;> simp
@[simp] theorem State.withPools_inReset (s : State) (b : BufferManager) : (s.withPools b).inReset = s.inReset := by unfold State.withPools; simp only; split_ifs <;> simp
@[simp] theorem State.withPools_timeBase (s : State) (b : BufferManager) : (s.withPools b).timeBase = s.timeBase := by unfold State.withPools; simp only; split_ifs <;> simp
@[simp] theorem State.withPools_rx (s : State) (b : BufferManager) : (s.withPools b).rx = s.rx := by unfold State.withPools; simp only; split_ifs <;> simp
@[simp] theorem State.withPools_tx (s : State) (b : BufferManager) : (s.withPools b).tx = s.tx := by unfold State.withPools; simp only; split_ifs <;> simp
@[simp] theorem State.withPools_radio (s : State) (b : BufferManager) : (s.withPools b).radio = s.radio := by unfold State.withPools; simp only; split_ifs <;> simp
@[simp] theorem State.withPools_adm (s : State) (b : BufferManager) : (s.withPools b).adm = s.adm := by unfold State.withPools; simp only; split_ifs <;> simp
@[simp] theorem State.withPools_stations (s : State) (b : BufferManager) : (s.withPools b).stations = s.stations := by unfold State.withPools; simp only; split_ifs <;> simp
@[simp] theorem State.withPools_feeder (s : State) (b : BufferManager) : (s.withPools b).feeder = s.feeder := by unfold State.withPools; simp only; split_ifs <;> simp
@[simp] theorem State.withPools_uplink (s : State) (b : BufferManager) : (s.withPools b).uplink = s.uplink := by unfold State.withPools; simp only; split_ifs <;> simp
@[simp] theorem State.withPools_purge (s : State) (b : BufferManager) : (s.withPools b).purge = s.purge := by unfold State.withPools; simp only; split_ifs <;> simp
@[simp] theorem State.withPools_disposal (s : State) (b : BufferManager) : (s.withPools b).disposal = s.disposal := by unfold State.withPools; simp only; split_ifs <;> simp
@[simp] theorem State.withPools_rp (s : State) (b : BufferManager) : (s.withPools b).rp = s.rp := by unfold State.withPools; simp only; split_ifs <;> simp
@[simp] theorem State.withPools_faultClaims (s : State) (b : BufferManager) : (s.withPools b).faultClaims = s.faultClaims := by unfold State.withPools; simp only; split_ifs <;> simp
@[simp] theorem State.withPools_ctr (s : State) (b : BufferManager) : (s.withPools b).ctr = s.ctr := by unfold State.withPools; simp only; split_ifs <;> simp
@[simp] theorem State.withPools_freeCtr (s : State) (b : BufferManager) : (s.withPools b).freeCtr = s.freeCtr := by unfold State.withPools; simp only; split_ifs <;> simp
@[simp] theorem State.withPools_sched_causes (s : State) (b : BufferManager) : (s.withPools b).sched.causes = s.sched.causes := by unfold State.withPools; simp only; split_ifs <;> simp
@[simp] theorem State.withPools_sched_liveClass (s : State) (b : BufferManager) : (s.withPools b).sched.liveClass = s.sched.liveClass := by unfold State.withPools; simp only; split_ifs <;> simp
@[simp] theorem State.withPools_sched_shadowClass (s : State) (b : BufferManager) : (s.withPools b).sched.shadowClass = s.sched.shadowClass := by unfold State.withPools; simp only; split_ifs <;> simp
@[simp] theorem State.withPools_sched_liveRate (s : State) (b : BufferManager) : (s.withPools b).sched.liveRate = s.sched.liveRate := by unfold State.withPools; simp only; split_ifs <;> simp
@[simp] theorem State.withPools_sched_shadowRate (s : State) (b : BufferManager) : (s.withPools b).sched.shadowRate = s.sched.shadowRate := by unfold State.withPools; simp only; split_ifs <;> simp
@[simp] theorem State.withPools_sched_entryList (s : State) (b : BufferManager) : (s.withPools b).sched.entryList = s.sched.entryList := by unfold State.withPools; simp only; split_ifs <;> simp
@[simp] theorem State.withPools_sched_roundList (s : State) (b : BufferManager) : (s.withPools b).sched.roundList = s.sched.roundList := by unfold State.withPools; simp only; split_ifs <;> simp
@[simp] theorem State.withPools_sched_pollQueue (s : State) (b : BufferManager) : (s.withPools b).sched.pollQueue = s.sched.pollQueue := by unfold State.withPools; simp only; split_ifs <;> simp
@[simp] theorem State.withPools_sched_slots (s : State) (b : BufferManager) : (s.withPools b).sched.slots = s.sched.slots := by unfold State.withPools; simp only; split_ifs <;> simp
@[simp] theorem State.withPools_sched_serial (s : State) (b : BufferManager) : (s.withPools b).sched.serial = s.sched.serial := by unfold State.withPools; simp only; split_ifs <;> simp
@[simp] theorem State.withPools_sched_candidate (s : State) (b : BufferManager) : (s.withPools b).sched.candidate = s.sched.candidate := by unfold State.withPools; simp only; split_ifs <;> simp

/-- The pools after an operation, with PAUSE evaluated (R36, R189). -/
theorem State.withPools_bm (s : State) (b : BufferManager) : (s.withPools b).bm = BufferManager.evaluateFrom s.startUnsent s.bm b := by
  unfold State.withPools; simp only; split_ifs <;> simp

/-- With no rise of the retired count nothing but the pools changes. -/
theorem State.withPools_of_le (s : State) (b : BufferManager) (h : b.retiredCount ≤ s.bm.retiredCount) :
    s.withPools b = { s with bm := BufferManager.evaluateFrom s.startUnsent s.bm b } := by
  unfold State.withPools; simp only; rw [if_neg (by omega)]

/-! ### checkTeardown -/

@[simp] theorem State.checkTeardown_pending (s : State) (i : Nat) : (s.checkTeardown i).pending = s.pending := by unfold State.checkTeardown; simp only; split_ifs <;> rfl
@[simp] theorem State.checkTeardown_inReset (s : State) (i : Nat) : (s.checkTeardown i).inReset = s.inReset := by unfold State.checkTeardown; simp only; split_ifs <;> rfl
@[simp] theorem State.checkTeardown_timeBase (s : State) (i : Nat) : (s.checkTeardown i).timeBase = s.timeBase := by unfold State.checkTeardown; simp only; split_ifs <;> rfl
@[simp] theorem State.checkTeardown_rx (s : State) (i : Nat) : (s.checkTeardown i).rx = s.rx := by unfold State.checkTeardown; simp only; split_ifs <;> rfl
@[simp] theorem State.checkTeardown_tx (s : State) (i : Nat) : (s.checkTeardown i).tx = s.tx := by unfold State.checkTeardown; simp only; split_ifs <;> rfl
@[simp] theorem State.checkTeardown_radio (s : State) (i : Nat) : (s.checkTeardown i).radio = s.radio := by unfold State.checkTeardown; simp only; split_ifs <;> rfl
@[simp] theorem State.checkTeardown_adm (s : State) (i : Nat) : (s.checkTeardown i).adm = s.adm := by unfold State.checkTeardown; simp only; split_ifs <;> rfl
@[simp] theorem State.checkTeardown_bm (s : State) (i : Nat) : (s.checkTeardown i).bm = s.bm := by unfold State.checkTeardown; simp only; split_ifs <;> rfl
@[simp] theorem State.checkTeardown_sched (s : State) (i : Nat) : (s.checkTeardown i).sched = s.sched := by unfold State.checkTeardown; simp only; split_ifs <;> rfl
@[simp] theorem State.checkTeardown_feeder (s : State) (i : Nat) : (s.checkTeardown i).feeder = s.feeder := by unfold State.checkTeardown; simp only; split_ifs <;> rfl
@[simp] theorem State.checkTeardown_uplink (s : State) (i : Nat) : (s.checkTeardown i).uplink = s.uplink := by unfold State.checkTeardown; simp only; split_ifs <;> rfl
@[simp] theorem State.checkTeardown_sweep (s : State) (i : Nat) : (s.checkTeardown i).sweep = s.sweep := by unfold State.checkTeardown; simp only; split_ifs <;> rfl
@[simp] theorem State.checkTeardown_purge (s : State) (i : Nat) : (s.checkTeardown i).purge = s.purge := by unfold State.checkTeardown; simp only; split_ifs <;> rfl
@[simp] theorem State.checkTeardown_disposal (s : State) (i : Nat) : (s.checkTeardown i).disposal = s.disposal := by unfold State.checkTeardown; simp only; split_ifs <;> rfl
@[simp] theorem State.checkTeardown_rp (s : State) (i : Nat) : (s.checkTeardown i).rp = s.rp := by unfold State.checkTeardown; simp only; split_ifs <;> rfl
@[simp] theorem State.checkTeardown_faultClaims (s : State) (i : Nat) : (s.checkTeardown i).faultClaims = s.faultClaims := by unfold State.checkTeardown; simp only; split_ifs <;> rfl
@[simp] theorem State.checkTeardown_ctr (s : State) (i : Nat) : (s.checkTeardown i).ctr = s.ctr := by unfold State.checkTeardown; simp only; split_ifs <;> rfl
@[simp] theorem State.checkTeardown_freeCtr (s : State) (i : Nat) : (s.checkTeardown i).freeCtr = s.freeCtr := by unfold State.checkTeardown; simp only; split_ifs <;> rfl

/-! ### addCause -/

@[simp] theorem State.addCause_pending (s : State) (c : Cause) : (s.addCause c).pending = s.pending := by unfold State.addCause; simp only; split_ifs <;> rfl
@[simp] theorem State.addCause_inReset (s : State) (c : Cause) : (s.addCause c).inReset = s.inReset := by unfold State.addCause; simp only; split_ifs <;> rfl
@[simp] theorem State.addCause_timeBase (s : State) (c : Cause) : (s.addCause c).timeBase = s.timeBase := by unfold State.addCause; simp only; split_ifs <;> rfl
@[simp] theorem State.addCause_rx (s : State) (c : Cause) : (s.addCause c).rx = s.rx := by unfold State.addCause; simp only; split_ifs <;> rfl
@[simp] theorem State.addCause_tx (s : State) (c : Cause) : (s.addCause c).tx = s.tx := by unfold State.addCause; simp only; split_ifs <;> rfl
@[simp] theorem State.addCause_radio (s : State) (c : Cause) : (s.addCause c).radio = s.radio := by unfold State.addCause; simp only; split_ifs <;> rfl
@[simp] theorem State.addCause_adm (s : State) (c : Cause) : (s.addCause c).adm = s.adm := by unfold State.addCause; simp only; split_ifs <;> rfl
@[simp] theorem State.addCause_bm (s : State) (c : Cause) : (s.addCause c).bm = s.bm := by unfold State.addCause; simp only; split_ifs <;> rfl
@[simp] theorem State.addCause_stations (s : State) (c : Cause) : (s.addCause c).stations = s.stations := by unfold State.addCause; simp only; split_ifs <;> rfl
@[simp] theorem State.addCause_feeder (s : State) (c : Cause) : (s.addCause c).feeder = s.feeder := by unfold State.addCause; simp only; split_ifs <;> rfl
@[simp] theorem State.addCause_uplink (s : State) (c : Cause) : (s.addCause c).uplink = s.uplink := by unfold State.addCause; simp only; split_ifs <;> rfl
@[simp] theorem State.addCause_purge (s : State) (c : Cause) : (s.addCause c).purge = s.purge := by unfold State.addCause; simp only; split_ifs <;> rfl
@[simp] theorem State.addCause_disposal (s : State) (c : Cause) : (s.addCause c).disposal = s.disposal := by unfold State.addCause; simp only; split_ifs <;> rfl
@[simp] theorem State.addCause_rp (s : State) (c : Cause) : (s.addCause c).rp = s.rp := by unfold State.addCause; simp only; split_ifs <;> rfl
@[simp] theorem State.addCause_faultClaims (s : State) (c : Cause) : (s.addCause c).faultClaims = s.faultClaims := by unfold State.addCause; simp only; split_ifs <;> rfl
@[simp] theorem State.addCause_ctr (s : State) (c : Cause) : (s.addCause c).ctr = s.ctr := by unfold State.addCause; simp only; split_ifs <;> rfl
@[simp] theorem State.addCause_freeCtr (s : State) (c : Cause) : (s.addCause c).freeCtr = s.freeCtr := by unfold State.addCause; simp only; split_ifs <;> rfl
@[simp] theorem State.addCause_sched_liveClass (s : State) (c : Cause) : (s.addCause c).sched.liveClass = s.sched.liveClass := by unfold State.addCause; simp only; split_ifs <;> rfl
@[simp] theorem State.addCause_sched_shadowClass (s : State) (c : Cause) : (s.addCause c).sched.shadowClass = s.sched.shadowClass := by unfold State.addCause; simp only; split_ifs <;> rfl
@[simp] theorem State.addCause_sched_liveRate (s : State) (c : Cause) : (s.addCause c).sched.liveRate = s.sched.liveRate := by unfold State.addCause; simp only; split_ifs <;> rfl
@[simp] theorem State.addCause_sched_shadowRate (s : State) (c : Cause) : (s.addCause c).sched.shadowRate = s.sched.shadowRate := by unfold State.addCause; simp only; split_ifs <;> rfl
@[simp] theorem State.addCause_sched_entryList (s : State) (c : Cause) : (s.addCause c).sched.entryList = s.sched.entryList := by unfold State.addCause; simp only; split_ifs <;> rfl
@[simp] theorem State.addCause_sched_roundList (s : State) (c : Cause) : (s.addCause c).sched.roundList = s.sched.roundList := by unfold State.addCause; simp only; split_ifs <;> rfl
@[simp] theorem State.addCause_sched_pollQueue (s : State) (c : Cause) : (s.addCause c).sched.pollQueue = s.sched.pollQueue := by unfold State.addCause; simp only; split_ifs <;> rfl
@[simp] theorem State.addCause_sched_slots (s : State) (c : Cause) : (s.addCause c).sched.slots = s.sched.slots := by unfold State.addCause; simp only; split_ifs <;> rfl
@[simp] theorem State.addCause_sched_serial (s : State) (c : Cause) : (s.addCause c).sched.serial = s.sched.serial := by unfold State.addCause; simp only; split_ifs <;> rfl
@[simp] theorem State.addCause_sched_candidate (s : State) (c : Cause) : (s.addCause c).sched.candidate = s.sched.candidate := by unfold State.addCause; simp only; split_ifs <;> rfl

/-! ### removeCause -/

@[simp] theorem State.removeCause_pending (s : State) (c : Cause) : (s.removeCause c).pending = s.pending := by unfold State.removeCause; simp only; split_ifs <;> rfl
@[simp] theorem State.removeCause_inReset (s : State) (c : Cause) : (s.removeCause c).inReset = s.inReset := by unfold State.removeCause; simp only; split_ifs <;> rfl
@[simp] theorem State.removeCause_timeBase (s : State) (c : Cause) : (s.removeCause c).timeBase = s.timeBase := by unfold State.removeCause; simp only; split_ifs <;> rfl
@[simp] theorem State.removeCause_rx (s : State) (c : Cause) : (s.removeCause c).rx = s.rx := by unfold State.removeCause; simp only; split_ifs <;> rfl
@[simp] theorem State.removeCause_tx (s : State) (c : Cause) : (s.removeCause c).tx = s.tx := by unfold State.removeCause; simp only; split_ifs <;> rfl
@[simp] theorem State.removeCause_radio (s : State) (c : Cause) : (s.removeCause c).radio = s.radio := by unfold State.removeCause; simp only; split_ifs <;> rfl
@[simp] theorem State.removeCause_adm (s : State) (c : Cause) : (s.removeCause c).adm = s.adm := by unfold State.removeCause; simp only; split_ifs <;> rfl
@[simp] theorem State.removeCause_bm (s : State) (c : Cause) : (s.removeCause c).bm = s.bm := by unfold State.removeCause; simp only; split_ifs <;> rfl
@[simp] theorem State.removeCause_stations (s : State) (c : Cause) : (s.removeCause c).stations = s.stations := by unfold State.removeCause; simp only; split_ifs <;> rfl
@[simp] theorem State.removeCause_feeder (s : State) (c : Cause) : (s.removeCause c).feeder = s.feeder := by unfold State.removeCause; simp only; split_ifs <;> rfl
@[simp] theorem State.removeCause_uplink (s : State) (c : Cause) : (s.removeCause c).uplink = s.uplink := by unfold State.removeCause; simp only; split_ifs <;> rfl
@[simp] theorem State.removeCause_purge (s : State) (c : Cause) : (s.removeCause c).purge = s.purge := by unfold State.removeCause; simp only; split_ifs <;> rfl
@[simp] theorem State.removeCause_disposal (s : State) (c : Cause) : (s.removeCause c).disposal = s.disposal := by unfold State.removeCause; simp only; split_ifs <;> rfl
@[simp] theorem State.removeCause_rp (s : State) (c : Cause) : (s.removeCause c).rp = s.rp := by unfold State.removeCause; simp only; split_ifs <;> rfl
@[simp] theorem State.removeCause_faultClaims (s : State) (c : Cause) : (s.removeCause c).faultClaims = s.faultClaims := by unfold State.removeCause; simp only; split_ifs <;> rfl
@[simp] theorem State.removeCause_ctr (s : State) (c : Cause) : (s.removeCause c).ctr = s.ctr := by unfold State.removeCause; simp only; split_ifs <;> rfl
@[simp] theorem State.removeCause_freeCtr (s : State) (c : Cause) : (s.removeCause c).freeCtr = s.freeCtr := by unfold State.removeCause; simp only; split_ifs <;> rfl
@[simp] theorem State.removeCause_sched_liveClass (s : State) (c : Cause) : (s.removeCause c).sched.liveClass = s.sched.liveClass := by unfold State.removeCause; simp only; split_ifs <;> rfl
@[simp] theorem State.removeCause_sched_shadowClass (s : State) (c : Cause) : (s.removeCause c).sched.shadowClass = s.sched.shadowClass := by unfold State.removeCause; simp only; split_ifs <;> rfl
@[simp] theorem State.removeCause_sched_liveRate (s : State) (c : Cause) : (s.removeCause c).sched.liveRate = s.sched.liveRate := by unfold State.removeCause; simp only; split_ifs <;> rfl
@[simp] theorem State.removeCause_sched_shadowRate (s : State) (c : Cause) : (s.removeCause c).sched.shadowRate = s.sched.shadowRate := by unfold State.removeCause; simp only; split_ifs <;> rfl
@[simp] theorem State.removeCause_sched_entryList (s : State) (c : Cause) : (s.removeCause c).sched.entryList = s.sched.entryList := by unfold State.removeCause; simp only; split_ifs <;> rfl
@[simp] theorem State.removeCause_sched_roundList (s : State) (c : Cause) : (s.removeCause c).sched.roundList = s.sched.roundList := by unfold State.removeCause; simp only; split_ifs <;> rfl
@[simp] theorem State.removeCause_sched_pollQueue (s : State) (c : Cause) : (s.removeCause c).sched.pollQueue = s.sched.pollQueue := by unfold State.removeCause; simp only; split_ifs <;> rfl
@[simp] theorem State.removeCause_sched_slots (s : State) (c : Cause) : (s.removeCause c).sched.slots = s.sched.slots := by unfold State.removeCause; simp only; split_ifs <;> rfl
@[simp] theorem State.removeCause_sched_serial (s : State) (c : Cause) : (s.removeCause c).sched.serial = s.sched.serial := by unfold State.removeCause; simp only; split_ifs <;> rfl
@[simp] theorem State.removeCause_sched_candidate (s : State) (c : Cause) : (s.removeCause c).sched.candidate = s.sched.candidate := by unfold State.removeCause; simp only; split_ifs <;> rfl

/-! ### escalate -/

@[simp] theorem State.escalate_pending (s : State) (i : Nat) : (s.escalate i).pending = s.pending := by unfold State.escalate; simp only; split_ifs <;> simp
@[simp] theorem State.escalate_inReset (s : State) (i : Nat) : (s.escalate i).inReset = s.inReset := by unfold State.escalate; simp only; split_ifs <;> simp
@[simp] theorem State.escalate_timeBase (s : State) (i : Nat) : (s.escalate i).timeBase = s.timeBase := by unfold State.escalate; simp only; split_ifs <;> simp
@[simp] theorem State.escalate_rx (s : State) (i : Nat) : (s.escalate i).rx = s.rx := by unfold State.escalate; simp only; split_ifs <;> simp
@[simp] theorem State.escalate_tx (s : State) (i : Nat) : (s.escalate i).tx = s.tx := by unfold State.escalate; simp only; split_ifs <;> simp
@[simp] theorem State.escalate_radio (s : State) (i : Nat) : (s.escalate i).radio = s.radio := by unfold State.escalate; simp only; split_ifs <;> simp
@[simp] theorem State.escalate_adm (s : State) (i : Nat) : (s.escalate i).adm = s.adm := by unfold State.escalate; simp only; split_ifs <;> simp
@[simp] theorem State.escalate_bm (s : State) (i : Nat) : (s.escalate i).bm = s.bm := by unfold State.escalate; simp only; split_ifs <;> simp
@[simp] theorem State.escalate_feeder (s : State) (i : Nat) : (s.escalate i).feeder = s.feeder := by unfold State.escalate; simp only; split_ifs <;> simp
@[simp] theorem State.escalate_uplink (s : State) (i : Nat) : (s.escalate i).uplink = s.uplink := by unfold State.escalate; simp only; split_ifs <;> simp
@[simp] theorem State.escalate_sweep (s : State) (i : Nat) : (s.escalate i).sweep = s.sweep := by unfold State.escalate; simp only; split_ifs <;> simp
@[simp] theorem State.escalate_disposal (s : State) (i : Nat) : (s.escalate i).disposal = s.disposal := by unfold State.escalate; simp only; split_ifs <;> simp
@[simp] theorem State.escalate_rp (s : State) (i : Nat) : (s.escalate i).rp = s.rp := by unfold State.escalate; simp only; split_ifs <;> simp
@[simp] theorem State.escalate_faultClaims (s : State) (i : Nat) : (s.escalate i).faultClaims = s.faultClaims := by unfold State.escalate; simp only; split_ifs <;> simp
@[simp] theorem State.escalate_ctr (s : State) (i : Nat) : (s.escalate i).ctr = s.ctr := by unfold State.escalate; simp only; split_ifs <;> simp
@[simp] theorem State.escalate_freeCtr (s : State) (i : Nat) : (s.escalate i).freeCtr = s.freeCtr := by unfold State.escalate; simp only; split_ifs <;> simp
@[simp] theorem State.escalate_sched_liveClass (s : State) (i : Nat) : (s.escalate i).sched.liveClass = s.sched.liveClass := by unfold State.escalate; simp only; split_ifs <;> simp
@[simp] theorem State.escalate_sched_shadowClass (s : State) (i : Nat) : (s.escalate i).sched.shadowClass = s.sched.shadowClass := by unfold State.escalate; simp only; split_ifs <;> simp
@[simp] theorem State.escalate_sched_liveRate (s : State) (i : Nat) : (s.escalate i).sched.liveRate = s.sched.liveRate := by unfold State.escalate; simp only; split_ifs <;> simp
@[simp] theorem State.escalate_sched_shadowRate (s : State) (i : Nat) : (s.escalate i).sched.shadowRate = s.sched.shadowRate := by unfold State.escalate; simp only; split_ifs <;> simp
@[simp] theorem State.escalate_sched_slots (s : State) (i : Nat) : (s.escalate i).sched.slots = s.sched.slots := by unfold State.escalate; simp only; split_ifs <;> simp
@[simp] theorem State.escalate_sched_serial (s : State) (i : Nat) : (s.escalate i).sched.serial = s.sched.serial := by unfold State.escalate; simp only; split_ifs <;> simp
@[simp] theorem State.escalate_sched_candidate (s : State) (i : Nat) : (s.escalate i).sched.candidate = s.sched.candidate := by unfold State.escalate; simp only; split_ifs <;> simp

/-! ### takeClaim -/

@[simp] theorem State.takeClaim_pending (s : State) (c : FaultClaim) : (s.takeClaim c).pending = s.pending := by unfold State.takeClaim; split_ifs <;> simp
@[simp] theorem State.takeClaim_inReset (s : State) (c : FaultClaim) : (s.takeClaim c).inReset = s.inReset := by unfold State.takeClaim; split_ifs <;> simp
@[simp] theorem State.takeClaim_timeBase (s : State) (c : FaultClaim) : (s.takeClaim c).timeBase = s.timeBase := by unfold State.takeClaim; split_ifs <;> simp
@[simp] theorem State.takeClaim_rx (s : State) (c : FaultClaim) : (s.takeClaim c).rx = s.rx := by unfold State.takeClaim; split_ifs <;> simp
@[simp] theorem State.takeClaim_tx (s : State) (c : FaultClaim) : (s.takeClaim c).tx = s.tx := by unfold State.takeClaim; split_ifs <;> simp
@[simp] theorem State.takeClaim_radio (s : State) (c : FaultClaim) : (s.takeClaim c).radio = s.radio := by unfold State.takeClaim; split_ifs <;> simp
@[simp] theorem State.takeClaim_adm (s : State) (c : FaultClaim) : (s.takeClaim c).adm = s.adm := by unfold State.takeClaim; split_ifs <;> simp
@[simp] theorem State.takeClaim_bm (s : State) (c : FaultClaim) : (s.takeClaim c).bm = s.bm := by unfold State.takeClaim; split_ifs <;> simp
@[simp] theorem State.takeClaim_feeder (s : State) (c : FaultClaim) : (s.takeClaim c).feeder = s.feeder := by unfold State.takeClaim; split_ifs <;> simp
@[simp] theorem State.takeClaim_uplink (s : State) (c : FaultClaim) : (s.takeClaim c).uplink = s.uplink := by unfold State.takeClaim; split_ifs <;> simp
@[simp] theorem State.takeClaim_sweep (s : State) (c : FaultClaim) : (s.takeClaim c).sweep = s.sweep := by unfold State.takeClaim; split_ifs <;> simp
@[simp] theorem State.takeClaim_disposal (s : State) (c : FaultClaim) : (s.takeClaim c).disposal = s.disposal := by unfold State.takeClaim; split_ifs <;> simp
@[simp] theorem State.takeClaim_rp (s : State) (c : FaultClaim) : (s.takeClaim c).rp = s.rp := by unfold State.takeClaim; split_ifs <;> simp
@[simp] theorem State.takeClaim_faultClaims (s : State) (c : FaultClaim) : (s.takeClaim c).faultClaims = s.faultClaims := by unfold State.takeClaim; split_ifs <;> simp
@[simp] theorem State.takeClaim_ctr (s : State) (c : FaultClaim) : (s.takeClaim c).ctr = s.ctr := by unfold State.takeClaim; split_ifs <;> simp
@[simp] theorem State.takeClaim_freeCtr (s : State) (c : FaultClaim) : (s.takeClaim c).freeCtr = s.freeCtr := by unfold State.takeClaim; split_ifs <;> simp
@[simp] theorem State.takeClaim_sched_liveClass (s : State) (c : FaultClaim) : (s.takeClaim c).sched.liveClass = s.sched.liveClass := by unfold State.takeClaim; split_ifs <;> simp
@[simp] theorem State.takeClaim_sched_shadowClass (s : State) (c : FaultClaim) : (s.takeClaim c).sched.shadowClass = s.sched.shadowClass := by unfold State.takeClaim; split_ifs <;> simp
@[simp] theorem State.takeClaim_sched_liveRate (s : State) (c : FaultClaim) : (s.takeClaim c).sched.liveRate = s.sched.liveRate := by unfold State.takeClaim; split_ifs <;> simp
@[simp] theorem State.takeClaim_sched_shadowRate (s : State) (c : FaultClaim) : (s.takeClaim c).sched.shadowRate = s.sched.shadowRate := by unfold State.takeClaim; split_ifs <;> simp
@[simp] theorem State.takeClaim_sched_slots (s : State) (c : FaultClaim) : (s.takeClaim c).sched.slots = s.sched.slots := by unfold State.takeClaim; split_ifs <;> simp
@[simp] theorem State.takeClaim_sched_serial (s : State) (c : FaultClaim) : (s.takeClaim c).sched.serial = s.sched.serial := by unfold State.takeClaim; split_ifs <;> simp
@[simp] theorem State.takeClaim_sched_candidate (s : State) (c : FaultClaim) : (s.takeClaim c).sched.candidate = s.sched.candidate := by unfold State.takeClaim; split_ifs <;> simp

/-! ### release -/

@[simp] theorem State.release_pending (s : State) (i d : Nat) (reason : Reason) : (s.release i d reason).pending = s.pending := by
  unfold State.release; simp only; split_ifs
  · simp
  · split <;> simp
@[simp] theorem State.release_inReset (s : State) (i d : Nat) (reason : Reason) : (s.release i d reason).inReset = s.inReset := by
  unfold State.release; simp only; split_ifs
  · simp
  · split <;> simp
@[simp] theorem State.release_timeBase (s : State) (i d : Nat) (reason : Reason) : (s.release i d reason).timeBase = s.timeBase := by
  unfold State.release; simp only; split_ifs
  · simp
  · split <;> simp
@[simp] theorem State.release_rx (s : State) (i d : Nat) (reason : Reason) : (s.release i d reason).rx = s.rx := by
  unfold State.release; simp only; split_ifs
  · simp
  · split <;> simp
@[simp] theorem State.release_tx (s : State) (i d : Nat) (reason : Reason) : (s.release i d reason).tx = s.tx := by
  unfold State.release; simp only; split_ifs
  · simp
  · split <;> simp
@[simp] theorem State.release_radio (s : State) (i d : Nat) (reason : Reason) : (s.release i d reason).radio = s.radio := by
  unfold State.release; simp only; split_ifs
  · simp
  · split <;> simp
@[simp] theorem State.release_adm (s : State) (i d : Nat) (reason : Reason) : (s.release i d reason).adm = s.adm := by
  unfold State.release; simp only; split_ifs
  · simp
  · split <;> simp
@[simp] theorem State.release_feeder (s : State) (i d : Nat) (reason : Reason) : (s.release i d reason).feeder = s.feeder := by
  unfold State.release; simp only; split_ifs
  · simp
  · split <;> simp
@[simp] theorem State.release_uplink (s : State) (i d : Nat) (reason : Reason) : (s.release i d reason).uplink = s.uplink := by
  unfold State.release; simp only; split_ifs
  · simp
  · split <;> simp
@[simp] theorem State.release_purge (s : State) (i d : Nat) (reason : Reason) : (s.release i d reason).purge = s.purge := by
  unfold State.release; simp only; split_ifs
  · simp
  · split <;> simp
@[simp] theorem State.release_rp (s : State) (i d : Nat) (reason : Reason) : (s.release i d reason).rp = s.rp := by
  unfold State.release; simp only; split_ifs
  · simp
  · split <;> simp
@[simp] theorem State.release_freeCtr (s : State) (i d : Nat) (reason : Reason) : (s.release i d reason).freeCtr = s.freeCtr := by
  unfold State.release; simp only; split_ifs
  · simp
  · split <;> simp
@[simp] theorem State.release_sched_causes (s : State) (i d : Nat) (reason : Reason) : (s.release i d reason).sched.causes = s.sched.causes := by
  unfold State.release; simp only; split_ifs
  · simp
  · split <;> simp
@[simp] theorem State.release_sched_liveClass (s : State) (i d : Nat) (reason : Reason) : (s.release i d reason).sched.liveClass = s.sched.liveClass := by
  unfold State.release; simp only; split_ifs
  · simp
  · split <;> simp
@[simp] theorem State.release_sched_shadowClass (s : State) (i d : Nat) (reason : Reason) : (s.release i d reason).sched.shadowClass = s.sched.shadowClass := by
  unfold State.release; simp only; split_ifs
  · simp
  · split <;> simp
@[simp] theorem State.release_sched_liveRate (s : State) (i d : Nat) (reason : Reason) : (s.release i d reason).sched.liveRate = s.sched.liveRate := by
  unfold State.release; simp only; split_ifs
  · simp
  · split <;> simp
@[simp] theorem State.release_sched_shadowRate (s : State) (i d : Nat) (reason : Reason) : (s.release i d reason).sched.shadowRate = s.sched.shadowRate := by
  unfold State.release; simp only; split_ifs
  · simp
  · split <;> simp
@[simp] theorem State.release_sched_entryList (s : State) (i d : Nat) (reason : Reason) : (s.release i d reason).sched.entryList = s.sched.entryList := by
  unfold State.release; simp only; split_ifs
  · simp
  · split <;> simp
@[simp] theorem State.release_sched_roundList (s : State) (i d : Nat) (reason : Reason) : (s.release i d reason).sched.roundList = s.sched.roundList := by
  unfold State.release; simp only; split_ifs
  · simp
  · split <;> simp
@[simp] theorem State.release_sched_pollQueue (s : State) (i d : Nat) (reason : Reason) : (s.release i d reason).sched.pollQueue = s.sched.pollQueue := by
  unfold State.release; simp only; split_ifs
  · simp
  · split <;> simp
@[simp] theorem State.release_sched_slots (s : State) (i d : Nat) (reason : Reason) : (s.release i d reason).sched.slots = s.sched.slots := by
  unfold State.release; simp only; split_ifs
  · simp
  · split <;> simp
@[simp] theorem State.release_sched_serial (s : State) (i d : Nat) (reason : Reason) : (s.release i d reason).sched.serial = s.sched.serial := by
  unfold State.release; simp only; split_ifs
  · simp
  · split <;> simp
@[simp] theorem State.release_sched_candidate (s : State) (i d : Nat) (reason : Reason) : (s.release i d reason).sched.candidate = s.sched.candidate := by
  unfold State.release; simp only; split_ifs
  · simp
  · split <;> simp
@[simp] theorem State.release_bm_freeDescs (s : State) (i d : Nat) (reason : Reason) : (s.release i d reason).bm.freeDescs = s.bm.freeDescs := by
  unfold State.release; simp only; split_ifs
  · simp [BufferManager.setDesc]
  · have e := BufferManager.releaseWalk_eq s.bm d
    split
    next b h => rw [h] at e; simp only at e; simp [State.withPools_bm, BufferManager.evaluateFrom, BufferManager.setDesc]; rw [e]
    next f b h => rw [h] at e; simp only at e; simp [State.withPools_bm, BufferManager.evaluateFrom, BufferManager.setDesc]; rw [e]
@[simp] theorem State.release_bm_scan (s : State) (i d : Nat) (reason : Reason) : (s.release i d reason).bm.scan = s.bm.scan := by
  unfold State.release; simp only; split_ifs
  · simp [BufferManager.setDesc]
  · have e := BufferManager.releaseWalk_eq s.bm d
    split
    next b h => rw [h] at e; simp only at e; simp [State.withPools_bm, BufferManager.evaluateFrom, BufferManager.setDesc]; rw [e]
    next f b h => rw [h] at e; simp only at e; simp [State.withPools_bm, BufferManager.evaluateFrom, BufferManager.setDesc]; rw [e]
@[simp] theorem State.release_bm_selfTestResult (s : State) (i d : Nat) (reason : Reason) : (s.release i d reason).bm.selfTestResult = s.bm.selfTestResult := by
  unfold State.release; simp only; split_ifs
  · simp [BufferManager.setDesc]
  · have e := BufferManager.releaseWalk_eq s.bm d
    split
    next b h => rw [h] at e; simp only at e; simp [State.withPools_bm, BufferManager.evaluateFrom, BufferManager.setDesc]; rw [e]
    next f b h => rw [h] at e; simp only at e; simp [State.withPools_bm, BufferManager.evaluateFrom, BufferManager.setDesc]; rw [e]
@[simp] theorem State.release_bm_mem (s : State) (i d : Nat) (reason : Reason) : (s.release i d reason).bm.mem = s.bm.mem := by
  unfold State.release; simp only; split_ifs
  · simp [BufferManager.setDesc]
  · have e := BufferManager.releaseWalk_eq s.bm d
    split
    next b h => rw [h] at e; simp only at e; simp [State.withPools_bm, BufferManager.evaluateFrom, BufferManager.setDesc]; rw [e]
    next f b h => rw [h] at e; simp only at e; simp [State.withPools_bm, BufferManager.evaluateFrom, BufferManager.setDesc]; rw [e]
@[simp] theorem State.release_bm_ecc (s : State) (i d : Nat) (reason : Reason) : (s.release i d reason).bm.ecc = s.bm.ecc := by
  unfold State.release; simp only; split_ifs
  · simp [BufferManager.setDesc]
  · have e := BufferManager.releaseWalk_eq s.bm d
    split
    next b h => rw [h] at e; simp only at e; simp [State.withPools_bm, BufferManager.evaluateFrom, BufferManager.setDesc]; rw [e]
    next f b h => rw [h] at e; simp only at e; simp [State.withPools_bm, BufferManager.evaluateFrom, BufferManager.setDesc]; rw [e]

/-! ### endStream -/

@[simp] theorem State.endStream_pending (s : State) (e : StreamEnd) : (s.endStream e).pending = s.pending := by
  unfold State.endStream; split
  · rfl
  · simp only; split <;> rfl
@[simp] theorem State.endStream_inReset (s : State) (e : StreamEnd) : (s.endStream e).inReset = s.inReset := by
  unfold State.endStream; split
  · rfl
  · simp only; split <;> rfl
@[simp] theorem State.endStream_timeBase (s : State) (e : StreamEnd) : (s.endStream e).timeBase = s.timeBase := by
  unfold State.endStream; split
  · rfl
  · simp only; split <;> rfl
@[simp] theorem State.endStream_rx (s : State) (e : StreamEnd) : (s.endStream e).rx = s.rx := by
  unfold State.endStream; split
  · rfl
  · simp only; split <;> rfl
@[simp] theorem State.endStream_tx (s : State) (e : StreamEnd) : (s.endStream e).tx = s.tx := by
  unfold State.endStream; split
  · rfl
  · simp only; split <;> rfl
@[simp] theorem State.endStream_adm (s : State) (e : StreamEnd) : (s.endStream e).adm = s.adm := by
  unfold State.endStream; split
  · rfl
  · simp only; split <;> rfl
@[simp] theorem State.endStream_bm (s : State) (e : StreamEnd) : (s.endStream e).bm = s.bm := by
  unfold State.endStream; split
  · rfl
  · simp only; split <;> rfl
@[simp] theorem State.endStream_stations (s : State) (e : StreamEnd) : (s.endStream e).stations = s.stations := by
  unfold State.endStream; split
  · rfl
  · simp only; split <;> rfl
@[simp] theorem State.endStream_uplink (s : State) (e : StreamEnd) : (s.endStream e).uplink = s.uplink := by
  unfold State.endStream; split
  · rfl
  · simp only; split <;> rfl
@[simp] theorem State.endStream_sweep (s : State) (e : StreamEnd) : (s.endStream e).sweep = s.sweep := by
  unfold State.endStream; split
  · rfl
  · simp only; split <;> rfl
@[simp] theorem State.endStream_purge (s : State) (e : StreamEnd) : (s.endStream e).purge = s.purge := by
  unfold State.endStream; split
  · rfl
  · simp only; split <;> rfl
@[simp] theorem State.endStream_disposal (s : State) (e : StreamEnd) : (s.endStream e).disposal = s.disposal := by
  unfold State.endStream; split
  · rfl
  · simp only; split <;> rfl
@[simp] theorem State.endStream_rp (s : State) (e : StreamEnd) : (s.endStream e).rp = s.rp := by
  unfold State.endStream; split
  · rfl
  · simp only; split <;> rfl
@[simp] theorem State.endStream_events (s : State) (e : StreamEnd) : (s.endStream e).events = s.events := by
  unfold State.endStream; split
  · rfl
  · simp only; split <;> rfl
@[simp] theorem State.endStream_faultClaims (s : State) (e : StreamEnd) : (s.endStream e).faultClaims = s.faultClaims := by
  unfold State.endStream; split
  · rfl
  · simp only; split <;> rfl
@[simp] theorem State.endStream_ctr (s : State) (e : StreamEnd) : (s.endStream e).ctr = s.ctr := by
  unfold State.endStream; split
  · rfl
  · simp only; split <;> rfl
@[simp] theorem State.endStream_freeCtr (s : State) (e : StreamEnd) : (s.endStream e).freeCtr = s.freeCtr := by
  unfold State.endStream; split
  · rfl
  · simp only; split <;> rfl
@[simp] theorem State.endStream_sched_state (s : State) (e : StreamEnd) : (s.endStream e).sched.state = s.sched.state := by
  unfold State.endStream; split
  · rfl
  · simp only; split <;> rfl
@[simp] theorem State.endStream_sched_causes (s : State) (e : StreamEnd) : (s.endStream e).sched.causes = s.sched.causes := by
  unfold State.endStream; split
  · rfl
  · simp only; split <;> rfl
@[simp] theorem State.endStream_sched_liveClass (s : State) (e : StreamEnd) : (s.endStream e).sched.liveClass = s.sched.liveClass := by
  unfold State.endStream; split
  · rfl
  · simp only; split <;> rfl
@[simp] theorem State.endStream_sched_shadowClass (s : State) (e : StreamEnd) : (s.endStream e).sched.shadowClass = s.sched.shadowClass := by
  unfold State.endStream; split
  · rfl
  · simp only; split <;> rfl
@[simp] theorem State.endStream_sched_liveRate (s : State) (e : StreamEnd) : (s.endStream e).sched.liveRate = s.sched.liveRate := by
  unfold State.endStream; split
  · rfl
  · simp only; split <;> rfl
@[simp] theorem State.endStream_sched_shadowRate (s : State) (e : StreamEnd) : (s.endStream e).sched.shadowRate = s.sched.shadowRate := by
  unfold State.endStream; split
  · rfl
  · simp only; split <;> rfl
@[simp] theorem State.endStream_sched_entryList (s : State) (e : StreamEnd) : (s.endStream e).sched.entryList = s.sched.entryList := by
  unfold State.endStream; split
  · rfl
  · simp only; split <;> rfl
@[simp] theorem State.endStream_sched_roundList (s : State) (e : StreamEnd) : (s.endStream e).sched.roundList = s.sched.roundList := by
  unfold State.endStream; split
  · rfl
  · simp only; split <;> rfl
@[simp] theorem State.endStream_sched_pollQueue (s : State) (e : StreamEnd) : (s.endStream e).sched.pollQueue = s.sched.pollQueue := by
  unfold State.endStream; split
  · rfl
  · simp only; split <;> rfl
@[simp] theorem State.endStream_sched_serial (s : State) (e : StreamEnd) : (s.endStream e).sched.serial = s.sched.serial := by
  unfold State.endStream; split
  · rfl
  · simp only; split <;> rfl
@[simp] theorem State.endStream_sched_candidate (s : State) (e : StreamEnd) : (s.endStream e).sched.candidate = s.sched.candidate := by
  unfold State.endStream; split
  · rfl
  · simp only; split <;> rfl

/-! ### closeSlot -/

@[simp] theorem State.closeSlot_pending (s : State) (k i : Nat) : (s.closeSlot k i).pending = s.pending := by simp [State.closeSlot]
@[simp] theorem State.closeSlot_inReset (s : State) (k i : Nat) : (s.closeSlot k i).inReset = s.inReset := by simp [State.closeSlot]
@[simp] theorem State.closeSlot_timeBase (s : State) (k i : Nat) : (s.closeSlot k i).timeBase = s.timeBase := by simp [State.closeSlot]
@[simp] theorem State.closeSlot_rx (s : State) (k i : Nat) : (s.closeSlot k i).rx = s.rx := by simp [State.closeSlot]
@[simp] theorem State.closeSlot_tx (s : State) (k i : Nat) : (s.closeSlot k i).tx = s.tx := by simp [State.closeSlot]
@[simp] theorem State.closeSlot_radio (s : State) (k i : Nat) : (s.closeSlot k i).radio = s.radio := by simp [State.closeSlot]
@[simp] theorem State.closeSlot_adm (s : State) (k i : Nat) : (s.closeSlot k i).adm = s.adm := by simp [State.closeSlot]
@[simp] theorem State.closeSlot_bm (s : State) (k i : Nat) : (s.closeSlot k i).bm = s.bm := by simp [State.closeSlot]
@[simp] theorem State.closeSlot_feeder (s : State) (k i : Nat) : (s.closeSlot k i).feeder = s.feeder := by simp [State.closeSlot]
@[simp] theorem State.closeSlot_uplink (s : State) (k i : Nat) : (s.closeSlot k i).uplink = s.uplink := by simp [State.closeSlot]
@[simp] theorem State.closeSlot_purge (s : State) (k i : Nat) : (s.closeSlot k i).purge = s.purge := by simp [State.closeSlot]
@[simp] theorem State.closeSlot_disposal (s : State) (k i : Nat) : (s.closeSlot k i).disposal = s.disposal := by simp [State.closeSlot]
@[simp] theorem State.closeSlot_rp (s : State) (k i : Nat) : (s.closeSlot k i).rp = s.rp := by simp [State.closeSlot]
@[simp] theorem State.closeSlot_faultClaims (s : State) (k i : Nat) : (s.closeSlot k i).faultClaims = s.faultClaims := by simp [State.closeSlot]
@[simp] theorem State.closeSlot_ctr (s : State) (k i : Nat) : (s.closeSlot k i).ctr = s.ctr := by simp [State.closeSlot]
@[simp] theorem State.closeSlot_freeCtr (s : State) (k i : Nat) : (s.closeSlot k i).freeCtr = s.freeCtr := by simp [State.closeSlot]
@[simp] theorem State.closeSlot_sched_liveClass (s : State) (k i : Nat) : (s.closeSlot k i).sched.liveClass = s.sched.liveClass := by simp [State.closeSlot]
@[simp] theorem State.closeSlot_sched_shadowClass (s : State) (k i : Nat) : (s.closeSlot k i).sched.shadowClass = s.sched.shadowClass := by simp [State.closeSlot]
@[simp] theorem State.closeSlot_sched_liveRate (s : State) (k i : Nat) : (s.closeSlot k i).sched.liveRate = s.sched.liveRate := by simp [State.closeSlot]
@[simp] theorem State.closeSlot_sched_shadowRate (s : State) (k i : Nat) : (s.closeSlot k i).sched.shadowRate = s.sched.shadowRate := by simp [State.closeSlot]
@[simp] theorem State.closeSlot_sched_pollQueue (s : State) (k i : Nat) : (s.closeSlot k i).sched.pollQueue = s.sched.pollQueue := by simp [State.closeSlot]
@[simp] theorem State.closeSlot_sched_serial (s : State) (k i : Nat) : (s.closeSlot k i).sched.serial = s.sched.serial := by simp [State.closeSlot]
@[simp] theorem State.closeSlot_sched_candidate (s : State) (k i : Nat) : (s.closeSlot k i).sched.candidate = s.sched.candidate := by simp [State.closeSlot]

/-! ### handOver -/

@[simp] theorem State.handOver_pending (s : State) : (s.handOver).pending = s.pending := by unfold State.handOver; split <;> rfl
@[simp] theorem State.handOver_inReset (s : State) : (s.handOver).inReset = s.inReset := by unfold State.handOver; split <;> rfl
@[simp] theorem State.handOver_timeBase (s : State) : (s.handOver).timeBase = s.timeBase := by unfold State.handOver; split <;> rfl
@[simp] theorem State.handOver_rx (s : State) : (s.handOver).rx = s.rx := by unfold State.handOver; split <;> rfl
@[simp] theorem State.handOver_radio (s : State) : (s.handOver).radio = s.radio := by unfold State.handOver; split <;> rfl
@[simp] theorem State.handOver_adm (s : State) : (s.handOver).adm = s.adm := by unfold State.handOver; split <;> rfl
@[simp] theorem State.handOver_bm (s : State) : (s.handOver).bm = s.bm := by unfold State.handOver; split <;> rfl
@[simp] theorem State.handOver_stations (s : State) : (s.handOver).stations = s.stations := by unfold State.handOver; split <;> rfl
@[simp] theorem State.handOver_sched (s : State) : (s.handOver).sched = s.sched := by unfold State.handOver; split <;> rfl
@[simp] theorem State.handOver_feeder (s : State) : (s.handOver).feeder = s.feeder := by unfold State.handOver; split <;> rfl
@[simp] theorem State.handOver_uplink (s : State) : (s.handOver).uplink = s.uplink := by unfold State.handOver; split <;> rfl
@[simp] theorem State.handOver_sweep (s : State) : (s.handOver).sweep = s.sweep := by unfold State.handOver; split <;> rfl
@[simp] theorem State.handOver_purge (s : State) : (s.handOver).purge = s.purge := by unfold State.handOver; split <;> rfl
@[simp] theorem State.handOver_disposal (s : State) : (s.handOver).disposal = s.disposal := by unfold State.handOver; split <;> rfl
@[simp] theorem State.handOver_events (s : State) : (s.handOver).events = s.events := by unfold State.handOver; split <;> rfl
@[simp] theorem State.handOver_faultClaims (s : State) : (s.handOver).faultClaims = s.faultClaims := by unfold State.handOver; split <;> rfl
@[simp] theorem State.handOver_ctr (s : State) : (s.handOver).ctr = s.ctr := by unfold State.handOver; split <;> rfl
@[simp] theorem State.handOver_freeCtr (s : State) : (s.handOver).freeCtr = s.freeCtr := by unfold State.handOver; split <;> rfl

/-! ### finish -/

@[simp] theorem State.finish_pending (s : State) (r : Response) (c : Option Cursor) : (s.finish r c).pending = s.pending := by simp [State.finish]
@[simp] theorem State.finish_inReset (s : State) (r : Response) (c : Option Cursor) : (s.finish r c).inReset = s.inReset := by simp [State.finish]
@[simp] theorem State.finish_timeBase (s : State) (r : Response) (c : Option Cursor) : (s.finish r c).timeBase = s.timeBase := by simp [State.finish]
@[simp] theorem State.finish_rx (s : State) (r : Response) (c : Option Cursor) : (s.finish r c).rx = s.rx := by simp [State.finish]
@[simp] theorem State.finish_radio (s : State) (r : Response) (c : Option Cursor) : (s.finish r c).radio = s.radio := by simp [State.finish]
@[simp] theorem State.finish_adm (s : State) (r : Response) (c : Option Cursor) : (s.finish r c).adm = s.adm := by simp [State.finish]
@[simp] theorem State.finish_bm (s : State) (r : Response) (c : Option Cursor) : (s.finish r c).bm = s.bm := by simp [State.finish]
@[simp] theorem State.finish_stations (s : State) (r : Response) (c : Option Cursor) : (s.finish r c).stations = s.stations := by simp [State.finish]
@[simp] theorem State.finish_sched (s : State) (r : Response) (c : Option Cursor) : (s.finish r c).sched = s.sched := by simp [State.finish]
@[simp] theorem State.finish_feeder (s : State) (r : Response) (c : Option Cursor) : (s.finish r c).feeder = s.feeder := by simp [State.finish]
@[simp] theorem State.finish_uplink (s : State) (r : Response) (c : Option Cursor) : (s.finish r c).uplink = s.uplink := by simp [State.finish]
@[simp] theorem State.finish_sweep (s : State) (r : Response) (c : Option Cursor) : (s.finish r c).sweep = s.sweep := by simp [State.finish]
@[simp] theorem State.finish_purge (s : State) (r : Response) (c : Option Cursor) : (s.finish r c).purge = s.purge := by simp [State.finish]
@[simp] theorem State.finish_disposal (s : State) (r : Response) (c : Option Cursor) : (s.finish r c).disposal = s.disposal := by simp [State.finish]
@[simp] theorem State.finish_events (s : State) (r : Response) (c : Option Cursor) : (s.finish r c).events = s.events := by simp [State.finish]
@[simp] theorem State.finish_faultClaims (s : State) (r : Response) (c : Option Cursor) : (s.finish r c).faultClaims = s.faultClaims := by simp [State.finish]
@[simp] theorem State.finish_ctr (s : State) (r : Response) (c : Option Cursor) : (s.finish r c).ctr = s.ctr := by simp [State.finish]
@[simp] theorem State.finish_freeCtr (s : State) (r : Response) (c : Option Cursor) : (s.finish r c).freeCtr = s.freeCtr := by simp [State.finish]

/-! ### releases -/

@[simp] theorem State.releases_pending (i : Nat) : ∀ (l : List (Nat × Reason)) (s : State),
    (s.releases i l).pending = s.pending
  | [], _ => rfl
  | (d, r) :: rest, s => by simp [State.releases, State.releases_pending i rest]
@[simp] theorem State.releases_inReset (i : Nat) : ∀ (l : List (Nat × Reason)) (s : State),
    (s.releases i l).inReset = s.inReset
  | [], _ => rfl
  | (d, r) :: rest, s => by simp [State.releases, State.releases_inReset i rest]
@[simp] theorem State.releases_timeBase (i : Nat) : ∀ (l : List (Nat × Reason)) (s : State),
    (s.releases i l).timeBase = s.timeBase
  | [], _ => rfl
  | (d, r) :: rest, s => by simp [State.releases, State.releases_timeBase i rest]
@[simp] theorem State.releases_rx (i : Nat) : ∀ (l : List (Nat × Reason)) (s : State),
    (s.releases i l).rx = s.rx
  | [], _ => rfl
  | (d, r) :: rest, s => by simp [State.releases, State.releases_rx i rest]
@[simp] theorem State.releases_tx (i : Nat) : ∀ (l : List (Nat × Reason)) (s : State),
    (s.releases i l).tx = s.tx
  | [], _ => rfl
  | (d, r) :: rest, s => by simp [State.releases, State.releases_tx i rest]
@[simp] theorem State.releases_radio (i : Nat) : ∀ (l : List (Nat × Reason)) (s : State),
    (s.releases i l).radio = s.radio
  | [], _ => rfl
  | (d, r) :: rest, s => by simp [State.releases, State.releases_radio i rest]
@[simp] theorem State.releases_adm (i : Nat) : ∀ (l : List (Nat × Reason)) (s : State),
    (s.releases i l).adm = s.adm
  | [], _ => rfl
  | (d, r) :: rest, s => by simp [State.releases, State.releases_adm i rest]
@[simp] theorem State.releases_feeder (i : Nat) : ∀ (l : List (Nat × Reason)) (s : State),
    (s.releases i l).feeder = s.feeder
  | [], _ => rfl
  | (d, r) :: rest, s => by simp [State.releases, State.releases_feeder i rest]
@[simp] theorem State.releases_uplink (i : Nat) : ∀ (l : List (Nat × Reason)) (s : State),
    (s.releases i l).uplink = s.uplink
  | [], _ => rfl
  | (d, r) :: rest, s => by simp [State.releases, State.releases_uplink i rest]
@[simp] theorem State.releases_purge (i : Nat) : ∀ (l : List (Nat × Reason)) (s : State),
    (s.releases i l).purge = s.purge
  | [], _ => rfl
  | (d, r) :: rest, s => by simp [State.releases, State.releases_purge i rest]
@[simp] theorem State.releases_rp (i : Nat) : ∀ (l : List (Nat × Reason)) (s : State),
    (s.releases i l).rp = s.rp
  | [], _ => rfl
  | (d, r) :: rest, s => by simp [State.releases, State.releases_rp i rest]
@[simp] theorem State.releases_freeCtr (i : Nat) : ∀ (l : List (Nat × Reason)) (s : State),
    (s.releases i l).freeCtr = s.freeCtr
  | [], _ => rfl
  | (d, r) :: rest, s => by simp [State.releases, State.releases_freeCtr i rest]
@[simp] theorem State.releases_sched_causes (i : Nat) : ∀ (l : List (Nat × Reason)) (s : State),
    (s.releases i l).sched.causes = s.sched.causes
  | [], _ => rfl
  | (d, r) :: rest, s => by simp [State.releases, State.releases_sched_causes i rest]
@[simp] theorem State.releases_sched_liveClass (i : Nat) : ∀ (l : List (Nat × Reason)) (s : State),
    (s.releases i l).sched.liveClass = s.sched.liveClass
  | [], _ => rfl
  | (d, r) :: rest, s => by simp [State.releases, State.releases_sched_liveClass i rest]
@[simp] theorem State.releases_sched_shadowClass (i : Nat) : ∀ (l : List (Nat × Reason)) (s : State),
    (s.releases i l).sched.shadowClass = s.sched.shadowClass
  | [], _ => rfl
  | (d, r) :: rest, s => by simp [State.releases, State.releases_sched_shadowClass i rest]
@[simp] theorem State.releases_sched_liveRate (i : Nat) : ∀ (l : List (Nat × Reason)) (s : State),
    (s.releases i l).sched.liveRate = s.sched.liveRate
  | [], _ => rfl
  | (d, r) :: rest, s => by simp [State.releases, State.releases_sched_liveRate i rest]
@[simp] theorem State.releases_sched_shadowRate (i : Nat) : ∀ (l : List (Nat × Reason)) (s : State),
    (s.releases i l).sched.shadowRate = s.sched.shadowRate
  | [], _ => rfl
  | (d, r) :: rest, s => by simp [State.releases, State.releases_sched_shadowRate i rest]
@[simp] theorem State.releases_sched_entryList (i : Nat) : ∀ (l : List (Nat × Reason)) (s : State),
    (s.releases i l).sched.entryList = s.sched.entryList
  | [], _ => rfl
  | (d, r) :: rest, s => by simp [State.releases, State.releases_sched_entryList i rest]
@[simp] theorem State.releases_sched_roundList (i : Nat) : ∀ (l : List (Nat × Reason)) (s : State),
    (s.releases i l).sched.roundList = s.sched.roundList
  | [], _ => rfl
  | (d, r) :: rest, s => by simp [State.releases, State.releases_sched_roundList i rest]
@[simp] theorem State.releases_sched_pollQueue (i : Nat) : ∀ (l : List (Nat × Reason)) (s : State),
    (s.releases i l).sched.pollQueue = s.sched.pollQueue
  | [], _ => rfl
  | (d, r) :: rest, s => by simp [State.releases, State.releases_sched_pollQueue i rest]
@[simp] theorem State.releases_sched_slots (i : Nat) : ∀ (l : List (Nat × Reason)) (s : State),
    (s.releases i l).sched.slots = s.sched.slots
  | [], _ => rfl
  | (d, r) :: rest, s => by simp [State.releases, State.releases_sched_slots i rest]
@[simp] theorem State.releases_sched_serial (i : Nat) : ∀ (l : List (Nat × Reason)) (s : State),
    (s.releases i l).sched.serial = s.sched.serial
  | [], _ => rfl
  | (d, r) :: rest, s => by simp [State.releases, State.releases_sched_serial i rest]
@[simp] theorem State.releases_sched_candidate (i : Nat) : ∀ (l : List (Nat × Reason)) (s : State),
    (s.releases i l).sched.candidate = s.sched.candidate
  | [], _ => rfl
  | (d, r) :: rest, s => by simp [State.releases, State.releases_sched_candidate i rest]
@[simp] theorem State.releases_bm_freeDescs (i : Nat) : ∀ (l : List (Nat × Reason)) (s : State),
    (s.releases i l).bm.freeDescs = s.bm.freeDescs
  | [], _ => rfl
  | (d, r) :: rest, s => by simp [State.releases, State.releases_bm_freeDescs i rest]
@[simp] theorem State.releases_bm_scan (i : Nat) : ∀ (l : List (Nat × Reason)) (s : State),
    (s.releases i l).bm.scan = s.bm.scan
  | [], _ => rfl
  | (d, r) :: rest, s => by simp [State.releases, State.releases_bm_scan i rest]
@[simp] theorem State.releases_bm_selfTestResult (i : Nat) : ∀ (l : List (Nat × Reason)) (s : State),
    (s.releases i l).bm.selfTestResult = s.bm.selfTestResult
  | [], _ => rfl
  | (d, r) :: rest, s => by simp [State.releases, State.releases_bm_selfTestResult i rest]
@[simp] theorem State.releases_bm_mem (i : Nat) : ∀ (l : List (Nat × Reason)) (s : State),
    (s.releases i l).bm.mem = s.bm.mem
  | [], _ => rfl
  | (d, r) :: rest, s => by simp [State.releases, State.releases_bm_mem i rest]
@[simp] theorem State.releases_bm_ecc (i : Nat) : ∀ (l : List (Nat × Reason)) (s : State),
    (s.releases i l).bm.ecc = s.bm.ecc
  | [], _ => rfl
  | (d, r) :: rest, s => by simp [State.releases, State.releases_bm_ecc i rest]

/-! ### queueAgain -/

@[simp] theorem State.queueAgain_pending : ∀ (l : List Nat) (s : State), (s.queueAgain l).pending = s.pending
  | [], _ => rfl
  | d :: rest, s => by simp [State.queueAgain, State.queueAgain_pending rest]
@[simp] theorem State.queueAgain_inReset : ∀ (l : List Nat) (s : State), (s.queueAgain l).inReset = s.inReset
  | [], _ => rfl
  | d :: rest, s => by simp [State.queueAgain, State.queueAgain_inReset rest]
@[simp] theorem State.queueAgain_timeBase : ∀ (l : List Nat) (s : State), (s.queueAgain l).timeBase = s.timeBase
  | [], _ => rfl
  | d :: rest, s => by simp [State.queueAgain, State.queueAgain_timeBase rest]
@[simp] theorem State.queueAgain_rx : ∀ (l : List Nat) (s : State), (s.queueAgain l).rx = s.rx
  | [], _ => rfl
  | d :: rest, s => by simp [State.queueAgain, State.queueAgain_rx rest]
@[simp] theorem State.queueAgain_tx : ∀ (l : List Nat) (s : State), (s.queueAgain l).tx = s.tx
  | [], _ => rfl
  | d :: rest, s => by simp [State.queueAgain, State.queueAgain_tx rest]
@[simp] theorem State.queueAgain_radio : ∀ (l : List Nat) (s : State), (s.queueAgain l).radio = s.radio
  | [], _ => rfl
  | d :: rest, s => by simp [State.queueAgain, State.queueAgain_radio rest]
@[simp] theorem State.queueAgain_adm : ∀ (l : List Nat) (s : State), (s.queueAgain l).adm = s.adm
  | [], _ => rfl
  | d :: rest, s => by simp [State.queueAgain, State.queueAgain_adm rest]
@[simp] theorem State.queueAgain_stations : ∀ (l : List Nat) (s : State), (s.queueAgain l).stations = s.stations
  | [], _ => rfl
  | d :: rest, s => by simp [State.queueAgain, State.queueAgain_stations rest]
@[simp] theorem State.queueAgain_sched : ∀ (l : List Nat) (s : State), (s.queueAgain l).sched = s.sched
  | [], _ => rfl
  | d :: rest, s => by simp [State.queueAgain, State.queueAgain_sched rest]
@[simp] theorem State.queueAgain_feeder : ∀ (l : List Nat) (s : State), (s.queueAgain l).feeder = s.feeder
  | [], _ => rfl
  | d :: rest, s => by simp [State.queueAgain, State.queueAgain_feeder rest]
@[simp] theorem State.queueAgain_uplink : ∀ (l : List Nat) (s : State), (s.queueAgain l).uplink = s.uplink
  | [], _ => rfl
  | d :: rest, s => by simp [State.queueAgain, State.queueAgain_uplink rest]
@[simp] theorem State.queueAgain_sweep : ∀ (l : List Nat) (s : State), (s.queueAgain l).sweep = s.sweep
  | [], _ => rfl
  | d :: rest, s => by simp [State.queueAgain, State.queueAgain_sweep rest]
@[simp] theorem State.queueAgain_purge : ∀ (l : List Nat) (s : State), (s.queueAgain l).purge = s.purge
  | [], _ => rfl
  | d :: rest, s => by simp [State.queueAgain, State.queueAgain_purge rest]
@[simp] theorem State.queueAgain_disposal : ∀ (l : List Nat) (s : State), (s.queueAgain l).disposal = s.disposal
  | [], _ => rfl
  | d :: rest, s => by simp [State.queueAgain, State.queueAgain_disposal rest]
@[simp] theorem State.queueAgain_rp : ∀ (l : List Nat) (s : State), (s.queueAgain l).rp = s.rp
  | [], _ => rfl
  | d :: rest, s => by simp [State.queueAgain, State.queueAgain_rp rest]
@[simp] theorem State.queueAgain_events : ∀ (l : List Nat) (s : State), (s.queueAgain l).events = s.events
  | [], _ => rfl
  | d :: rest, s => by simp [State.queueAgain, State.queueAgain_events rest]
@[simp] theorem State.queueAgain_faultClaims : ∀ (l : List Nat) (s : State), (s.queueAgain l).faultClaims = s.faultClaims
  | [], _ => rfl
  | d :: rest, s => by simp [State.queueAgain, State.queueAgain_faultClaims rest]
@[simp] theorem State.queueAgain_ctr : ∀ (l : List Nat) (s : State), (s.queueAgain l).ctr = s.ctr
  | [], _ => rfl
  | d :: rest, s => by simp [State.queueAgain, State.queueAgain_ctr rest]
@[simp] theorem State.queueAgain_freeCtr : ∀ (l : List Nat) (s : State), (s.queueAgain l).freeCtr = s.freeCtr
  | [], _ => rfl
  | d :: rest, s => by simp [State.queueAgain, State.queueAgain_freeCtr rest]
@[simp] theorem State.queueAgain_bm_freeDescs : ∀ (l : List Nat) (s : State), (s.queueAgain l).bm.freeDescs = s.bm.freeDescs
  | [], _ => rfl
  | d :: rest, s => by simp [State.queueAgain, State.queueAgain_bm_freeDescs rest, BufferManager.setDesc]
@[simp] theorem State.queueAgain_bm_owners : ∀ (l : List Nat) (s : State), (s.queueAgain l).bm.owners = s.bm.owners
  | [], _ => rfl
  | d :: rest, s => by simp [State.queueAgain, State.queueAgain_bm_owners rest, BufferManager.setDesc]
@[simp] theorem State.queueAgain_bm_freeCells : ∀ (l : List Nat) (s : State), (s.queueAgain l).bm.freeCells = s.bm.freeCells
  | [], _ => rfl
  | d :: rest, s => by simp [State.queueAgain, State.queueAgain_bm_freeCells rest, BufferManager.setDesc]
@[simp] theorem State.queueAgain_bm_reclaim : ∀ (l : List Nat) (s : State), (s.queueAgain l).bm.reclaim = s.bm.reclaim
  | [], _ => rfl
  | d :: rest, s => by simp [State.queueAgain, State.queueAgain_bm_reclaim rest, BufferManager.setDesc]
@[simp] theorem State.queueAgain_bm_scan : ∀ (l : List Nat) (s : State), (s.queueAgain l).bm.scan = s.bm.scan
  | [], _ => rfl
  | d :: rest, s => by simp [State.queueAgain, State.queueAgain_bm_scan rest, BufferManager.setDesc]
@[simp] theorem State.queueAgain_bm_selfTestResult : ∀ (l : List Nat) (s : State), (s.queueAgain l).bm.selfTestResult = s.bm.selfTestResult
  | [], _ => rfl
  | d :: rest, s => by simp [State.queueAgain, State.queueAgain_bm_selfTestResult rest, BufferManager.setDesc]
@[simp] theorem State.queueAgain_bm_pauseWanted : ∀ (l : List Nat) (s : State), (s.queueAgain l).bm.pauseWanted = s.bm.pauseWanted
  | [], _ => rfl
  | d :: rest, s => by simp [State.queueAgain, State.queueAgain_bm_pauseWanted rest, BufferManager.setDesc]
@[simp] theorem State.queueAgain_bm_mem : ∀ (l : List Nat) (s : State), (s.queueAgain l).bm.mem = s.bm.mem
  | [], _ => rfl
  | d :: rest, s => by simp [State.queueAgain, State.queueAgain_bm_mem rest, BufferManager.setDesc]
@[simp] theorem State.queueAgain_bm_ecc : ∀ (l : List Nat) (s : State), (s.queueAgain l).bm.ecc = s.bm.ecc
  | [], _ => rfl
  | d :: rest, s => by simp [State.queueAgain, State.queueAgain_bm_ecc rest, BufferManager.setDesc]

end Sys2Proof.Machine
end

