-- ==== Sys2Proof/Laws/Stations.lean ====
section
/-! SUPPORT. What a station record, a descriptor and a Grant Slot read after the shared operations. -/

namespace Sys2Proof.Machine

/-! ### Reading after one write -/

/-- A state whose Station Table is `s`'s reads the same records. -/
theorem State.station_congr {s t : State} (h : t.stations = s.stations) (i : Nat) : t.station i = s.station i := by
  simp [State.station, h]

theorem State.slot_congr {s t : State} (h : t.sched.slots = s.sched.slots) (k : Nat) : t.slot k = s.slot k := by
  simp [State.slot, h]

theorem State.desc_congr {s t : State} (h : t.bm.descs = s.bm.descs) (d : Nat) : t.desc d = s.desc d := by
  simp [State.desc, BufferManager.desc, h]

theorem State.openSlots_congr {s t : State} (h : t.sched.slots = s.sched.slots) : t.openSlots = s.openSlots := by
  simp only [State.openSlots, State.slot_congr h]

theorem State.station_setStation_ne (s : State) {i j : Nat} (r : Station) (h : j ≠ i) :
    (s.setStation i r).station j = s.station j := Table.get_set_ne _ _ _ _ _ h

theorem State.station_setStation_same (s : State) (i : Nat) {r : Station} (h : r ≠ Station.free) :
    (s.setStation i r).station i = r := Table.get_set_same_of_ne _ _ _ h

theorem State.station_setStation {s : State} (h : Table.wf Station.free s.stations = true) (i j : Nat) (r : Station) :
    (s.setStation i r).station j = if j = i then r else s.station j := Table.get_set h i j r

theorem State.slot_setSlot_ne (s : State) {k l : Nat} (g : Option Grant) (h : l ≠ k) :
    (s.setSlot k g).slot l = s.slot l := Table.get_set_ne _ _ _ _ _ h

theorem State.slot_setSlot_some (s : State) (k : Nat) (g : Grant) : (s.setSlot k (some g)).slot k = some g :=
  Table.get_set_same_of_ne _ _ _ (by simp)

theorem State.slot_setSlot {s : State} (h : Table.wf (none : Option Grant) s.sched.slots = true) (k l : Nat)
    (g : Option Grant) : (s.setSlot k g).slot l = if l = k then g else s.slot l := Table.get_set h k l g

theorem State.desc_setDesc_ne (s : State) {d e : Nat} (x : Descriptor) (h : e ≠ d) :
    (s.setDesc d x).desc e = s.desc e := Table.get_set_ne _ _ _ _ _ h

theorem State.desc_setDesc_same (s : State) (d : Nat) {x : Descriptor} (h : x ≠ Descriptor.cleared) :
    (s.setDesc d x).desc d = x := Table.get_set_same_of_ne _ _ _ h

theorem State.desc_setDesc {s : State} (h : Table.wf Descriptor.cleared s.bm.descs = true) (d e : Nat)
    (x : Descriptor) : (s.setDesc d x).desc e = if e = d then x else s.desc e := Table.get_set h d e x

/-- A record that is not FREE is not the FREE value. -/
theorem Station.ne_free {r : Station} (h : r.admin ≠ .free) : r ≠ Station.free := fun e => h (by rw [e]; rfl)

/-- A descriptor outside place FREE is not the cleared one. -/
theorem Descriptor.ne_cleared {x : Descriptor} (h : x.place ≠ .free) : x ≠ Descriptor.cleared :=
  fun e => h (by rw [e]; rfl)

/-! ### Operations on one record leave the others -/

theorem State.station_count_ne (s : State) {i j : Nat} (f : StationCounters → StationCounters) (h : j ≠ i) :
    (s.count i f).station j = s.station j := by
  unfold State.count; split_ifs
  · rfl
  · exact s.station_setStation_ne _ h

/-- A count changes the counters of a record that is not FREE and nothing else. -/
theorem State.station_count_same (s : State) (i : Nat) (f : StationCounters → StationCounters)
    (h : (s.station i).admin ≠ .free) :
    (s.count i f).station i = { s.station i with counters := f (s.station i).counters } := by
  unfold State.count; rw [if_neg h]
  exact s.station_setStation_same i (Station.ne_free h)

/-- After a count every field of the record but the counters is as before. -/
theorem State.station_count (s : State) (i : Nat) (f : StationCounters → StationCounters) :
    (s.count i f).station i = { s.station i with counters := ((s.count i f).station i).counters } := by
  by_cases h : (s.station i).admin = .free
  · unfold State.count; rw [if_pos h]
  · rw [State.station_count_same s i f h]

theorem State.station_leaveList_ne (s : State) {i j : Nat} (h : j ≠ i) : (s.leaveList i).station j = s.station j :=
  Table.get_set_ne _ _ _ _ _ h

theorem State.station_joinList_ne (s : State) {i j : Nat} (freed : Bool) (h : j ≠ i) :
    (s.joinList i freed).station j = s.station j := by
  unfold State.joinList; simp only; split_ifs <;> exact s.station_setStation_ne _ h

theorem State.station_relist_ne (s : State) {i j : Nat} (was freed : Bool) (h : j ≠ i) :
    (s.relist i was freed).station j = s.station j := by
  unfold State.relist; split_ifs
  · rfl
  · exact s.station_joinList_ne _ h
  · exact s.station_leaveList_ne h
  · rfl

theorem State.station_change_ne (s : State) {i j : Nat} (freed : Bool) (f : Station → Station) (h : j ≠ i) :
    (s.change i freed f).station j = s.station j := by
  unfold State.change; rw [State.station_relist_ne _ _ _ h, s.station_setStation_ne _ h]

theorem State.station_cancelPoll_ne (s : State) {i j : Nat} (h : j ≠ i) : (s.cancelPoll i).station j = s.station j := by
  unfold State.cancelPoll; split_ifs
  · exact s.station_setStation_ne _ h
  · rfl

theorem State.station_checkTeardown_ne (s : State) {i j : Nat} (h : j ≠ i) :
    (s.checkTeardown i).station j = s.station j := by
  unfold State.checkTeardown; simp only; split_ifs
  · exact s.station_setStation_ne _ h
  · rfl

theorem State.station_release_ne (s : State) {i j : Nat} (d : Nat) (reason : Reason) (h : j ≠ i) :
    (s.release i d reason).station j = s.station j := by
  unfold State.release; simp only; split_ifs
  · rw [State.station_count_ne _ _ h]; rfl
  · split <;> (rw [State.station_count_ne _ _ h]; exact State.station_congr (by simp) j)

theorem State.station_count_of {s t : State} (h : t.stations = s.stations) (i : Nat)
    (f : StationCounters → StationCounters) :
    (t.count i f).station i = { s.station i with counters := ((t.count i f).station i).counters } := by
  rw [← State.station_congr h i]; exact t.station_count i f

/-- After a release every field of the record but the counters is as before. -/
theorem State.station_release (s : State) (i d : Nat) (reason : Reason) :
    (s.release i d reason).station i =
      { s.station i with counters := ((s.release i d reason).station i).counters } := by
  unfold State.release; simp only; split_ifs
  · exact State.station_count_of (by simp) i _
  · split
    · exact State.station_count_of (by simp) i _
    · exact State.station_count_of (by simp) i _

theorem State.station_releases_ne {i j : Nat} (h : j ≠ i) : ∀ (l : List (Nat × Reason)) (s : State),
    (s.releases i l).station j = s.station j
  | [], _ => rfl
  | (d, r) :: rest, s => by rw [State.releases, State.station_releases_ne h rest, s.station_release_ne d r h]

theorem State.station_releases (i : Nat) : ∀ (l : List (Nat × Reason)) (s : State),
    (s.releases i l).station i = { s.station i with counters := ((s.releases i l).station i).counters }
  | [], _ => rfl
  | (d, r) :: rest, s => by
    rw [State.releases, State.station_releases i rest, s.station_release i d r]

theorem State.station_closeSlot_ne (s : State) {i j : Nat} (k : Nat) (h : j ≠ i) :
    (s.closeSlot k i).station j = s.station j := by
  unfold State.closeSlot
  rw [State.station_congr (State.slotFreed_stations _), State.station_checkTeardown_ne _ h, State.station_change_ne _ _ _ h]
  rfl

theorem State.station_escalate_ne (s : State) {i j : Nat} (h : j ≠ i) : (s.escalate i).station j = s.station j := by
  have e : ∀ t : State, t.stations = ((s.change i false fun r => { r with admin := .faulted }).cancelPoll i).stations →
      t.station j = s.station j := by
    intro t ht
    rw [State.station_congr ht, State.station_cancelPoll_ne _ h, State.station_change_ne _ _ _ h]
  unfold State.escalate; simp only; split_ifs <;> exact e _ (by simp)

theorem State.station_takeClaim_ne (s : State) (c : FaultClaim) {j : Nat} (h : j ≠ c.station) :
    (s.takeClaim c).station j = s.station j := by
  unfold State.takeClaim; split_ifs
  · exact s.station_escalate_ne h
  · exact s.station_setStation_ne _ h
  · rfl

/-! ### Lists after a change of a record (R57, R92 to R94) -/

/-- What `relist` does: nothing while the station is the ROUND candidate; otherwise the station joins a tail, leaves its
list, or stays, by its eligibility before and now. -/
theorem State.relist_cases (s : State) (i : Nat) (was freed : Bool) :
    (s.sched.candidate = some { station := i, kind := .round } ∧ s.relist i was freed = s)
    ∨ (s.sched.candidate ≠ some { station := i, kind := .round } ∧ was = false ∧ (s.station i).eligible = true
        ∧ s.relist i was freed = s.joinList i freed)
    ∨ (s.sched.candidate ≠ some { station := i, kind := .round } ∧ was = true ∧ (s.station i).eligible = false
        ∧ s.relist i was freed = s.leaveList i)
    ∨ (s.sched.candidate ≠ some { station := i, kind := .round } ∧ was = (s.station i).eligible
        ∧ s.relist i was freed = s) := by
  unfold State.relist
  by_cases hc : s.sched.candidate = some { station := i, kind := .round }
  · left; exact ⟨hc, by rw [if_pos hc]⟩
  · right
    cases hw : was <;> cases he : (s.station i).eligible <;> simp [hc]

/-- The eligibility of a record does not depend on its list membership. -/
theorem Station.eligible_list (r : Station) (m : Membership) : ({ r with list := m } : Station).eligible = r.eligible := rfl

/-- Joining a list writes the membership that names it. -/
theorem State.station_joinList {s : State} {i : Nat} (freed : Bool) (h : (s.station i).admin ≠ .free) :
    (s.joinList i freed).station i =
      { s.station i with list := if freed = true ∨ (s.station i).deficit ≤ 0 then .round else .entry } := by
  unfold State.joinList; simp only
  split_ifs <;> exact Table.get_set_same_of_ne _ _ _ (Station.ne_free h)

theorem State.joinList_entryList (s : State) (i : Nat) (freed : Bool) :
    (s.joinList i freed).sched.entryList =
      if freed = true ∨ (s.station i).deficit ≤ 0 then s.sched.entryList else s.sched.entryList ++ [i] := by
  unfold State.joinList; simp only; split_ifs <;> rfl

theorem State.joinList_roundList (s : State) (i : Nat) (freed : Bool) :
    (s.joinList i freed).sched.roundList =
      if freed = true ∨ (s.station i).deficit ≤ 0 then s.sched.roundList ++ [i] else s.sched.roundList := by
  unfold State.joinList; simp only; split_ifs <;> rfl

theorem State.station_leaveList {s : State} {i : Nat} (h : (s.station i).admin ≠ .free) :
    (s.leaveList i).station i = { s.station i with list := .none } :=
  Table.get_set_same_of_ne _ _ _ (Station.ne_free h)

/-- `relist` changes no field of the record but its list membership. -/
theorem State.station_relist {s : State} {i : Nat} (was freed : Bool) (h : (s.station i).admin ≠ .free) :
    (s.relist i was freed).station i = { s.station i with list := ((s.relist i was freed).station i).list } := by
  rcases s.relist_cases i was freed with ⟨_, e⟩ | ⟨_, _, _, e⟩ | ⟨_, _, _, e⟩ | ⟨_, _, e⟩ <;> rw [e]
  · rw [State.station_joinList freed h]
  · rw [State.station_leaveList h]

/-- A change of a record that is not FREE afterwards: the fields of `f`, with a list membership of its own. -/
theorem State.station_change {s : State} {i : Nat} (freed : Bool) {f : Station → Station}
    (h : (f (s.station i)).admin ≠ .free) :
    (s.change i freed f).station i = { f (s.station i) with list := ((s.change i freed f).station i).list } := by
  have e : (s.setStation i (f (s.station i))).station i = f (s.station i) :=
    s.station_setStation_same i (Station.ne_free h)
  unfold State.change
  conv_lhs => rw [State.station_relist _ _ (by rw [e]; exact h), e]

end Sys2Proof.Machine
end

