-- ==== Sys2Proof/Laws/Admission.lean ====
section
/-! SUPPORT. The admission decision, refusals, the segment list and the bytes an accepted frame writes (03). -/

set_option linter.unusedSimpArgs false

namespace Sys2Proof.Machine

/-- The PAUSE state wanted after an operation of the Buffer Manager (R36, R189). -/
theorem pauseFollows_evaluateFrom {s t : State} {b : BufferManager} (h : t.bm = BufferManager.evaluateFrom s.startUnsent s.bm b)
    (hp : b.pauseWanted = s.bm.pauseWanted) : PauseFollows s t := by
  simp only [PauseFollows, h, BufferManager.evaluateFrom, BufferManager.evaluatedPause, BufferManager.freeGeneral, BufferManager.freeCellCount, hp,
    Config.pauseOnDescs_eq, Config.pauseOnCells_eq, Config.pauseOffDescs_eq, Config.pauseOffCells_eq]

theorem lt_or_le (a b : Nat) : (a < b ∧ ¬ b ≤ a) ∨ (¬ a < b ∧ b ≤ a) := by omega

/-- Checks 1 to 7 (R38). -/
theorem firstFailure_checks (s : State) (e : IngressEntry) : firstFailure (s.admissionChecks e) =
    s.decisionFault e := by
  unfold State.decisionFault State.admissionChecks firstFailure
  cases hs : s.sched.state <;>
      simp [SchedState.admissionFault, hs, IngressEntry.lengthFault, State.stationFault, IngressEntry.addressIs]
  all_goals
    by_cases h1 : 14 ≤ e.declared.toNat ∧ e.declared.toNat ≤ 4096
    swap
    · have h1' : e.declared.toNat < 14 ∨ 4096 < e.declared.toNat := by omega
      simp [h1, h1']
    have h1' : ¬ (e.declared.toNat < 14 ∨ 4096 < e.declared.toNat) := by omega
    simp only [h1, h1']
    simp
    rcases lt_or_le e.station.toNat 512 with ⟨h2, h2'⟩ | ⟨h2, h2'⟩ <;>
    rcases lt_or_le (s.station e.station.toNat).queue.length (s.liveClass (s.station e.station.toNat)).queueLimit with ⟨h4, h4'⟩ | ⟨h4, h4'⟩ <;>
    by_cases h3 : beNat (List.take 6 e.bytes) = (s.station e.station.toNat).address.toNat <;>
    cases ha : (s.station e.station.toNat).admin <;> simp [h2, h2', ha, h3, h4, h4']

/-- Checks 1 and 3 to 7, made again at the append (R49). -/
theorem firstFailure_append (s : State) (e : IngressEntry) : firstFailure ((s.admissionChecks e).eraseIdx 1) =
    s.appendFault e := by
  unfold State.appendFault State.admissionChecks firstFailure
  cases hs : s.sched.state <;> simp [SchedState.admissionFault, hs, State.stationFault, IngressEntry.addressIs]
  all_goals
    rcases lt_or_le e.station.toNat 512 with ⟨h2, h2'⟩ | ⟨h2, h2'⟩ <;>
    rcases lt_or_le (s.station e.station.toNat).queue.length (s.liveClass (s.station e.station.toNat)).queueLimit with ⟨h4, h4'⟩ | ⟨h4, h4'⟩ <;>
    by_cases h3 : beNat (List.take 6 e.bytes) = (s.station e.station.toNat).address.toNat <;>
    cases ha : (s.station e.station.toNat).admin <;> simp [h2, h2', ha, h3, h4, h4']

/-- Checks 1 to 8 (R38, R44). -/
theorem State.admissionVerdict_eq (s : State) (e : IngressEntry) : s.admissionVerdict e =
    match s.decisionFault e with
    | some r => some r
    | none => if (s.bm.claimToQueue e.declared.toNat).isSome = true then none else some .noBuffer := by
  unfold State.admissionVerdict
  rw [firstFailure_checks]
  cases s.decisionFault e with
  | some r => rfl
  | none =>
    simp only
    by_cases h : 1 ≤ s.bm.freeDescs.toList.length - 32 ∧ (e.declared.toNat + 255) / 256 ≤ s.bm.freeCells.toList.length
    · rw [if_pos h, if_pos ((BufferManager.claimToQueue_isSome _ _).2 h)]
    · rw [if_neg h, if_neg (fun hc => h ((BufferManager.claimToQueue_isSome _ _).1 hc))]

/-- A frame that fails a check is refused with its reason (R38). -/
theorem State.decideAdmission_refuses {s : State} {e : IngressEntry} {reason : Reason} (h : s.admissionVerdict e =
    some reason) :
    s.decideAdmission e = s.refuse e reason := by
  rw [State.admissionVerdict_eq] at h
  unfold State.decideAdmission
  cases hd : s.decisionFault e with
  | some r => simp only [hd, Option.some.injEq] at h; simp [h]
  | none =>
    simp only [hd] at h
    cases hc : s.bm.claimToQueue e.declared.toNat with
    | none => simp [hc] at h; simp [h]
    | some p => simp [hc] at h

/-- A frame that passes every check is accepted (R47). -/
theorem State.decideAdmission_accepts {s : State} {e : IngressEntry} (h : s.admissionVerdict e = none) :
    ∃ d cells b, s.bm.claimToQueue e.declared.toNat = some (d, cells, b) ∧ s.decideAdmission e =
        { s.withPools (b.setDesc d (acceptedDesc e cells)) with adm := .writing d } := by
  rw [State.admissionVerdict_eq] at h
  unfold State.decideAdmission
  cases hd : s.decisionFault e with
  | some r => simp [hd] at h
  | none =>
    simp only [hd] at h
    cases hc : s.bm.claimToQueue e.declared.toNat with
    | none => simp [hc] at h
    | some p => obtain ⟨d, cells, b⟩ := p; exact ⟨d, cells, b, rfl, rfl⟩

/-- The record a refused frame names (R45). -/
theorem State.station_countRefusal (s : State) (e : IngressEntry) :
   (s.countRefusal e).station e.station.toNat =
          (if e.station.toNat < 512 ∧ (s.station e.station.toNat).admin ≠ .free then
            { s.station e.station.toNat with
              counters := { (s.station e.station.toNat).counters with
                framesDropped := (s.station e.station.toNat).counters.framesDropped + 1 } }
          else (s.station e.station.toNat)) := by
  unfold State.countRefusal
  by_cases h1 : e.station.toNat < 512
  · rw [if_pos h1]
    by_cases h2 : (s.station e.station.toNat).admin = .free
    · rw [if_neg (by tauto)]; unfold State.count; rw [if_pos h2]
    · rw [if_pos ⟨h1, h2⟩, State.station_count_same _ _ _ h2]; rfl
  · rw [if_neg h1, if_neg (by tauto)]

theorem State.station_countRefusal_ne (s : State) (e : IngressEntry) (j : Nat) (h : j ≠ e.station.toNat) :
   (s.countRefusal e).station j = s.station j := by
  unfold State.countRefusal; split
  · exact State.station_count_ne _ _ h
  · rfl

/-- Counting a refusal changes the records alone. -/
theorem State.countRefusal_eq (s : State) (e : IngressEntry) : s.countRefusal e =
    { s with stations := (s.countRefusal e).stations } := by
  unfold State.countRefusal; split
  · apply State.ext_fields <;> simp
  · rfl

theorem segmentsOver_cons (c n : Nat) (rest : List Nat) (left : Nat) : segmentsOver (c :: n :: rest) left =
   { cell := BitVec.ofNat 16 c, count := 256 } :: segmentsOver (n :: rest) (left - 256) := rfl

/-- The segment list of an accepted frame (R21). -/
theorem segmentsOver_eq : ∀ (cells : List Nat) (n : Nat),
    segmentsOver cells n = segmentList cells n
  | [], n => rfl
  | [c], n => by simp [segmentsOver, segmentList]
  | c :: c2 :: rest, n => by
    rw [segmentsOver_cons, segmentsOver_eq (c2 :: rest) (n - 256)]
    simp only [segmentList, List.mapIdx_cons]
    have : n - 256 - 256 * rest.length = n - 256 * (rest.length + 1) := by omega
    simp [this]

theorem getD_zeros (n k : Nat) : (zeros n).getD k 0 = 0 := by
  simp only [zeros, List.getD_eq_getElem?_getD, List.getElem?_replicate]; split <;> rfl

/-- Writing a frame (R47): each of its cells reads the frame and zeros after it, every other byte as before. -/
theorem Memory.read_writeFrame (cells : List Nat) : ∀ (bytes : List Byte) (m : Memory), m.wf = true →
    1 ≤ bytes.length → cells.length = (bytes.length + 255) / 256 →
    cells.Nodup → (∀ c ∈ cells, c < 65536) → bytes.length ≤ 4096 →
    (∀ j, j < cells.length → ∀ o, o < 256 →
        (m.writeFrame (segmentList cells bytes.length) bytes).read (256 * cells.getD j 0 + o) =
            bytes.getD (256 * j + o) 0)
     ∧ (∀ a, a / 256 ∉ cells → (m.writeFrame (segmentList cells bytes.length) bytes).read a = m.read a) := by
  induction cells with
  | nil => intro bytes m _ h1 h2 _ _ h3; simp at h2; omega
  | cons c rest ih =>
    intro bytes m hw h1 h2 hn hlt h3
    rw [List.nodup_cons] at hn
    have hseg : segmentList (c :: rest) bytes.length
        = { cell := BitVec.ofNat 16 c, count := BitVec.ofNat 9 (if rest = [] then bytes.length else 256) }
          :: segmentList rest (bytes.length - 256) := by
      cases rest with
      | nil => simp [segmentList]
      | cons c2 r =>
        rw [← segmentsOver_eq, segmentsOver_cons, segmentsOver_eq]; simp
    have hc : c % 65536 = c := Nat.mod_eq_of_lt (hlt c (by simp))
    simp only [List.length_cons] at h2
    rw [hseg, Memory.writeFrame]
    have hcnt : (BitVec.ofNat 9 (if rest = [] then bytes.length else 256)).toNat = (if rest = [] then bytes.length else 256) := by
      rw [BitVec.toNat_ofNat]
      apply Nat.mod_eq_of_lt
      split
      next h => subst h; simp at h2; omega
      · omega
    simp only [hcnt, BitVec.toNat_ofNat, Memory.cellAddress, Config.cellBytes_eq, Nat.add_zero]
    rw [show c % 2 ^ 16 = c from hc]
    set n := (if rest = [] then bytes.length else 256) with hndef
    have hn256 : n ≤ 256 ∧ n ≤ bytes.length := by
      rw [hndef]; split
      next h => subst h; simp at h2; omega
      next h =>
        have : 1 ≤ rest.length := by cases rest <;> simp_all
        omega
    set m1 := m.writeBytes (256 * c) (bytes.take n ++ zeros (256 - (bytes.take n).length)) with hm1
    have hw1 : m1.wf = true := Memory.wf_writeBytes _ _ hw
    have hlen : (bytes.take n ++ zeros (256 - (bytes.take n).length)).length = 256 := by simp; omega
    have hread1 : ∀ x, m1.read x = if 256 * c ≤ x ∧ x < 256 * c + 256 then (bytes.take n ++ zeros (256 - (bytes.take n).length)).getD (x - 256 * c) 0 else m.read x := by
      intro x; rw [hm1, Memory.read_writeBytes _ _ _ hw, hlen]
    have hdrop : segmentList rest (bytes.length - 256) = segmentList rest (bytes.drop n).length := by
      cases rest with
      | nil => simp [segmentList]
      | cons c2 r =>
        have h256 : n = 256 := by rw [hndef]; simp
        rw [List.length_drop, h256]
    rw [hdrop]
    by_cases hr : rest = []
    · subst hr
      simp only [segmentList, List.mapIdx_nil, Memory.writeFrame]
      have hnb : n = bytes.length := by simp [hndef]
      constructor
      · intro j hj o ho
        simp at hj; subst hj
        rw [hread1]; simp only [List.getD_cons_zero]
        rw [if_pos (by omega)]
        rw [hnb]
        simp only [List.take_length, Nat.mul_zero, Nat.zero_add, Nat.add_sub_cancel_left]
        by_cases hob : o < bytes.length
        · rw [List.getD_append _ _ _ _ hob]
        · rw [List.getD_append_right _ _ _ _ (by omega)]
          rw [getD_zeros, List.getD_eq_getElem?_getD, List.getElem?_eq_none (by omega : bytes.length ≤ o)]; rfl
      · intro a hna
        rw [hread1, if_neg]
        intro hcc; apply hna; simp; omega
    · have hnv : n = 256 := by simp [hndef, hr]
      have hrl : 1 ≤ rest.length := by cases rest <;> simp_all
      obtain ⟨i1, i2⟩ := ih (bytes.drop n) m1 hw1 (by simp; omega) (by simp [hnv]; omega) hn.2 (fun x hx => hlt x (by simp [hx])) (by simp; omega)
      constructor
      · intro j hj o ho
        cases j with
        | zero =>
          simp only [List.getD_cons_zero, Nat.mul_zero, Nat.zero_add]
          rw [i2 _ (by rw [show (256 * c + o) / 256 = c by omega]; exact hn.1)]
          rw [hread1, if_pos (by omega)]
          rw [List.getD_append _ _ _ _ (by simp; omega)]
          simp only [Nat.add_sub_cancel_left]
          simp [List.getD_eq_getElem?_getD, List.getElem?_take, hnv, ho]
        | succ j =>
          simp only [List.getD_cons_succ]
          rw [i1 j (by simpa using hj) o ho]
          simp [List.getD_eq_getElem?_getD, hnv, show 256 + (256 * j + o) = 256 * (j + 1) + o by ring]
      · intro a hna
        simp only [List.mem_cons, not_or] at hna
        rw [i2 _ hna.2, hread1, if_neg (by omega)]

end Sys2Proof.Machine
end

