-- ==== Sys2Proof/Laws/Release.lean ====
section
/-! SUPPORT. What a release does to the descriptor, the Disposal List and the Reclaim Queue, and that releases asked for
in one step each find their descriptor as it was (R26, R158). -/

namespace Sys2Proof.Machine

/-- The two ends of a release: on a clean walk the descriptor joins the Disposal List tail with the reason named; otherwise
it joins the Reclaim Queue tail with CHAIN_FAULT. -/
def ReleaseEnds (s t : State) (d : Nat) (reason : Reason) : Prop :=
  (t.desc d = { s.desc d with reason := some reason, place := .disposal } ∧ t.disposal = s.disposal ++ [d]
      ∧ t.bm.reclaim = s.bm.reclaim)
    ∨ (t.desc d = { s.desc d with reason := some .chainFault, place := .reclaim } ∧ t.disposal = s.disposal
      ∧ t.bm.reclaim = s.bm.reclaim ++ [d])

theorem State.desc_withPools {s : State} {b : BufferManager} (h : b.descs = s.bm.descs) (d : Nat) :
    (s.withPools b).desc d = s.desc d := by
  apply State.desc_congr
  rw [State.withPools_bm]
  exact h

/-- A release ends the frame of `d` and no other. -/
theorem State.release_ends (s : State) (i d : Nat) (reason : Reason) :
    ReleaseEnds s (s.release i d reason) d reason ∧ OtherDescsKeep s (s.release i d reason) [d] := by
  have key : ∀ (u : State), (∀ e, u.desc e = s.desc e) → u.disposal = s.disposal → u.bm.reclaim = s.bm.reclaim →
      (∀ (f : StationCounters → StationCounters) (r : Reason),
        ReleaseEnds s ((u.dispose d r).count i f) d r ∧ OtherDescsKeep s ((u.dispose d r).count i f) [d])
      ∧ (∀ (f : StationCounters → StationCounters) (r : Reason),
        ReleaseEnds s ((u.toReclaim d).count i f) d r ∧ OtherDescsKeep s ((u.toReclaim d).count i f) [d]) := by
    intro u h1 h2 h3
    constructor
    · intro f r
      have e : ∀ x, ((u.dispose d r).count i f).desc x
          = (u.setDesc d { u.desc d with reason := some r, place := .disposal }).desc x :=
        fun x => State.desc_congr (by simp) x
      constructor
      · left
        refine ⟨?_, by simp [h2], by simp [h3]⟩
        rw [e, u.desc_setDesc_same d (Descriptor.ne_cleared (by simp)), h1]
      · intro x hx
        rw [e, u.desc_setDesc_ne _ (by simpa using hx), h1]
    · intro f r
      have e : ∀ x, ((u.toReclaim d).count i f).desc x
          = (u.setDesc d { u.desc d with reason := some .chainFault, place := .reclaim }).desc x :=
        fun x => State.desc_congr (by simp) x
      constructor
      · right
        refine ⟨?_, by simp [h2], by simp [h3]⟩
        rw [e, u.desc_setDesc_same d (Descriptor.ne_cleared (by simp)), h1]
      · intro x hx
        rw [e, u.desc_setDesc_ne _ (by simpa using hx), h1]
  unfold State.release
  simp only
  split_ifs with h
  · exact (key s (fun _ => rfl) rfl rfl).2 _ _
  · have ew := BufferManager.releaseWalk_eq s.bm d
    split
    next b hb =>
      rw [hb] at ew
      simp only at ew
      have hd : b.descs = s.bm.descs := by rw [ew]
      exact (key (s.withPools b) (fun e => State.desc_withPools hd e) (by simp)
        (by rw [State.withPools_bm]; simp only [BufferManager.evaluateFrom]; rw [ew])).1 _ _
    next f b hb =>
      rw [hb] at ew
      simp only at ew
      have hd : b.descs = s.bm.descs := by rw [ew]
      refine (key _ (fun e => ?_) ?_ ?_).2 _ _
      · rw [State.desc_congr (s := s.withPools b) (by simp)]
        exact State.desc_withPools hd e
      · simp
      · simp only [State.claimFault_bm, State.reportFault_bm, State.withPools_bm, BufferManager.evaluateFrom]
        rw [ew]

theorem State.desc_release_ne (s : State) {i d e : Nat} (reason : Reason) (h : e ≠ d) :
    (s.release i d reason).desc e = s.desc e := (s.release_ends i d reason).2 e (by simpa using h)

theorem State.desc_releases_ne (i : Nat) {e : Nat} : ∀ (l : List (Nat × Reason)) (s : State), e ∉ l.map Prod.fst →
    (s.releases i l).desc e = s.desc e
  | [], _, _ => rfl
  | (d, r) :: rest, s, h => by
    simp only [List.map_cons, List.mem_cons, not_or] at h
    rw [State.releases, State.desc_releases_ne i rest _ h.2, s.desc_release_ne r h.1]

end Sys2Proof.Machine
end

