-- ==== Sys2Proof/Laws/Scheduler.lean ====
section
/-! SUPPORT. What the operations of the scheduler, its lists, the Purge List and the end of a slot do, one lemma each. -/

set_option linter.unusedSimpArgs false

namespace Sys2Proof.Machine

/-- The sweep timer is left alone by a move to a state that is not STOPPING and does not begin to sweep (R151). -/
theorem Sweep.onState_same (w : Sweep) (n : Nat) (a b : SchedState) (h1 : b ≠ .stopping) (h2 : b.sweeps = true →
    a.sweeps = true) : w.onState n a b = w := by
  unfold Sweep.onState; rw [if_neg h1]
  cases hb : b.sweeps <;> simp
  intro ha; rw [h2 hb] at ha; simp at ha

/-- Adding a freeze cause (R134, R135). -/
theorem State.addCause_eq (s : State) (c : Cause) : s.addCause c = s.causeAdded c := by
  unfold State.addCause State.causeAdded
  by_cases h : s.sched.causes.get c = true
  · simp [h]
  · simp only [h, if_false]
    by_cases hr : s.sched.state = .running
    · simp only [hr, if_true, ne_eq, not_true_eq_false, if_false]
      have e1 : ∀ w n, Sweep.onState w n SchedState.running SchedState.frozen = w := fun w n => by
        simp [Sweep.onState, SchedState.sweeps]
      have e2 : ∀ w n, Sweep.onState w n SchedState.running SchedState.freezing = w := fun w n => by
        simp [Sweep.onState, SchedState.sweeps]
      split_ifs <;> apply State.ext_fields <;> simp [hr, e1, e2]
    · simp [hr]; rfl

/-- Removing a freeze cause (R134, R137). -/
theorem State.removeCause_eq (s : State) (c : Cause) : s.removeCause c = s.causeRemoved c := by
  unfold State.removeCause State.causeRemoved
  by_cases h : s.sched.causes.get c = true
  · simp only [h, if_true, not_true_eq_false, if_false]
    have e1 : ∀ w n, Sweep.onState w n SchedState.frozen SchedState.running = w := fun w n => by
        simp [Sweep.onState, SchedState.sweeps]
    have e2 : ∀ w n, Sweep.onState w n SchedState.freezing SchedState.running = w := fun w n => by
        simp [Sweep.onState, SchedState.sweeps]
    by_cases hc : (s.setCause c false).sched.causes.isEmpty = true
    · have hc' : (s.sched.causes.put c false).isEmpty = true := hc
      by_cases hs : s.sched.state = .freezing ∨ s.sched.state = .frozen
      · rw [if_pos (by simpa [hc'] using hs), if_pos ⟨hc', hs⟩]
        rcases hs with hs | hs <;> apply State.ext_fields <;> simp [hs, e1, e2]
      · rw [if_neg (by simpa [hc'] using hs), if_neg (by tauto)]; rfl
    · have hc' : ¬ (s.sched.causes.put c false).isEmpty = true := hc
      rw [if_neg (by simp [hc']), if_neg (by tauto)]; rfl
  · simp [h]

/-- The check for the end of STOPPING (R144). -/
theorem State.checkStopped_eq (s : State) : s.checkStopped = s.offIfDrained := by
  unfold State.checkStopped State.offIfDrained
  have : (s.hasStopEntry = false) ↔ (∀ e ∈ s.purge, e.purpose ≠ .stop) := by
    unfold State.hasStopEntry; simp
  simp only [this]
  split_ifs with h
  · have e1 : ∀ w n, Sweep.onState w n SchedState.stopping SchedState.off = w := fun w n => by
        simp [Sweep.onState, SchedState.sweeps]
    apply State.ext_fields <;> simp [h.1, e1]
    · rfl
    · rfl
  · rfl

/-- The state after the check for the end of STOPPING (R144). -/
theorem State.state_checkStopped (s : State) : (s.checkStopped).sched.state = if s.sched.state = .stopping ∧
    (∀ e ∈ s.purge, e.purpose ≠ .stop) ∧ s.openSlots = 0 then .off else s.sched.state := by
  rw [State.checkStopped_eq]; unfold State.offIfDrained; split_ifs <;> rfl

/-- The hand-over of the retired count (R145). -/
theorem State.checkRetired_eq (s : State) : s.checkRetired = s.haltedIfDue := by
  unfold State.checkRetired State.haltedIfDue
  have : (s.sched.state.canHalt = true) ↔ (s.sched.state = .running ∨ s.sched.state = .freezing ∨ s.sched.state = .frozen ∨ s.sched.state = .stopping) := by
    cases s.sched.state <;> simp [SchedState.canHalt]
  simp only [this]
  split_ifs with h h1
  · apply State.ext_fields <;> simp [h1, Sweep.onState, SchedState.sweeps, State.freshSweepTimer]
  · have : s.sched.state.sweeps = true := by
      rcases h.1 with h | h | h | h <;> simp_all [SchedState.sweeps]
    apply State.ext_fields <;> simp [h1, Sweep.onState, this]
  · rfl

/-- One claim on a record: the lists follow the change of its eligibility (R57). -/
theorem State.listsFollow_change {s : State} {i : Nat} (freed : Bool) {f : Station → Station}
    (h : (f (s.station i)).admin ≠ .free)
    (hl : (f (s.station i)).list = (s.station i).list) : ListsFollow s (s.change i freed f) i freed := by
  have e : (s.setStation i (f (s.station i))).station i = f (s.station i) :=
    s.station_setStation_same i (Station.ne_free h)
  have hc := State.station_change freed h
  have helig : ((s.change i freed f).station i).eligible = (f (s.station i)).eligible := by rw [hc]; rfl
  have hdef : ((s.change i freed f).station i).deficit = (f (s.station i)).deficit := by rw [hc]
  unfold ListsFollow
  simp only [helig, hdef]
  set t := s.setStation i (f (s.station i)) with ht
  have hcand : t.sched.candidate = s.sched.candidate := rfl
  have he : t.sched.entryList = s.sched.entryList := rfl
  have hr : t.sched.roundList = s.sched.roundList := rfl
  rcases t.relist_cases i (s.station i).eligible freed with ⟨h1, h2⟩ | ⟨h1, h3, h4, h2⟩ | ⟨h1, h3, h4, h2⟩ | ⟨h1, h3, h2⟩
  · rw [hcand] at h1
    have hch : s.change i freed f = t := by unfold State.change; rw [← ht, h2]
    simp [h1, hch, he, hr, e, hl]
  · rw [hcand] at h1; rw [e] at h4
    have hch : s.change i freed f = t.joinList i freed := by unfold State.change; rw [← ht, h2]
    simp only [ne_eq, h1, not_false_eq_true, h3, h4, and_self, if_true, hch]
    rw [State.station_joinList freed (by rw [e]; exact h), State.joinList_entryList, State.joinList_roundList, e, he, hr]
    cases freed
    · by_cases hd : (f (s.station i)).deficit ≤ 0
      · have : ¬ (0 < (f (s.station i)).deficit) := by omega
        simp [hd, this]
      · have : (0 < (f (s.station i)).deficit) := by omega
        simp [hd, this]
    · simp
  · rw [hcand] at h1; rw [e] at h4
    have hch : s.change i freed f = t.leaveList i := by unfold State.change; rw [← ht, h2]
    simp only [ne_eq, h1, not_false_eq_true, h3, h4, and_self, if_true, hch]
    rw [State.station_leaveList (by rw [e]; exact h)]
    simp [he, hr]
  · rw [hcand] at h1; rw [e] at h3
    have hch : s.change i freed f = t := by unfold State.change; rw [← ht, h2]
    simp only [h3, hch, e, he, hr, hl]
    cases (f (s.station i)).eligible <;> simp

/-- A claim on a record leaves everything but the records and the two lists alone (R57). -/
theorem State.change_eq (s : State) (i freed f) : s.change i freed f =
    { s with
        stations := (s.change i freed f).stations
        sched := { s.sched with
          entryList := (s.change i freed f).sched.entryList
          roundList := (s.change i freed f).sched.roundList } } := by
  apply State.ext_fields <;> simp
  apply Scheduler.ext_fields <;> simp

/-- A pending poll set to no (R71). -/
theorem State.station_cancelPoll_same {s : State} {i} (h : (s.station i).admin ≠ .free) :
    (s.cancelPoll i).station i = { s.station i with poll := false } := by
  unfold State.cancelPoll
  split
  · exact Table.get_set_same_of_ne _ _ _ (Station.ne_free h)
  next hp =>
    have : (s.station i).poll = false := by simpa using hp
    rw [← this]

/-- The Poll Queue after a poll is set to no (R71). -/
theorem State.pollQueue_cancelPoll (s : State) (i) : (s.cancelPoll i).sched.pollQueue = if (s.station i).poll =
    true then s.sched.pollQueue.filter (· ≠ i) else s.sched.pollQueue := by
  unfold State.cancelPoll; split_ifs <;> rfl

/-- A station that leaves its admin state, its list and the Poll Queue in one step (R63, R168). -/
theorem State.change_cancelPoll (s : State) (i : Nat) (a : Admin) (ha : a ≠ .free) :
   let u := (s.change i false fun r => { r with admin := a }).cancelPoll i
   u = { s with
          stations := u.stations
          sched := { s.sched with
            entryList := u.sched.entryList
            roundList := u.sched.roundList
            pollQueue :=
              if (s.station i).poll = true then s.sched.pollQueue.filter (· ≠ i) else s.sched.pollQueue } }
   ∧ OtherStationsKeep s u i ∧ u.station i = { s.station i with admin := a, poll := false, list := (u.station i).list }
   ∧ ListsFollow s u i false := by
  intro u
  have hst := State.station_change (s := s) (i := i) false (f := fun r => { r with admin := a }) ha
  have hna : ((s.change i false fun r => { r with admin := a }).station i).admin ≠ .free := by rw [hst]; exact ha
  have hu := State.station_cancelPoll_same hna
  have hp : ((s.change i false fun r => { r with admin := a }).station i).poll = (s.station i).poll := by rw [hst]
  refine ⟨?_, ?_, ?_, ?_⟩
  · apply State.ext_fields <;> simp [u]
    apply Scheduler.ext_fields <;> simp [State.pollQueue_cancelPoll, hp]
  · intro j hj
    rw [State.station_cancelPoll_ne _ hj, State.station_change_ne _ _ _ hj]
  · show u.station i = _
    rw [hu, hst]
  · obtain ⟨w, hw⟩ : ∃ w, w = s.change i false fun r => { r with admin := a } := ⟨_, rfl⟩
    have := State.listsFollow_change (s := s) (i := i) false (f := fun r => { r with admin := a }) ha rfl
    rw [← hw] at this
    have e0 : u = w.cancelPoll i := by rw [hw]
    rw [← hw] at hu
    unfold ListsFollow at this ⊢
    have e1 : (u.station i).eligible = (w.station i).eligible := by rw [e0, hu]; rfl
    have e2 : (u.station i).list = (w.station i).list := by rw [e0, hu]
    have e3 : (u.station i).deficit = (w.station i).deficit := by rw [e0, hu]
    have e4 : u.sched.entryList = w.sched.entryList := by rw [e0]; simp
    have e5 : u.sched.roundList = w.sched.roundList := by rw [e0]; simp
    rw [e1, e2, e3, e4, e5]
    exact this

/-- Asking for an entry of the Purge List (R154). -/
theorem askPurge_eq (l : List PurgeEntry) (i : Nat) (p : Purpose) : askPurge l i p =
   if ∃ e ∈ l, e.station = i then l.map fun e => if e.station = i ∧
       e.purpose.rank < p.rank then { e with purpose := p } else e
   else l ++ [{ station := i, purpose := p }] := by
  unfold askPurge
  have : (l.any fun e => e.station == i) = true ↔ ∃ e ∈ l, e.station = i := by simp
  simp only [this]

/-- Asking for a STOP entry changes no entry that stands (R143, R154). -/
theorem askPurge_stop (l : List PurgeEntry) (i : Nat) : askPurge l i .stop = if ∃ e ∈ l, e.station =
    i then l else l ++ [{ station := i, purpose := .stop }] := by
  rw [askPurge_eq]
  have : (l.map fun e => if e.station = i ∧ e.purpose.rank < Purpose.rank .stop then { e with purpose := .stop } else e) = l := by
    conv_rhs => rw [← List.map_id l]
    apply List.map_congr_left; intro e _
    simp [Purpose.rank]
  rw [this]

/-- Asking for a REMOVE entry upgrades the entry that stands in its place (R63, R154). -/
theorem askPurge_remove (l : List PurgeEntry) (i : Nat) : askPurge l i .remove =
  if ∃ x ∈ l, x.station = i then l.map fun x => if x.station = i then { x with purpose := .remove } else x
  else l ++ [{ station := i, purpose := .remove }] := by
  rw [askPurge_eq]
  congr 1
  apply List.map_congr_left; intro e _
  cases e with | mk a b => cases b <;> simp [Purpose.rank]

/-- An upgrade from STOP (R154). -/
theorem upgradesStop_iff (l : List PurgeEntry) (i) (p : Purpose) (hp : p ≠ .stop) : upgradesStop l i p =
    true ↔ ∃ e ∈ l, e.station = i ∧ e.purpose = .stop := by
  unfold upgradesStop; simp [hp, and_assoc]

/-- The record after the check for teardown (R157). -/
theorem State.station_checkTeardown (s : State) (h : Table.wf Station.free s.stations = true) (i : Nat) :
    (s.checkTeardown i).station i =
   if (s.station i).admin = .purging ∧ s.onPurgeList i = false ∧ (s.station i).queue = [] ∧ (s.station i).slot =
       none then Station.free else s.station i := by
  unfold State.checkTeardown; simp only; split_ifs with hc
  · show (s.setStation i Station.free).station i = _
    rw [State.station_setStation h, if_pos rfl]
  · rfl

theorem State.wf_relist (s : State) (i w f) (h : Table.wf Station.free s.stations = true) :
    Table.wf Station.free (s.relist i w f).stations = true := by
  unfold State.relist State.joinList State.leaveList; simp only; split_ifs <;>
      first | exact h | exact Table.wf_set h _ _

theorem State.wf_release (s : State) (i d r) (h : Table.wf Station.free s.stations = true) :
    Table.wf Station.free (s.release i d r).stations = true := by
  have hc : ∀ u : State, Table.wf Station.free u.stations = true → ∀ f, Table.wf Station.free (u.count i f).stations = true := by
    intro u hu f; unfold State.count; split_ifs
    · exact hu
    · exact Table.wf_set hu _ _
  unfold State.release; simp only; split_ifs
  · exact hc _ (by simpa using h) _
  · split <;> exact hc _ (by simpa using h) _

theorem State.wf_releases (i : Nat) : ∀ (l : List (Nat × Reason)) (s : State), Table.wf Station.free s.stations =
    true → Table.wf Station.free (s.releases i l).stations = true
  | [], _, h => h
  | (d, r) :: rest, s, h => by rw [State.releases]; exact State.wf_releases i rest _ (State.wf_release _ _ _ _ h)

/-- A release moves the scheduler to HALTED or not at all (R145). -/
theorem State.state_release (s : State) (i d r) : (s.release i d r).sched.state =
    s.sched.state ∨ (s.release i d r).sched.state = .halted := by
  have hw : ∀ b, (s.withPools b).sched.state = s.sched.state ∨ (s.withPools b).sched.state = .halted := by
    intro b
    unfold State.withPools State.checkRetired; simp only; split_ifs
    · right; rfl
    · left; rfl
    · left; rfl
  unfold State.release; simp only; split_ifs
  · left; simp
  · split <;> simpa using hw _

/-- Releases move the scheduler to HALTED or not at all (R145). -/
theorem State.state_releases (i : Nat) : ∀ (l : List (Nat × Reason)) (s : State), (s.releases i l).sched.state =
    s.sched.state ∨ (s.releases i l).sched.state = .halted
  | [], s => Or.inl rfl
  | (d, r) :: rest, s => by
    rw [State.releases]
    rcases State.state_releases i rest (s.release i d r) with h | h
    · rw [h]; exact State.state_release _ _ _ _
    · exact Or.inr h

/-- The scheduler after a slot is freed (R136, R144, R146). -/
theorem State.state_slotFreed (s : State) : (s.sched.state = .freezing → s.openSlots = 0 →
    s.slotFreed.sched.state = .frozen) ∧
   (s.sched.state = .halted → s.slotFreed.sched.state = .halted) ∧ (s.sched.state = .running →
       s.slotFreed.sched.state = .running) := by
  unfold State.slotFreed
  refine ⟨?_, ?_, ?_⟩
  · intro h1 h2; rw [if_pos ⟨h1, h2⟩]; rfl
  · intro h1; rw [if_neg (by rw [h1]; simp), State.state_checkStopped, if_neg (by rw [h1]; simp), h1]
  · intro h1; rw [if_neg (by rw [h1]; simp), State.state_checkStopped, if_neg (by rw [h1]; simp), h1]

/-- The end of a slot (R117): the slot FREE, the station torn down or its lists following, the scheduler told. `u` is
`s` after the frames of the grant have been dealt with. -/
theorem State.closeSlot_ends (s u : State) (i k : Nat) (hwf : Table.wf Station.free u.stations = true)
    (hsl : u.sched.slots = s.sched.slots)
   (hswf : Table.wf (none : Option Grant) s.sched.slots = true)
   (ha : (u.station i).admin ≠ .free) (hslot : (u.station i).slot = some k) (hlist : (u.station i).list = .none)
   (hs : (s.station i).slot = some k) (hsl2 : (s.station i).list = .none)
   (hcd : u.sched.candidate = s.sched.candidate) (hel : u.sched.entryList = s.sched.entryList)
    (hrl : u.sched.roundList = s.sched.roundList) :
   let t := u.closeSlot k i
   t.slot k = none ∧ OtherSlotsKeep s t k ∧
   ((u.station i).admin = .purging ∧ u.onPurgeList i = false ∧ (u.station i).queue = [] → t.station i = Station.free) ∧
   (¬ ((u.station i).admin = .purging ∧ u.onPurgeList i = false ∧ (u.station i).queue = []) →
       t.station i = { u.station i with slot := none, list := (t.station i).list } ∧ ListsFollow s t i true) ∧
   (u.sched.state = .freezing → t.openSlots = 0 → t.sched.state = .frozen)
    ∧ (u.sched.state = .halted → t.sched.state = .halted) ∧ (u.sched.state = .running → t.sched.state = .running) := by
  intro t
  obtain ⟨v, hv⟩ : ∃ v, v = (u.setSlot k none).change i true fun r => { r with slot := none } := ⟨_, rfl⟩
  have ht : t = (v.checkTeardown i).slotFreed := by rw [hv]; rfl
  have hus : (u.setSlot k none).station i = u.station i := rfl
  have hvs : v.station i = { u.station i with slot := none, list := (v.station i).list } := by
    have := State.station_change (s := u.setSlot k none) (i := i) true (f := fun r => { r with slot := none }) ha
    rw [← hv] at this
    exact this
  have hvsl : v.sched.slots = Table.set none s.sched.slots k none := by
    rw [hv]; simp [State.setSlot, hsl]
  have htsl : t.sched.slots = Table.set none s.sched.slots k none := by rw [ht]; simp [hvsl]
  have hvwf : Table.wf Station.free v.stations = true := by
    rw [hv]; exact State.wf_relist _ _ _ _ (Table.wf_set hwf _ _)
  have hvpl : v.onPurgeList i = u.onPurgeList i := by unfold State.onPurgeList; rw [hv]; simp
  have hct := State.station_checkTeardown v hvwf i
  have hcond : ((v.station i).admin = .purging ∧ v.onPurgeList i = false ∧ (v.station i).queue = [] ∧ (v.station i).slot = none) ↔
     ((u.station i).admin = .purging ∧ u.onPurgeList i = false ∧ (u.station i).queue = []) := by
    have h1 : (v.station i).admin = (u.station i).admin := by rw [hvs]
    have h2 : (v.station i).queue = (u.station i).queue := by rw [hvs]
    have h3 : (v.station i).slot = none := by rw [hvs]
    rw [h1, h2, h3, hvpl]; tauto
  have hts : t.station i = (v.checkTeardown i).station i := by rw [ht]; exact State.station_congr (by simp) i
  have hst : (v.checkTeardown i).sched.state = u.sched.state := by rw [hv]; simp
  have hop : (v.checkTeardown i).openSlots = t.openSlots := by rw [ht]; exact (State.openSlots_congr (by simp)).symm
  refine ⟨?_, ?_, ?_, ?_, ?_, ?_, ?_⟩
  · unfold State.slot; rw [htsl, Table.get_set hswf, if_pos rfl]
  · intro l hl; unfold State.slot; rw [htsl, Table.get_set hswf, if_neg hl]
  · intro h; rw [hts, hct, if_pos (hcond.2 h)]
  · intro h
    have hne : v.checkTeardown i = v := by
      unfold State.checkTeardown; simp only; rw [if_neg (fun hc => h (hcond.1 hc))]
    rw [hct, if_neg (fun hc => h (hcond.1 hc))] at hts
    refine ⟨by rw [hts]; exact hvs, ?_⟩
    have hlf := State.listsFollow_change (s := u.setSlot k none) (i := i) true (f := fun r => { r with slot := none }) ha rfl
    rw [← hv] at hlf
    have hwas : (s.station i).eligible = false := by unfold Station.eligible; rw [hs]; simp
    have hwas2 : (u.station i).eligible = false := by unfold Station.eligible; rw [hslot]; simp
    have e1 : (u.setSlot k none).sched.candidate = s.sched.candidate := hcd
    have e2 : (u.setSlot k none).sched.entryList = s.sched.entryList := hel
    have e3 : (u.setSlot k none).sched.roundList = s.sched.roundList := hrl
    have e4 : t.sched.entryList = v.sched.entryList := by rw [ht]; simp
    have e5 : t.sched.roundList = v.sched.roundList := by rw [ht]; simp
    unfold ListsFollow at hlf ⊢
    simp only [hts, e4, e5, hsl2, hwas] at hlf ⊢
    rw [hus] at hlf
    simp only [hwas2, hlist, e1, e2, e3] at hlf
    exact hlf
  · intro h1 h2; rw [ht]; exact (State.state_slotFreed _).1 (by rw [hst]; exact h1) (by rw [hop]; exact h2)
  · intro h1; rw [ht]; exact (State.state_slotFreed _).2.1 (by rw [hst]; exact h1)
  · intro h1; rw [ht]; exact (State.state_slotFreed _).2.2 (by rw [hst]; exact h1)

/-- A top-up brings the number of top-ups needed down. -/
theorem topUpsNeeded_step (d : Int) (q : Nat) (hq : 1 ≤ q) (hd : d ≤ 0) :
    topUpsNeeded (d + q) q + 1 ≤ topUpsNeeded d q := by
  unfold topUpsNeeded
  rw [if_neg (by omega : ¬ 0 < d)]
  split_ifs with h
  · exact Nat.succ_le_succ (Nat.zero_le _)
  · obtain ⟨m, rfl⟩ : ∃ m : Nat, d = -(m : Int) := ⟨(-d).toNat, by omega⟩
    have hm : q ≤ m := by omega
    have e1 : (-(-(m : Int) + q)).toNat = m - q := by omega
    have e2 : (- -(m : Int)).toNat = m := by omega
    rw [e1, e2]
    have : m / q = (m - q) / q + 1 := by
      rw [← Nat.add_div_right _ (by omega)]; congr 1; omega
    omega

/-- A member of the Round List in an ordinary state: its quantum is not 0 and its record is not FREE. -/
def State.ToppedUp (s : State) (i : Nat) : Prop := 1 ≤ (s.liveClass (s.station i)).quantum ∧ (s.station i).admin ≠ .free

/-- The records after one top-up (R97). -/
theorem State.station_topUpHead (s : State) (i : Nat) (rest) (h : s.ToppedUp i) (j : Nat) :
    (s.topUpHead i rest).station j =
    if j = i then { s.station i with deficit := (s.station i).deficit + (s.liveClass (s.station i)).quantum } else s.station j := by
  by_cases hj : j = i
  · subst hj; rw [if_pos rfl]; exact Table.get_set_same_of_ne _ _ _ (Station.ne_free h.2)
  · rw [if_neg hj]; exact Table.get_set_ne _ _ _ _ _ hj

/-- The top-up of a Round List that is not empty ends at a head with a deficit above 0 (R97), by top-ups alone. -/
theorem State.topUp_finds : ∀ (n : Nat) (s : State), (∀ i ∈ s.sched.roundList, s.ToppedUp i) →
    s.sched.roundList ≠ [] → s.topUpBound ≤ n →
    ∃ i rest u, State.topUp n s = (some i, u) ∧ TopUps s u ∧ u.sched.roundList = i :: rest ∧ 0 < (u.station i).deficit ∧
      u.sched.entryList = s.sched.entryList ∧ (u.station i).admin ≠ .free := by
  intro n
  induction n with
  | zero =>
    intro s hg hne hb
    cases hl : s.sched.roundList with
    | nil => exact absurd hl hne
    | cons i rest =>
      have hi := hg i (by rw [hl]; simp)
      have : 0 < (s.station i).deficit := by
        by_contra hc
        have hn : 1 ≤ topUpsNeeded (s.station i).deficit (s.liveClass (s.station i)).quantum := by
          unfold topUpsNeeded; rw [if_neg hc]; exact Nat.succ_le_succ (Nat.zero_le _)
        unfold State.topUpBound at hb; rw [hl] at hb; simp at hb; omega
      exact ⟨i, rest, s, by unfold State.topUp; rw [hl]; simp [this], .none s, hl, this, rfl, hi.2⟩
  | succ n ih =>
    intro s hg hne hb
    cases hl : s.sched.roundList with
    | nil => exact absurd hl hne
    | cons i rest =>
      have hi := hg i (by rw [hl]; simp)
      by_cases hd : 0 < (s.station i).deficit
      · exact ⟨i, rest, s, by unfold State.topUp; rw [hl]; simp [hd], .none s, hl, hd, rfl, hi.2⟩
      · have hst := State.station_topUpHead s i rest hi
        have hlc : ∀ j, ((s.topUpHead i rest).liveClass ((s.topUpHead i rest).station j)) = s.liveClass (s.station j) := by
          intro j; rw [hst]; split_ifs with h
          · subst h; rfl
          · rfl
        have hmem : (s.topUpHead i rest).sched.roundList = rest ++ [i] := rfl
        obtain ⟨k, rest', u, h1, h2, h3, h4, h5, h6⟩ := ih (s.topUpHead i rest) (by
            intro j hj
            rw [hmem] at hj
            have hjm : j ∈ s.sched.roundList := by rw [hl]; simp at hj ⊢; tauto
            have := hg j hjm
            refine ⟨by rw [hlc]; exact this.1, ?_⟩
            rw [hst]; split_ifs with h
            · subst h; exact this.2
            · exact this.2) (by rw [hmem]; simp) (by
            unfold State.topUpBound at hb ⊢
            rw [hl] at hb; rw [hmem]
            simp only [List.map_append, List.map_cons, List.map_nil, List.sum_append, List.sum_cons, List.sum_nil] at hb ⊢
            simp only [hlc]
            have e1 : topUpsNeeded ((s.topUpHead i rest).station i).deficit (s.liveClass (s.station i)).quantum + 1
                ≤ topUpsNeeded (s.station i).deficit (s.liveClass (s.station i)).quantum := by
              rw [hst, if_pos rfl]; exact topUpsNeeded_step _ _ hi.1 (by omega)
            have e2 : (rest.map fun j => topUpsNeeded ((s.topUpHead i rest).station j).deficit (s.liveClass (s.station j)).quantum).sum ≤
               (rest.map fun j => topUpsNeeded (s.station j).deficit (s.liveClass (s.station j)).quantum).sum := by
              apply List.sum_le_sum
              intro j _
              rw [hst]; split_ifs with h
              · subst h
                have := topUpsNeeded_step (s.station j).deficit _ hi.1 (by omega)
                simp only at this ⊢; omega
              · exact le_refl _
            omega)
        refine ⟨k, rest', u, ?_, ?_, h3, h4, h5, h6⟩
        · rw [State.topUp.eq_def]; simp only [hl, hd, if_false]; exact h1
        · exact .more hl (by omega) h2

end Sys2Proof.Machine
end

