-- ==== Sys2Proof/Laws/Endings.lean ====
section
/-! SUPPORT. What ends frames and grants, as operations that come to the same in either order: a release and a change of
its station's record, or of another descriptor; a fault claim and the list of those waiting. With these a run of single
removals and releases becomes one removal and the releases after it. Also what the freeing of a slot comes to, whole. -/

namespace Sys2Proof.Machine

/-! ### States that differ in records and descriptors only -/

/-- The states agree but for records and descriptors. -/
def State.AgreesButTables (s t : State) : Prop :=
  t = { s with stations := t.stations, bm := { s.bm with descs := t.bm.descs } }

namespace State.AgreesButTables
variable {s t u : State}

theorem form (h : s.AgreesButTables t) :
    ∃ stations descs, t = { s with stations := stations, bm := { s.bm with descs := descs } } := ⟨_, _, h⟩

theorem trans (h : s.AgreesButTables t) (g : t.AgreesButTables u) : s.AgreesButTables u := by
  obtain ⟨_, _, rfl⟩ := h.form
  obtain ⟨_, _, rfl⟩ := g.form
  rfl

theorem flip (h : s.AgreesButTables t) : t.AgreesButTables s := by
  obtain ⟨_, _, rfl⟩ := h.form
  rfl

/-- Canonical states that agree but for tables, and whose tables read alike, are one. -/
theorem eq (h : s.AgreesButTables t) (h1 : Table.wf Station.free s.stations = true)
    (h2 : Table.wf Station.free t.stations = true) (h3 : Table.wf Descriptor.cleared s.bm.descs = true)
    (h4 : Table.wf Descriptor.cleared t.bm.descs = true) (hs : ∀ j, t.station j = s.station j)
    (hd : ∀ d, t.desc d = s.desc d) : t = s := by
  rw [h, Table.ext_get h2 h1 hs, Table.ext_get h4 h3 hd]

theorem count (h : s.AgreesButTables t) (i f g) : (s.count i f).AgreesButTables (t.count i g) := by
  obtain ⟨_, _, rfl⟩ := h.form
  unfold State.count
  split_ifs <;> rfl

theorem report (h : s.AgreesButTables t) (p i c f) :
    (s.reportFault p i c f).AgreesButTables (t.reportFault p i c f) := by
  obtain ⟨_, _, rfl⟩ := h.form
  unfold State.reportFault State.record
  by_cases hc : f.cause = .uncorrectable
  · rw [if_pos hc]; rfl
  · rw [if_neg hc]; rfl

theorem claim (h : s.AgreesButTables t) (p) (i : Nat) (ha : (t.station i).admin = (s.station i).admin) :
    (s.claimFault p i).AgreesButTables (t.claimFault p i) := by
  unfold State.claimFault
  rw [ha]
  obtain ⟨_, _, rfl⟩ := h.form
  rfl

theorem toReclaim (h : s.AgreesButTables t) (d : Nat) : (s.toReclaim d).AgreesButTables (t.toReclaim d) := by
  obtain ⟨_, _, rfl⟩ := h.form
  rfl

theorem dispose (h : s.AgreesButTables t) (d : Nat) (r) : (s.dispose d r).AgreesButTables (t.dispose d r) := by
  obtain ⟨_, _, rfl⟩ := h.form
  rfl

theorem checkRetired (h : s.AgreesButTables t) : s.checkRetired.AgreesButTables t.checkRetired := by
  obtain ⟨_, _, rfl⟩ := h.form
  unfold State.checkRetired
  by_cases hc : s.sched.state.canHalt = true ∧ s.rp.options.retireLimit ≤ s.bm.retiredCount
  · rw [if_pos hc, if_pos (by exact hc)]; rfl
  · rw [if_neg hc, if_neg (by exact hc)]; rfl

theorem withPools (h : s.AgreesButTables t) (b : BufferManager) (descs) :
    (s.withPools b).AgreesButTables (t.withPools { b with descs := descs }) := by
  have hp : State.AgreesButTables { s with bm := BufferManager.evaluateFrom s.startUnsent s.bm b }
      { t with bm := BufferManager.evaluateFrom t.startUnsent t.bm { b with descs := descs } } := by
    obtain ⟨_, _, rfl⟩ := h.form
    rfl
  have e : t.bm.retiredCount = s.bm.retiredCount := by rw [h]; rfl
  unfold State.withPools
  simp only [e, show ({ b with descs := descs } : BufferManager).retiredCount = b.retiredCount from rfl]
  split_ifs
  · exact hp.checkRetired
  · exact hp

end State.AgreesButTables

/-! ### A release looks at one record's admin state and at one descriptor -/

theorem BufferManager.releaseEntries_withDescs (d : Nat) (bad : Option Nat) (len : Nat) (descs : Table Descriptor) :
    ∀ (l : List Segment) (k sum : Nat) (b : BufferManager),
      BufferManager.releaseEntries d bad len l k sum { b with descs := descs } =
        ((BufferManager.releaseEntries d bad len l k sum b).1,
          { (BufferManager.releaseEntries d bad len l k sum b).2 with descs := descs })
  | [], _, _, _ => rfl
  | g :: rest, k, sum, b => by
    rw [BufferManager.releaseEntries, BufferManager.releaseEntries]
    have e : ({ b with descs := descs } : BufferManager).entryFault d k g = b.entryFault d k g := rfl
    rw [e]
    cases b.entryFault d k g with
    | some f => rfl
    | none =>
      simp only
      rw [← BufferManager.releaseEntries_withDescs d bad len descs rest]
      congr 1
      split_ifs <;> rfl

/-- A release walk reads its own descriptor and no other. -/
theorem BufferManager.releaseWalk_withDescs (b : BufferManager) (descs : Table Descriptor) (d : Nat)
    (h : Table.get Descriptor.cleared descs d = b.desc d) :
    ({ b with descs := descs } : BufferManager).releaseWalk d =
      ((b.releaseWalk d).1, { (b.releaseWalk d).2 with descs := descs }) := by
  unfold BufferManager.releaseWalk
  have e : ({ b with descs := descs } : BufferManager).desc d = b.desc d := h
  simp only [e]
  split_ifs
  · exact BufferManager.releaseEntries_withDescs _ _ _ _ _ _ _ _
  · rfl

section
variable {s t : State}

/-- What a release does to everything but tables depends on neither table, but for the admin state of the record and the
descriptor released. -/
theorem State.AgreesButTables.release (h : s.AgreesButTables t) (i d : Nat) (reason : Reason)
    (ha : (t.station i).admin = (s.station i).admin) (hd : t.desc d = s.desc d) :
    (s.release i d reason).AgreesButTables (t.release i d reason) := by
  have hw := s.bm.releaseWalk_withDescs t.bm.descs d hd
  have hb : t.bm = { s.bm with descs := t.bm.descs } := congrArg State.bm h
  rw [← hb] at hw
  unfold State.release
  simp only
  rw [hd]
  split_ifs with hm
  · exact (h.toReclaim d).count _ _ _
  · rw [hw]
    obtain ⟨wf, wb, hx⟩ : ∃ wf wb, s.bm.releaseWalk d = (wf, wb) := ⟨_, _, rfl⟩
    rw [hx]
    cases wf with
    | none => exact ((h.withPools wb _).dispose d _).count _ _ _
    | some f =>
      refine ((((h.withPools wb _).report _ _ _ _).claim _ _ ?_).toReclaim d).count _ _ _
      rw [State.station_congr (s := t) (by simp),
        State.station_congr (t := (s.withPools wb).reportFault _ _ _ _) (s := s) (by simp), ha]

theorem State.counters_count {u v : State} (i : Nat) (f : StationCounters → StationCounters)
    (ha : (v.station i).admin = (u.station i).admin) (hc : (v.station i).counters = (u.station i).counters) :
    ((v.count i f).station i).counters = ((u.count i f).station i).counters := by
  by_cases hf : (u.station i).admin = .free
  · unfold State.count; rw [if_pos hf, if_pos (ha.trans hf)]; exact hc
  · rw [State.station_count_same u i f hf, State.station_count_same v i f (by rw [ha]; exact hf)]
    simp only
    rw [hc]

/-- The counters a release leaves depend on the record's counters and admin state and on the descriptor released. -/
theorem State.AgreesButTables.counters_release (h : s.AgreesButTables t) (i d : Nat) (reason : Reason)
    (ha : (t.station i).admin = (s.station i).admin) (hc : (t.station i).counters = (s.station i).counters)
    (hd : t.desc d = s.desc d) :
    ((t.release i d reason).station i).counters = ((s.release i d reason).station i).counters := by
  have hw := s.bm.releaseWalk_withDescs t.bm.descs d hd
  have hb : t.bm = { s.bm with descs := t.bm.descs } := congrArg State.bm h
  rw [← hb] at hw
  have key : ∀ (u v : State) (f : StationCounters → StationCounters), u.stations = s.stations →
      v.stations = t.stations → ((v.count i f).station i).counters = ((u.count i f).station i).counters := by
    intro u v f hu hv
    apply State.counters_count
    · rw [State.station_congr hu, State.station_congr hv, ha]
    · rw [State.station_congr hu, State.station_congr hv, hc]
  unfold State.release
  simp only
  rw [hd]
  split_ifs with hm
  · exact key _ _ _ (by simp) (by simp)
  · rw [hw]
    obtain ⟨wf, wb, hx⟩ : ∃ wf wb, s.bm.releaseWalk d = (wf, wb) := ⟨_, _, rfl⟩
    rw [hx]
    cases wf with
    | none => exact key _ _ _ (by simp) (by simp)
    | some f => exact key _ _ _ (by simp) (by simp)

/-- The descriptor a release leaves depends on the descriptor released. -/
theorem State.AgreesButTables.desc_release (h : s.AgreesButTables t) (i d : Nat) (reason : Reason)
    (hd : t.desc d = s.desc d) : (t.release i d reason).desc d = (s.release i d reason).desc d := by
  have hw := s.bm.releaseWalk_withDescs t.bm.descs d hd
  have hb : t.bm = { s.bm with descs := t.bm.descs } := congrArg State.bm h
  rw [← hb] at hw
  have reclaimed : ∀ (u : State) (f : StationCounters → StationCounters),
      ((u.toReclaim d).count i f).desc d = { u.desc d with reason := some .chainFault, place := .reclaim } := by
    intro u f
    rw [State.desc_congr
      (s := u.setDesc d { u.desc d with reason := some .chainFault, place := .reclaim }) (by simp [State.toReclaim])]
    exact u.desc_setDesc_same d (Descriptor.ne_cleared (by simp))
  have disposed : ∀ (u : State) (f : StationCounters → StationCounters),
      ((u.dispose d reason).count i f).desc d = { u.desc d with reason := some reason, place := .disposal } := by
    intro u f
    rw [State.desc_congr
      (s := u.setDesc d { u.desc d with reason := some reason, place := .disposal }) (by simp [State.dispose])]
    exact u.desc_setDesc_same d (Descriptor.ne_cleared (by simp))
  unfold State.release
  simp only
  rw [hd]
  split_ifs with hm
  · rw [reclaimed, reclaimed, hd]
  · have hwe := BufferManager.releaseWalk_eq s.bm d
    rw [hw]
    obtain ⟨wf, wb, hx⟩ : ∃ wf wb, s.bm.releaseWalk d = (wf, wb) := ⟨_, _, rfl⟩
    rw [hx] at hwe ⊢
    simp only at hwe
    have hs : (s.withPools wb).desc d = s.desc d := State.desc_withPools (by rw [hwe]) d
    have ht : (t.withPools { wb with descs := t.bm.descs }).desc d = s.desc d :=
      (State.desc_withPools (b := { wb with descs := t.bm.descs }) rfl d).trans hd
    have reported : ∀ (u : State) c f, ((u.reportFault .release i c f).claimFault .release i).desc d = u.desc d :=
      fun u c f => State.desc_congr (by simp) d
    cases wf with
    | none => simp only; rw [disposed, disposed, hs, ht]
    | some f =>
      simp only
      rw [reclaimed, reclaimed, reported, reported, hs, ht]

end

theorem State.wf_descs_release (s : State) (i d r) (h : Table.wf Descriptor.cleared s.bm.descs = true) :
    Table.wf Descriptor.cleared (s.release i d r).bm.descs = true := by
  have key : ∀ u : State, u.bm.descs = s.bm.descs → ∀ f,
      (∀ r, Table.wf Descriptor.cleared ((u.dispose d r).count i f).bm.descs = true)
        ∧ Table.wf Descriptor.cleared ((u.toReclaim d).count i f).bm.descs = true := by
    intro u hu f
    simp only [State.count_bm, State.dispose, State.toReclaim, State.setDesc, BufferManager.setDesc]
    rw [hu]
    exact ⟨fun _ => Table.wf_set h _ _, Table.wf_set h _ _⟩
  unfold State.release; simp only; split_ifs
  · exact (key s rfl _).2
  · have hw := BufferManager.releaseWalk_eq s.bm d
    split
    next b hb =>
      rw [hb] at hw
      have hd : b.descs = s.bm.descs := by simp only at hw; rw [hw]
      exact (key (s.withPools b) (by rw [State.withPools_bm]; exact hd) _).1 _
    next f b hb =>
      rw [hb] at hw
      have hd : b.descs = s.bm.descs := by simp only at hw; rw [hw]
      refine (key (((s.withPools b).reportFault .release i (s.desc d).cookie f).claimFault .release i) ?_ _).2
      simp only [State.claimFault_bm, State.reportFault_bm, State.withPools_bm]
      exact hd

theorem State.wf_descs_releases (i : Nat) : ∀ (l : List (Nat × Reason)) (s : State),
    Table.wf Descriptor.cleared s.bm.descs = true → Table.wf Descriptor.cleared (s.releases i l).bm.descs = true
  | [], _, h => h
  | (d, r) :: rest, s, h => State.wf_descs_releases i rest _ (State.wf_descs_release s i d r h)

theorem State.releases_append (i : Nat) : ∀ (l m : List (Nat × Reason)) (s : State),
    s.releases i (l ++ m) = (s.releases i l).releases i m
  | [], _, _ => rfl
  | (d, r) :: l, m, s => by rw [List.cons_append, State.releases, State.releases, State.releases_append i l m]

/-! ### A release and a change of the record, or of another descriptor, in either order -/

/-- A change of the record of `i` that leaves its admin state and its counters alone may be made before the release or
after it. -/
theorem State.setStation_release (s : State) (i d : Nat) (r : Reason) (f : Station → Station)
    (hw : Table.wf Station.free s.stations = true) (hd : Table.wf Descriptor.cleared s.bm.descs = true)
    (ha : (s.station i).admin ≠ .free) (hf : ∀ x, (f x).admin = x.admin ∧ (f x).counters = x.counters)
    (hc : ∀ x c, f { x with counters := c } = { f x with counters := c }) :
    (s.release i d r).setStation i (f ((s.release i d r).station i)) =
      (s.setStation i (f (s.station i))).release i d r := by
  have hne : ∀ x : Station, x.admin ≠ .free → f x ≠ Station.free := fun x hx =>
    Station.ne_free (by rw [(hf x).1]; exact hx)
  have hp : (s.setStation i (f (s.station i))).station i = f (s.station i) := s.station_setStation_same i (hne _ ha)
  have hag : s.AgreesButTables (s.setStation i (f (s.station i))) := rfl
  have hr := hag.release i d r (by rw [hp, (hf _).1]) rfl
  have hcnt := hag.counters_release i d r (by rw [hp, (hf _).1]) (by rw [hp, (hf _).2]) rfl
  have hds := hag.desc_release i d r rfl
  have hra : ((s.release i d r).station i).admin ≠ .free := by rw [State.station_release]; exact ha
  have hlast : (s.release i d r).AgreesButTables
      ((s.release i d r).setStation i (f ((s.release i d r).station i))) := rfl
  refine (hr.flip.trans hlast).eq (State.wf_release _ _ _ _ (Table.wf_set hw _ _))
    (Table.wf_set (State.wf_release _ _ _ _ hw) _ _) (State.wf_descs_release _ _ _ _ hd)
    (State.wf_descs_release _ _ _ _ hd) ?_ ?_
  · intro j
    by_cases hj : j = i
    · subst hj
      rw [State.station_setStation_same _ _ (hne _ hra), State.station_release (s.setStation j _), hp, hcnt]
      conv_lhs => rw [State.station_release, hc]
    · rw [State.station_setStation_ne _ _ hj, State.station_release_ne _ _ _ hj, State.station_release_ne _ _ _ hj,
        State.station_setStation_ne _ _ hj]
  · intro e
    show (s.release i d r).desc e = _
    by_cases he : e = d
    · rw [he, hds]
    · rw [State.desc_release_ne _ _ he, State.desc_release_ne _ _ he]; rfl

/-- The same for the releases asked for in one step. -/
theorem State.setStation_releases (i : Nat) (f : Station → Station)
    (hf : ∀ x, (f x).admin = x.admin ∧ (f x).counters = x.counters)
    (hc : ∀ x c, f { x with counters := c } = { f x with counters := c }) :
    ∀ (l : List (Nat × Reason)) (s : State), Table.wf Station.free s.stations = true →
      Table.wf Descriptor.cleared s.bm.descs = true → (s.station i).admin ≠ .free →
      (s.releases i l).setStation i (f ((s.releases i l).station i)) =
        (s.setStation i (f (s.station i))).releases i l
  | [], _, _, _, _ => rfl
  | (d, r) :: l, s, hw, hd, ha => by
    rw [State.releases, State.releases,
      State.setStation_releases i f hf hc l _ (State.wf_release _ _ _ _ hw) (State.wf_descs_release _ _ _ _ hd)
        (by rw [State.station_release]; exact ha),
      State.setStation_release s i d r f hw hd ha hf hc]

/-- Another descriptor may be written before the release or after it. -/
theorem State.setDesc_release (s : State) (i d e : Nat) (r : Reason) (y : Descriptor) (hne : d ≠ e)
    (hw : Table.wf Station.free s.stations = true) (hd : Table.wf Descriptor.cleared s.bm.descs = true) :
    (s.release i e r).setDesc d y = (s.setDesc d y).release i e r := by
  have hag : s.AgreesButTables (s.setDesc d y) := rfl
  have hde : (s.setDesc d y).desc e = s.desc e := s.desc_setDesc_ne _ (Ne.symm hne)
  have hr := hag.release i e r rfl hde
  have hcnt := hag.counters_release i e r rfl rfl hde
  have hds := hag.desc_release i e r hde
  have hget : ∀ (u : State) f, Table.wf Descriptor.cleared u.bm.descs = true →
      (u.setDesc d y).desc f = if f = d then y else u.desc f := fun _ _ hu => Table.get_set hu _ _ _
  have hlast : (s.release i e r).AgreesButTables ((s.release i e r).setDesc d y) := rfl
  refine (hr.flip.trans hlast).eq (State.wf_release _ _ _ _ hw)
    (State.wf_release _ _ _ _ hw) (State.wf_descs_release _ _ _ _ (Table.wf_set hd _ _))
    (Table.wf_set (State.wf_descs_release _ _ _ _ hd) _ _) ?_ ?_
  · intro j
    show (s.release i e r).station j = _
    by_cases hj : j = i
    · subst hj
      have h1 := State.station_release s j e r
      have h2 := State.station_release (s.setDesc d y) j e r
      rw [hcnt] at h2
      exact h1.trans h2.symm
    · rw [State.station_release_ne _ _ _ hj, State.station_release_ne _ _ _ hj]; rfl
  · intro f
    rw [hget _ _ (State.wf_descs_release _ _ _ _ hd)]
    by_cases hf : f = e
    · rw [hf, if_neg (Ne.symm hne), hds]
    · rw [State.desc_release_ne _ _ hf, State.desc_release_ne _ _ hf, hget _ _ hd]

/-- The same for the releases asked for in one step. -/
theorem State.setDesc_releases (i d : Nat) (y : Descriptor) : ∀ (l : List (Nat × Reason)) (s : State),
    d ∉ l.map Prod.fst → Table.wf Station.free s.stations = true → Table.wf Descriptor.cleared s.bm.descs = true →
      (s.releases i l).setDesc d y = (s.setDesc d y).releases i l
  | [], _, _, _, _ => rfl
  | (e, r) :: l, s, h, hw, hd => by
    simp only [List.map_cons, List.mem_cons, not_or] at h
    rw [State.releases, State.releases,
      State.setDesc_releases i d y l _ h.2 (State.wf_release _ _ _ _ hw) (State.wf_descs_release _ _ _ _ hd),
      State.setDesc_release _ _ _ _ _ _ h.1 hw hd]

/-! ### The Poll Queue and the fault claims in hand touch no release, and no claim -/

/-- The state with another Poll Queue. -/
def State.withPollQueue (s : State) (q : List Nat) : State := { s with sched := { s.sched with pollQueue := q } }

theorem State.release_withPollQueue (s : State) (q : List Nat) (i d : Nat) (r : Reason) :
    (s.withPollQueue q).release i d r = (s.release i d r).withPollQueue q := by
  have count : ∀ (u : State) f, (u.withPollQueue q).count i f = (u.count i f).withPollQueue q := by
    intro u f
    unfold State.count
    rw [show (u.withPollQueue q).station i = u.station i from rfl]
    split_ifs <;> rfl
  have retired : ∀ u : State, (u.withPollQueue q).checkRetired = u.checkRetired.withPollQueue q := by
    intro u
    unfold State.checkRetired
    by_cases h : u.sched.state.canHalt = true ∧ u.rp.options.retireLimit ≤ u.bm.retiredCount
    · rw [if_pos h, if_pos (by exact h)]; rfl
    · rw [if_neg h, if_neg (by exact h)]
  have pools : ∀ b, (s.withPollQueue q).withPools b = (s.withPools b).withPollQueue q := by
    intro b
    unfold State.withPools
    simp only
    rw [show (s.withPollQueue q).bm = s.bm from rfl, show (s.withPollQueue q).startUnsent = s.startUnsent from rfl]
    split_ifs
    · exact retired { s with bm := BufferManager.evaluateFrom s.startUnsent s.bm b }
    · rfl
  unfold State.release
  simp only
  rw [show (s.withPollQueue q).desc d = s.desc d from rfl, show (s.withPollQueue q).bm = s.bm from rfl]
  split_ifs
  · exact count (s.toReclaim d) _
  · obtain ⟨wf, wb, hx⟩ : ∃ wf wb, s.bm.releaseWalk d = (wf, wb) := ⟨_, _, rfl⟩
    rw [hx]
    cases wf with
    | none => simp only [pools]; exact count ((s.withPools wb).dispose d r) _
    | some f =>
      simp only [pools]
      exact count ((((s.withPools wb).reportFault .release i (s.desc d).cookie f).claimFault .release i).toReclaim d) _

theorem State.releases_withPollQueue (i : Nat) (q : List Nat) : ∀ (l : List (Nat × Reason)) (s : State),
    (s.withPollQueue q).releases i l = (s.releases i l).withPollQueue q
  | [], _ => rfl
  | (d, r) :: l, s => by
    rw [State.releases, State.releases, State.release_withPollQueue, State.releases_withPollQueue i q l]

/-- The state with other fault claims in hand. -/
def State.withClaims (s : State) (x : List FaultClaim) : State := { s with faultClaims := x }

theorem State.change_withClaims (s : State) (x : List FaultClaim) (i : Nat) (freed : Bool) (f : Station → Station) :
    (s.withClaims x).change i freed f = (s.change i freed f).withClaims x := by
  have join : ∀ (u : State) freed, (u.withClaims x).joinList i freed = (u.joinList i freed).withClaims x := by
    intro u freed
    unfold State.joinList
    simp only
    rw [show (u.withClaims x).station i = u.station i from rfl]
    split_ifs <;> rfl
  have relist : ∀ (u : State) was freed, (u.withClaims x).relist i was freed = (u.relist i was freed).withClaims x := by
    intro u was freed
    unfold State.relist
    rw [show (u.withClaims x).sched.candidate = u.sched.candidate from rfl,
      show (u.withClaims x).station i = u.station i from rfl]
    split_ifs
    · rfl
    · exact join _ _
    · rfl
    · rfl
  exact relist (s.setStation i (f (s.station i))) _ _

/-- A fault claim is taken at its record whatever other claims wait. -/
theorem State.takeClaim_withClaims (s : State) (x : List FaultClaim) (c : FaultClaim) :
    (s.withClaims x).takeClaim c = (s.takeClaim c).withClaims x := by
  have poll : ∀ (u : State) i, (u.withClaims x).cancelPoll i = (u.cancelPoll i).withClaims x := by
    intro u i
    unfold State.cancelPoll
    rw [show (u.withClaims x).station i = u.station i from rfl]
    split_ifs <;> rfl
  have stopped : ∀ u : State, (u.withClaims x).checkStopped = u.checkStopped.withClaims x := by
    intro u
    unfold State.checkStopped
    by_cases h : u.sched.state = .stopping ∧ u.hasStopEntry = false ∧ u.openSlots = 0
    · rw [if_pos h, if_pos (by exact h)]; rfl
    · rw [if_neg h, if_neg (by exact h)]
  have escalate : ∀ i, (s.withClaims x).escalate i = (s.escalate i).withClaims x := by
    intro i
    unfold State.escalate
    simp only [State.change_withClaims, poll]
    obtain ⟨u, hu⟩ : ∃ u, u = (s.change i false fun r => { r with admin := .faulted }).cancelPoll i := ⟨_, rfl⟩
    rw [← hu, show (u.withClaims x).purge = u.purge from rfl]
    split_ifs
    · exact stopped ({ u with purge := askPurge u.purge i .fault }.record (.stationFaulted i))
    · rfl
  unfold State.takeClaim
  rw [show (s.withClaims x).station c.station = s.station c.station from rfl]
  split_ifs
  · exact escalate _
  · rfl
  · rfl

/-! ### The freeing of a slot, and issue -/

theorem State.slotFreed_eq (u : State) :
    u.slotFreed =
      if u.sched.state = .freezing ∧ u.openSlots = 0 then
        { u with
          sched := { u.sched with state := .frozen }
          events := u.events.put u.timeBase (.frozen u.sched.causes) }
      else u.offIfDrained := by
  unfold State.slotFreed
  by_cases h : u.sched.state = .freezing ∧ u.openSlots = 0
  · rw [if_pos h, if_pos h]
    apply State.ext_fields <;> simp [Sweep.onState, h.1, SchedState.sweeps]
  · rw [if_neg h, if_neg h, State.checkStopped_eq]

/-- FREEZING stays FREEZING while a slot is open (R136). -/
theorem State.state_slotFreed_open {s : State} (h : s.sched.state = .freezing) (ho : s.openSlots ≠ 0) :
    s.slotFreed.sched.state = .freezing := by
  unfold State.slotFreed
  rw [if_neg fun hc => ho hc.2, State.state_checkStopped, if_neg (by rw [h]; simp), h]

/-- The end of a grant frees its slot in the sense of `SlotCloses` (R117, R136, R144, R157). -/
theorem State.closeSlot_closes (w : State) (k i : Nat) (hsl : Table.wf (none : Option Grant) w.sched.slots = true)
    (hst : Table.wf Station.free w.stations = true) (ha : (w.station i).admin ≠ .free) :
    w.SlotCloses k i (w.closeSlot k i) := by
  obtain ⟨v, hv⟩ : ∃ v, v = (w.setSlot k none).change i true fun r => { r with slot := none } := ⟨_, rfl⟩
  have hvs : v.station i = { w.station i with slot := none, list := (v.station i).list } := by
    rw [hv]
    exact State.station_change (s := w.setSlot k none) (i := i) true (f := fun r => { r with slot := none }) ha
  have hvw : Table.wf Station.free v.stations = true := by
    rw [hv]; exact State.wf_relist _ _ _ _ (Table.wf_set hst _ _)
  have hct := State.station_checkTeardown v hvw i
  have hcond : ((v.station i).admin = .purging ∧ v.onPurgeList i = false ∧ (v.station i).queue = []
      ∧ (v.station i).slot = none) ↔ w.TornDown i (w.station i) := by
    have h1 : (v.station i).admin = (w.station i).admin := by rw [hvs]
    have h2 : (v.station i).queue = (w.station i).queue := by rw [hvs]
    have h3 : (v.station i).slot = none := by rw [hvs]
    have h4 : v.onPurgeList i = w.onPurgeList i := by unfold State.onPurgeList; rw [hv]; simp
    rw [h1, h2, h3, h4]; unfold State.TornDown; tauto
  have hlf := State.listsFollow_change (s := w.setSlot k none) (i := i) true (f := fun r => { r with slot := none }) ha rfl
  rw [← hv] at hlf
  have hev : v.events = w.events := by rw [hv]; simp
  have htb : v.timeBase = w.timeBase := by rw [hv]; simp
  refine ⟨v.checkTeardown i, ?_, ?_, ?_, ?_, ?_, ?_, ?_⟩
  · rw [← State.slotFreed_eq, hv]; rfl
  · apply State.ext_fields <;> (try rfl) <;> (try (simp [hv]; done))
    apply Scheduler.ext_fields <;> simp [hv]
  · unfold State.slot
    simp only [State.checkTeardown_sched, hv]
    simp [State.setSlot, Table.get_set hsl]
  · intro l hl
    unfold State.slot
    simp only [State.checkTeardown_sched, hv]
    simp [State.setSlot, Table.get_set hsl, hl]
  · intro j hj
    rw [State.station_checkTeardown_ne _ hj, hv, State.station_change_ne _ _ _ hj]; rfl
  · intro h
    refine ⟨by rw [hct, if_pos (hcond.2 h)], ?_, ?_⟩
    · unfold State.checkTeardown; simp only; rw [if_pos (hcond.2 h), ← hev, ← htb]; rfl
    · have e1 : (w.station i).eligible = false := by unfold Station.eligible; rw [h.1]; rfl
      have e2 : (v.station i).eligible = false := by unfold Station.eligible; rw [hvs]; simp only; rw [h.1]; rfl
      have e0 : (w.setSlot k none).station i = w.station i := rfl
      unfold ListsFollow at hlf
      simp only [e0, e1, e2, Bool.false_eq_true, and_false, false_and, if_false] at hlf
      simp only [State.checkTeardown_sched]
      exact hlf.2
  · intro h
    have hne : v.checkTeardown i = v := by
      unfold State.checkTeardown; simp only; rw [if_neg fun hc => h (hcond.1 hc)]
    rw [hne]
    exact ⟨hvs, hev, hlf⟩

/-- Issue (R107, R108, R13): what it writes outside the Station Table and the Grant Slots. -/
theorem State.issue_eq (v : State) (k i : Nat) (kind : GrantKind) (frames : List GrantFrame) (estimate : Nat) :
    let t := v.issue k i kind frames estimate
    t = { v with
      stations := t.stations
      sched := { v.sched with slots := t.sched.slots, serial := v.sched.serial + 1 }
      ctr := { v.ctr with grantsIssued := v.ctr.grantsIssued + 1 }
      feeder := if v.radio.up = true then some { slot := k, frame := 0, segment := 1, walk := none } else none
      radio := { v.radio with
        stream := some
          { slot := k, serial := v.sched.serial, station := i, kind := kind, count := frames.length, estimate := estimate
            lengths := frames.map GrantFrame.length, sections := []
            ended := if v.radio.up = true then .inProgress else .cut } } } := by
  intro t
  simp only [t]
  unfold State.issue
  simp only
  by_cases hup : v.radio.up = true
  · rw [if_pos hup, if_pos (show _ = true from by simpa [State.setStation, State.setSlot] using hup), if_pos hup]
    apply State.ext_fields <;> simp [State.setStation, State.setSlot, addTo]
  · rw [if_neg hup, if_neg (show ¬ (_ = true) from by simpa [State.setStation, State.setSlot] using hup), if_neg hup]
    unfold State.endStream
    simp only
    split
    all_goals (apply State.ext_fields <;> simp [State.setStation, State.setSlot, addTo])

end Sys2Proof.Machine
end

