-- ==== Sys2Proof/Laws/Requests.lean ====
section
/-! SUPPORT. Taking, refusing, answering and executing a request, one lemma each (R58, R176, R177). -/

set_option linter.unusedSimpArgs false

namespace Sys2Proof.Machine

/-- The state with `rest` waiting in the Request Queue. -/
abbrev State.awaiting (s : State) (rest : List Request) : State := { s with rp := { s.rp with queue := rest } }

/-- The head of the Request Queue is taken (R176). -/
theorem State.takeRequest_some {s : State} {q rest k} (h1 : s.rp.executing = none) (h2 : s.rp.held = none)
    (h3 : s.rp.stopped = false)
   (h4 : s.rp.queue = q :: rest) (h5 : RequestKind.ofCode q.code = k) : s.takeRequest k =
       some (q, s.awaiting rest) := by
  unfold State.takeRequest
  rw [if_pos (by simp [RequestProcessor.idle, h1, h2, h3]), h4]
  simp only [h5, if_true]

/-- A request is answered (R176, R183). -/
theorem State.finish_eq (t : State) (r : Response) (c : Option Cursor) : t.finish r c = t.answered t.rp.queue r c := by
  unfold State.finish State.handOver State.answered
  simp only
  cases h : t.tx.response with
  | none => simp [h]
  | some x => simp [h]; rw [← h]

/-- Checks 2 to 4 of R177 in order. -/
theorem requestFault_eq (k : RequestKind) (q : Request) (st : SchedState) : requestFault k q st =
   (if q.overLength = true then some Reason.badLength
       else if k.stateFault st ≠ none then k.stateFault st
       else if k.lengthOk q.body = false then some .badLength else none) := by
  unfold requestFault
  cases q.overLength <;> simp
  cases h : k.stateFault st <;> simp
  cases k.lengthOk q.body <;> simp

/-- A request that passes checks 1 to 4 runs. -/
theorem State.request_run {s : State} {k q rest} (h : s.Serves k q rest) (run : Request → State → State) :
    s.request k run = run q (s.awaiting rest) := by
  obtain ⟨h1, h2, h3, h4, h5, h6, h7, h8⟩ := h
  unfold State.request
  rw [State.takeRequest_some h1 h2 h3 h4 h5]
  have h7' : k.stateFault (s.awaiting rest).sched.state = none := h7
  simp [requestFault, h6, h7', h8]

/-- A request refused by checks 2 to 4 changes nothing else (R176). -/
theorem State.request_refused {s : State} {k q rest reason} (h1 : s.rp.executing = none) (h2 : s.rp.held = none)
    (h3 : s.rp.stopped = false)
   (h4 : s.rp.queue = q :: rest) (h5 : RequestKind.ofCode q.code = some k) (h : requestFault k q s.sched.state =
       some reason) (run) :
   s.request k run = s.answered rest (refusedResponse q reason) none := by
  unfold State.request
  rw [State.takeRequest_some h1 h2 h3 h4 h5]
  have h' : requestFault k q (s.awaiting rest).sched.state = some reason := h
  simp only [h']
  rw [State.finish_eq]; rfl

/-- A request executed claim by claim, refused by checks 2 to 5. -/
theorem State.claimRequest_refused {s : State} {k q rest reason} (h1 : s.rp.executing = none) (h2 : s.rp.held =
    none) (h3 : s.rp.stopped = false)
   (h4 : s.rp.queue = q :: rest) (h5 : RequestKind.ofCode q.code = some k) (fields)
    (h : (requestFault k q s.sched.state <|> fields q (s.awaiting rest)) = some reason) (claim n) :
   s.claimRequest k fields claim n = s.answered rest (refusedResponse q reason) none := by
  unfold State.claimRequest
  rw [h1, State.takeRequest_some h1 h2 h3 h4 h5]
  have h' : (requestFault k q (s.awaiting rest).sched.state <|> fields q (s.awaiting rest)) = some reason := h
  simp only [h']
  rw [State.finish_eq]; rfl

/-- A request executed claim by claim, begun (R59). -/
theorem State.claimRequest_begin {s : State} {k q rest} (h : s.Serves k q rest) (fields)
    (hf : fields q (s.awaiting rest) = none) (claim n) :
    s.claimRequest k fields claim n
      = State.claims claim n
          { s with rp := { s.rp with queue := rest, executing := some { request := q, done := 0, out := [] } } } := by
  obtain ⟨h1, h2, h3, h4, h5, h6, h7, h8⟩ := h
  unfold State.claimRequest
  rw [h1, State.takeRequest_some h1 h2 h3 h4 h5]
  have h' : (requestFault k q (s.awaiting rest).sched.state <|> fields q (s.awaiting rest)) = none := by
    rw [requestFault_eq, hf]
    have h7' : k.stateFault (s.awaiting rest).sched.state = none := h7
    simp [h6, h7', h8]
  simp only [h']

/-- One claim of the request in execution (R59). -/
theorem State.claimRequest_one {s : State} {k e} (h : s.Executes k e) (fields claim) :
    s.claimRequest k fields claim 1 = claim e s := by
  obtain ⟨h1, h2⟩ := h
  unfold State.claimRequest
  simp only [h1, h2, if_true]
  rw [State.claims]; simp only [h1]; rfl

/-- An answered request makes no further claim. -/
theorem State.claims_none (claim) {s : State} (h : s.rp.executing = none) : ∀ n, State.claims claim n s = s
  | 0 => rfl
  | n + 1 => by rw [State.claims]; simp only [h]

/-- Claims run on where they stopped. -/
theorem State.claims_add (claim) : ∀ m n s, State.claims claim (m + n) s = State.claims claim n (State.claims claim m s)
  | 0, n, s => by rw [Nat.zero_add]; rfl
  | m + 1, n, s => by
    rw [show m + 1 + n = (m + n) + 1 by omega]
    cases h : s.rp.executing with
    | none =>
      rw [State.claims, State.claims]; simp only [h]
      cases n with
      | zero => rfl
      | succ n => rw [State.claims]; simp only [h]
    | some e =>
      rw [State.claims, State.claims]; simp only [h]
      exact State.claims_add claim m n _

theorem State.finish_partly (s : State) (e : Execution) (i reason) :
    s.finish (e.request.partly e.done i reason) none = s.entryFails e i reason := by rw [State.finish_eq]; rfl

/-- An entry that takes effect (R58). -/
theorem State.entryClaim_ok (s s' : State) (e : Execution) (n ix : Nat) : s.entryClaim e n ix (.ok s') =
    s'.entryDone e n := by
  unfold State.entryClaim State.entryDone
  simp only [State.finish_eq]
  split_ifs
  · rfl
  · simp [State.progress]

/-- An entry that fails (R58). -/
theorem State.entryClaim_error (s : State) (e : Execution) (n ix : Nat) (r) : s.entryClaim e n ix (.error r) =
    s.entryFails e ix r := by
  unfold State.entryClaim; simp only; exact State.finish_partly _ _ _ _

end Sys2Proof.Machine
end

