-- ==== Sys2Proof/Laws/Walks.lean ====
section
/-! SUPPORT. The Chain Walker (R24, R26, R27): the checks of one entry, and both walks past a run of sound entries. -/

namespace Sys2Proof.Machine

/-- A sound entry passes checks 1 to 3 of R24. -/
theorem BufferManager.entryFault_sound {b : BufferManager} {d k g} (h : b.Sound d g) : b.entryFault d k g = none := by
  obtain ⟨h1, h2, h3, h4⟩ := h
  unfold BufferManager.entryFault
  rw [if_neg (by rw [Config.cellCount_eq]; omega), if_neg (by simp [h2])]
  simp only [Config.cellBytes_eq]
  rw [if_neg]; omega

/-- An entry that is not sound fails with its cause (R24). -/
theorem BufferManager.entryFault_unsound {b : BufferManager} {d k g} (h : ¬ b.Sound d g) : b.entryFault d k g =
    some { cause := (b.entryCause d g).1, segment := k, cell := (b.entryCause d g).2 } := by
  unfold BufferManager.entryFault BufferManager.entryCause
  simp only [Config.cellCount_eq, Config.cellBytes_eq]
  split_ifs with h1 h2 h3
  · rfl
  · rfl
  · exfalso; apply h; unfold BufferManager.Sound
    refine ⟨by omega, by simpa using h2, by omega, by omega⟩
  · rfl

/-- A release walk past sound entries that name different cells: each cell is freed, or retired if it is the bad cell (R26). -/
theorem BufferManager.releaseEntries_sound (d : Nat) (bad : Option Nat) (len : Nat) (after : List Segment) : ∀
    (l : List Segment) (k sum : Nat) (b : BufferManager),
   Table.wf Owner.free b.owners = true → (∀ h ∈ l, b.Sound d h) → (segmentCells l).Nodup →
   ∃ b', BufferManager.releaseEntries d bad len (l ++ after) k sum b =
       BufferManager.releaseEntries d bad len after (k + l.length) (sum + segmentTotal l) b'
     ∧ Table.wf Owner.free b'.owners = true
     ∧ b' = { b with owners := b'.owners, freeCells := b'.freeCells }
     ∧ b'.freeCells.toList = b.freeCells.toList ++ (segmentCells l).filter (fun c => decide (bad ≠ some c))
     ∧ (∀ c, b'.owner c = if c ∈ segmentCells l then (if bad = some c then .retired else .free) else b.owner c)
  | [], k, sum, b, hw, _, _ => ⟨b, by simp [segmentTotal], hw, rfl, by simp [segmentCells], by simp [segmentCells]⟩
  | g :: l, k, sum, b, hw, hs, hn => by
    have hg := hs g (by simp)
    have hn' : g.cell.toNat ∉ segmentCells l ∧ (segmentCells l).Nodup := by simpa [segmentCells] using hn
    obtain ⟨b1, hb1⟩ : ∃ b1, b1 = if bad = some g.cell.toNat then b.retireCell g.cell.toNat else b.freeCell g.cell.toNat := ⟨_, rfl⟩
    have hw1 : Table.wf Owner.free b1.owners = true := by
      rw [hb1]; split_ifs <;> exact Table.wf_set hw _ _
    have ho1 : ∀ c, b1.owner c = if c = g.cell.toNat then (if bad = some c then .retired else .free) else b.owner c := by
      intro c; rw [hb1]; split_ifs with h1 h2 h3 h4
      · rw [BufferManager.owner_retireCell, if_pos h2]
      · exact absurd (by rw [h2]; exact h1) h3
      · rw [BufferManager.owner_retireCell, if_neg h2]
      · exact absurd (by rw [← h4]; assumption) h1
      · rw [BufferManager.owner_freeCell hw, if_pos (by assumption)]
      · rw [BufferManager.owner_freeCell hw, if_neg (by assumption)]
    have hs1 : ∀ h ∈ l, b1.Sound d h := by
      intro h hh
      obtain ⟨a1, a2, a3⟩ := hs h (by simp [hh])
      refine ⟨a1, ?_, a3⟩
      rw [ho1, if_neg, a2]
      intro hc; apply hn'.1; rw [← hc]; exact List.mem_map_of_mem hh
    obtain ⟨b', e1, e2, e3, e4, e5⟩ := BufferManager.releaseEntries_sound d bad len after l (k+1) (sum + g.count.toNat) b1 hw1 hs1 hn'.2
    refine ⟨b', ?_, e2, ?_, ?_, ?_⟩
    · rw [List.cons_append, BufferManager.releaseEntries, BufferManager.entryFault_sound hg]
      simp only
      rw [← hb1, e1]
      congr 1
      · simp; omega
      · simp [segmentTotal]; omega
    · rw [e3, hb1]; split_ifs <;> rfl
    · rw [e4]
      have : b1.freeCells.toList = b.freeCells.toList ++ [g.cell.toNat].filter (fun c => decide (bad ≠ some c)) := by
        rw [hb1]; split_ifs with h1
        · simp [h1]
        · simp [h1, Runs.toList_push]
      rw [this, List.append_assoc, ← List.filter_append]; rfl
    · intro c
      rw [e5, ho1]
      by_cases h1 : c ∈ segmentCells l
      · have : c ∈ segmentCells (g :: l) := by simp [segmentCells] at h1 ⊢; tauto
        rw [if_pos h1, if_pos this]
      · rw [if_neg h1]
        by_cases h2 : c = g.cell.toNat
        · have : c ∈ segmentCells (g :: l) := by rw [h2]; simp [segmentCells]
          rw [if_pos h2, if_pos this]
        · have : c ∉ segmentCells (g :: l) := by simp [segmentCells] at h1 ⊢; tauto
          rw [if_neg h2, if_neg this]

/-- Words that all agree with their codes show no error. -/
theorem BufferManager.firstError_none {b : BufferManager} {c start below : Nat}
    (h : ∀ w, start ≤ w → w < below → b.wordEcc c w = .sound) : b.firstError c start below = none := by
  rw [BufferManager.firstError, List.find?_eq_none]
  intro w hw
  rw [List.mem_range'_1] at hw
  simp [h w hw.1 (by omega)]

/-- The first word in error. -/
theorem BufferManager.firstError_some {b : BufferManager} {c start below e : Nat} (h1 : start ≤ e) (h2 : e < below)
    (h3 : ∀ w, start ≤ w → w < e → b.wordEcc c w = .sound) (h4 : b.wordEcc c e ≠ .sound) :
    b.firstError c start below = some e := by
  rw [BufferManager.firstError, List.find?_eq_some_iff_append]
  refine ⟨by simpa using h4, List.range' start (e - start), List.range' (e + 1) (below - (e + 1)), ?_, ?_⟩
  · rw [show below - start = (e - start) + (1 + (below - (e + 1))) by omega, ← List.range'_append_1,
      ← List.range'_append_1]
    congr 1
    rw [show start + (e - start) = e by omega]
    rfl
  · intro w hw
    rw [List.mem_range'_1] at hw
    simp [h3 w hw.1 (by omega)]

/-- A feed walk past sound entries whose words show no error passes their bytes on, up to the length (R27). -/
theorem BufferManager.feedEntries_sound (b : BufferManager) (d : Nat) (x : Descriptor) (after : List Segment) : ∀
    (l : List Segment) (k sum left : Nat) (bytes : List Byte),
   (∀ h ∈ l, b.Sound d h) → (∀ h ∈ l, ∀ w, w < 32 → b.wordEcc h.cell.toNat w = .sound) →
   b.feedEntries d x (l ++ after) k sum left 0 bytes = b.feedEntries d x after (k + l.length)
       (sum + segmentTotal l) (left - segmentTotal l) 0
      (bytes ++ (l.flatMap fun g => b.mem.readBytes (256 * g.cell.toNat) g.count.toNat).take left)
  | [], k, sum, left, bytes, _, _ => by simp [segmentTotal]
  | g :: l, k, sum, left, bytes, hs, he => by
    have hg := hs g (by simp)
    have hn : ceilDiv (min g.count.toNat left) 8 ≤ 32 := by
      have := hg.2.2.2
      unfold ceilDiv; omega
    rw [List.cons_append, BufferManager.feedEntries, if_pos rfl, BufferManager.entryFault_sound hg]
    simp only
    rw [BufferManager.firstError_none fun w _ hw => he g (by simp) w (by omega)]
    simp only
    rw [BufferManager.feedEntries_sound b d x after l _ _ _ _ (fun h hh => hs h (by simp [hh]))
      (fun h hh => he h (by simp [hh]))]
    have hL : (g :: l).length = l.length + 1 := rfl
    have hT : segmentTotal (g :: l) = g.count.toNat + segmentTotal l := by simp [segmentTotal]
    rw [hL, hT]
    have ha : Memory.cellAddress g.cell.toNat (8 * 0) = 256 * g.cell.toNat := by simp [Memory.cellAddress]
    congr 1
    · omega
    · omega
    · omega
    · rw [List.flatMap_cons, List.take_append, Memory.length_readBytes, ha, List.append_assoc, Nat.mul_zero, Nat.sub_zero]
      congr 1
      have : (b.mem.readBytes (256 * g.cell.toNat) g.count.toNat).take left = b.mem.readBytes (256 * g.cell.toNat) (min g.count.toNat left) := by
        rcases Nat.le_total left g.count.toNat with h | h
        · rw [Memory.take_readBytes _ _ _ _ h, Nat.min_eq_right h]
        · rw [Nat.min_eq_left h, List.take_of_length_le (by rw [Memory.length_readBytes]; exact h)]
      rw [this]
      congr 2
      omega

/-- No check of a release walk has cause UNCORRECTABLE (R24). -/
theorem BufferManager.releaseWalk_cause {b : BufferManager} {d : Nat} {f : WalkFault}
    (h : (b.releaseWalk d).1 = some f) : f.cause ≠ .uncorrectable := by
  have entries : ∀ (bad : Option Nat) (len : Nat) (l : List Segment) (k sum : Nat) (b : BufferManager) (f : WalkFault),
      (BufferManager.releaseEntries d bad len l k sum b).1 = some f → f.cause ≠ .uncorrectable := by
    intro bad len l
    induction l with
    | nil =>
      intro k sum b f h
      rw [BufferManager.releaseEntries] at h
      simp only [sumFault] at h
      split_ifs at h
      injection h with h
      rw [← h]; simp
    | cons g rest ih =>
      intro k sum b f h
      rw [BufferManager.releaseEntries] at h
      cases hf : b.entryFault d k g with
      | none => rw [hf] at h; exact ih _ _ _ _ h
      | some e =>
        rw [hf] at h
        simp only [Option.some.injEq] at h
        subst h
        unfold BufferManager.entryFault at hf
        split_ifs at hf <;> (injection hf with hf; rw [← hf]; simp)
  unfold BufferManager.releaseWalk at h
  simp only at h
  split_ifs at h
  · exact entries _ _ _ _ _ _ _ h
  · injection h with h; rw [← h]; simp

end Sys2Proof.Machine
end

