-- ==== Sys2Proof/WellFormed.lean ====
section
/-! DEFINITION. The operands a command can have on this part. The machine is total on every command; a command that is
not well-formed names a cell, a word, a slot or a frame of a grant that the part does not have, or a header of another length. -/

namespace Sys2Proof

/-- The operand checks, command by command. -/
def Instr.wellFormed : Instr → Bool
  | .powerOnReset _ => true
  | .selfTest failed => failed.all fun c => decide (c < Config.cellCount)
  | .softReset => true
  | .ingressSpaceClaim header => header.length == 8
  | .downFrameReceived _ => true
  | .requestFrameReceived _ => true
  | .systemLinkBadFrame _ => true
  | .admissionDecision => true
  | .admissionRetry => true
  | .append => true
  | .transmitterChoice => true
  | .disposalMessageSent => true
  | .upFrameSent => true
  | .startEventSent => true
  | .receiveLockChange _ => true
  | .linkUp => true
  | .linkDown => true
  | .radioLinkBadFrame _ => true
  | .uplinkSpaceClaim header => header.length == 8
  | .upMessage _ => true
  | .doze _ => true
  | .wake _ => true
  | .poll _ => true
  | .mediumHold _ => true
  | .mediumRelease _ => true
  | .done _ => true
  | .grantTimeout slot => decide (slot < Config.slotCount)
  | .arbiterChoice => true
  | .grantFormation => true
  | .feedFault frame cell => decide (frame < Config.grantFrames) && cell.all fun c => decide (c < Config.cellCount)
  | .streamEnd => true
  | .faultClaim _ => true
  | .reclaimScanStart => true
  | .reclaimScanVisit => true
  | .reclaimScanEnd => true
  | .sweepTimer => true
  | .sweepVisit => true
  | .purgeStep => true
  | .identify => true
  | .setOptions => true
  | .start => true
  | .stop => true
  | .freeze => true
  | .thaw => true
  | .stationProgram _ => true
  | .stationRemove _ => true
  | .stationHold _ => true
  | .stationRelease _ => true
  | .stationClearFault _ => true
  | .stationRead _ => true
  | .backlogMap => true
  | .classWrite => true
  | .rateWrite => true
  | .tableCommit => true
  | .tableRead => true
  | .counterRead _ => true
  | .partReset => true
  | .unknownRequest => true
  | .correctedEccError word => decide (word < Config.cellCount * Config.cellWords)

end Sys2Proof
end

