-- ==== Sys2Proof/Tests/Slice0.lean ====
section
/-! SUPPORT. Tests: ill-formed commands, byte layouts, figures of the manual's worked sequences, one step of each command,
and for every statement with hypotheses a state that meets them (`test_meets_…`). -/

open Sys2Proof Sys2Proof.Machine

set_option Elab.async false

namespace Sys2Proof.Tests

/-! ### Helpers -/

def frame (kind code tag : Nat) (body : List Byte) : List Byte :=
  withCheck (beBytes 1 kind ++ zeros 1 ++ beBytes 3 body.length ++ beBytes 1 code ++ beBytes 2 tag ++ body)
def downFrame (station cookie life : Nat) (bytes : List Byte) : List Byte :=
  frame 0x01 0 0 (beBytes 2 station ++ beBytes 4 cookie ++ beBytes 2 life ++ bytes)
def requestFrame (code : Nat) (body : List Byte) : List Byte := frame 0x02 code 7 body
def noteFrame (code station : Nat) : List Byte := frame 0x33 0 0 (beBytes 1 code ++ zeros 1 ++ beBytes 2 station)
def upFrame (station airtime rate : Nat) (bytes : List Byte) : List Byte :=
  frame 0x32 0 0 (beBytes 2 station ++ beBytes 2 airtime ++ beBytes 1 rate ++ zeros 3 ++ bytes)
def doneFrame (slot serial airtime rate : Nat) (outcomes : List Byte) : List Byte :=
  frame 0x31 0 0 (beBytes 1 slot ++ beBytes 1 serial ++ beBytes 2 airtime ++ beBytes 1 rate ++ zeros 3 ++ outcomes)

/-- The state a command leads to. -/
def after (c : Instr) (s : State) : State :=
  match exec c s with
  | .next t => t
  | _ => s

/-- RUNNING with the link UP, the START event sent, and small pools: descriptors 5 to 104, cells 10 to 109. -/
def live : State :=
  { State.reset with
    radio := { up := true, lock := true, settle := 0, stream := none }
    events := { records := [], lost := 0 }
    bm := { State.reset.bm with freeDescs := [(5, 99)], freeCells := [(10, 99)] }
    sched := { State.reset.sched with
      state := .running, causes := { host := false, radio := false, link := false }
      liveRate := [(12, { overhead := 30, cost := 341 })] }
    sweep := { State.reset.sweep with timer := some { limit := 50000, elapsed := 0 } }
    timeBase := 1000 }

/-- An ACTIVE, AWAKE record with address 0x0A0000000015, FOLLOW and rate code 12. -/
def radio : Station := { Station.free with admin := .active, address := 0x0A0000000015, rate := 12 }

/-- `live` with the record of station 21 changed. -/
def with21 (r : Station) : State := live.setStation 21 r

def queuedDesc (length : BitVec 24) (segs : List Segment) : Descriptor :=
  { cookie := 9, station := 21, length := length, stamp := 500, lifetime := 0, segs := segs, parityOk := true,
    place := .queued, reason := none, badCell := none }

/-- Station 21 stands on the Entry List with deficit 1,500 and two frames: descriptor 0 of 257 bytes in cells 3 and 4,
and descriptor 1 of 100 bytes in cell 5. -/
def queued : State :=
  let s := with21 { radio with deficit := 1500, queue := [0, 1], list := .entry }
  { s with
    bm := { s.bm with
      descs := [(0, queuedDesc 257 [⟨3, 256⟩, ⟨4, 1⟩]), (1, queuedDesc 100 [⟨5, 100⟩])]
      owners := [(3, .desc 0), (4, .desc 0), (5, .desc 1)]
      mem := [(768, 0x5A), (1024, 0x5B), (1280, 0x5C)] }
    sched := { s.sched with entryList := [21] } }

/-- Station 21 is the ROUND candidate. -/
def chosen : State := after .arbiterChoice queued
/-- Its grant is being fed. -/
def feeding : State := after .grantFormation chosen
/-- `s` with the codes of some words of packet memory as given. -/
def withEcc (s : State) (ecc : Table Ecc) : State := { s with bm := { s.bm with ecc := ecc } }
/-- Its grant has been sent whole. -/
def sent : State := after .streamEnd feeding

/-- Station 21 dozes with a poll pending, and is the POLL candidate. -/
def polled : State :=
  let s := queued.setStation 21 { radio with power := .dozing, poll := true, queue := [0, 1] }
  { s with sched := { s.sched with
      entryList := [], pollQueue := [21], candidate := some { station := 21, kind := .poll } } }

/-- The request the helpers ask. -/
def request (code : Byte) (body : List Byte) : Request := { code := code, tag := 7, overLength := false, body := body }

/-- A request waits at the head of the Request Queue. -/
def asked (s : State) (code : Byte) (body : List Byte) : State :=
  { s with rp := { s.rp with queue := [request code body] } }

/-- A request is in execution with `done` claims made. -/
def executing (s : State) (code : Byte) (body : List Byte) (done : Nat) : State :=
  { s with rp := { s.rp with executing := some { request := request code body, done := done, out := [] } } }

/-- A frame of `n` bytes for station 21 as the Ingress Buffer holds it. -/
def entry (n : Nat) : IngressEntry :=
  { station := 21, cookie := 77, lifetime := 0, declared := BitVec.ofNat 24 n
    bytes := beBytes 6 0x0A0000000015 ++ List.replicate (n - 6) 0xEE }

/-- That frame at the head of the Ingress Buffer. -/
def arrived (s : State) (n : Nat) : State := { s with rx := { s.rx with ingress := [entry n] } }

/-- The status and reason bytes of the response handed over. -/
def answer (s : State) : Option (Nat × Nat) :=
  s.tx.response.map fun r => (r.status.code, optionReasonCode r.reason)

/-- The state is canonical, as a test that evaluates. -/
def canonical (s : State) : Bool :=
  s.bm.mem.wf && Table.wf Ecc.sound s.bm.ecc && Table.wf Descriptor.cleared s.bm.descs && Table.wf Owner.free s.bm.owners
    && Table.wf Station.free s.stations && Table.wf ClassEntry.default s.sched.liveClass
    && Table.wf ClassEntry.default s.sched.shadowClass && Table.wf RateEntry.unset s.sched.liveRate
    && Table.wf RateEntry.unset s.sched.shadowRate && Table.wf (none : Option Grant) s.sched.slots

theorem canonical_iff (s : State) : canonical s = true ↔ s.Canonical := by
  simp only [canonical, State.Canonical, Bool.and_eq_true, and_assoc]

/-! ### Ill-formed commands -/

theorem test_illFormed_selfTestCell : Instr.wellFormed (.selfTest [0, 16384]) = false := by decide
theorem test_illFormed_ingressHeader : Instr.wellFormed (.ingressSpaceClaim [1, 0, 0, 0, 0, 0, 0]) = false := by decide
theorem test_illFormed_uplinkHeader : Instr.wellFormed (.uplinkSpaceClaim (zeros 9)) = false := by decide
theorem test_illFormed_timeoutSlot : Instr.wellFormed (.grantTimeout 4) = false := by decide
theorem test_illFormed_faultFrame : Instr.wellFormed (.feedFault 64 none) = false := by decide
theorem test_illFormed_faultCell : Instr.wellFormed (.feedFault 0 (some 16384)) = false := by decide
theorem test_illFormed_correctedWord : Instr.wellFormed (.correctedEccError 524288) = false := by decide
theorem test_wellFormed_atBounds :
    ([.selfTest [16383], .ingressSpaceClaim (zeros 8), .grantTimeout 3, .feedFault 63 (some 16383),
      .feedFault 0 none, .correctedEccError 524287] : List Instr).all Instr.wellFormed = true := by decide

/-! ### Figures and layouts of the manual -/

/-- The check value of the CRC of R191 over the nine bytes 31 to 39 (hexadecimal). -/
theorem test_crc32_checkValue :
    crc32 [0x31, 0x32, 0x33, 0x34, 0x35, 0x36, 0x37, 0x38, 0x39] = 0xCBF43926 := by decide +kernel

/-- The table of R84. -/
theorem test_frameEstimate_rowsOfR84 :
    ([(20, 34), (30, 341), (40, 1365)].map fun p =>
      [14, 65, 1500, 4096].map fun n => frameEstimate { overhead := p.1, cost := p.2 } n)
      = [[23, 25, 71, 156], [52, 73, 542, 1394], [126, 211, 2088, 5500]] := by decide +kernel

/-- The indices of the two reads of R184, each with the next index. -/
theorem test_readIndex_exampleOfR184 :
    ((List.range 7).map (readIndex 508 0) = [508, 509, 510, 511, 0, 1, 2])
      ∧ readIndex 40 16 0 = 40 ∧ readIndex 40 16 7 = 47 ∧ readIndex 40 16 8 = 32 ∧ readIndex 40 16 19 = 43
      ∧ readIndex 40 16 20 = 44 := by decide +kernel

/-- The codes a RATE WRITE of 20 entries from code 45 reaches (R80). -/
theorem test_rateIndex_exampleOfR80 :
    rateIndex 45 0 = 45 ∧ rateIndex 45 2 = 47 ∧ rateIndex 45 3 = 32 ∧ rateIndex 45 18 = 47 ∧ rateIndex 45 19 = 32 := by
  decide +kernel

/-- The START event as its frame carries it (12.1, 12.4): kind, flags, length 16, event code 1, tag, then stamp, cause
POWER_ON, revision, part code, result. -/
theorem test_layout_startEvent :
    (({ pauseFlag := false, body := .event { stamp := 0x01020304, event := .start true 0xFFFF } } : OutFrame).bytes).take 24
      = [0x13, 0, 0, 0, 16, 1, 0, 0, 1, 2, 3, 4, 1, 1, 0x51, 0x20, 0xFF, 0xFF, 0, 0, 0, 0, 0, 0] := by decide +kernel

/-- A sent frame passes the part's own checks of R4 in length and check bytes. -/
theorem test_layout_pauseFrameEndsInCheck :
    (let f := ({ pauseFlag := true, body := .pause true 255 511 } : OutFrame).bytes
     f.take 16 = [0x15, 1, 0, 0, 8, 0, 0, 0, 1, 0, 0, 255, 1, 255, 0, 0]
       ∧ beNat (f.drop 16) = (crc32 (f.take 16)).toNat) := by decide +kernel

/-! ### The steps of the worked sequences -/

/-- Station 21 of 6.11: frames of 1,500, 600, 200, 1,000 and 1,500 bytes, deficit 1,500, slot 0 in use, serial 57. -/
def doze : State :=
  let s := with21 { radio with deficit := 1500, queue := [0, 1, 2, 3, 4] }
  let s := s.setSlot 0 (some ⟨56, 20, .round, [], 0, .sent ⟨20000, 0⟩⟩)
  { s with
    bm := { s.bm with descs :=
      [(0, queuedDesc 1500 []), (1, queuedDesc 600 []), (2, queuedDesc 200 []), (3, queuedDesc 1000 []),
        (4, queuedDesc 1500 [])] }
    sched := { s.sched with serial := 57, candidate := some { station := 21, kind := .round } } }

/-- The formation of 6.11: A B C D in slot 1 with serial 57 and estimate 1,273; E stays. -/
theorem test_grantFormation_workedSequence :
    (let t := after .grantFormation doze
     (t.slot 1).map (fun g => (g.serial, g.station, g.frames, g.estimate, g.stream))
        = some (57, 21, [⟨0, 1500⟩, ⟨1, 600⟩, ⟨2, 200⟩, ⟨3, 1000⟩], 1273, .streaming)
      ∧ (t.station 21).queue = [4] ∧ t.sched.serial = 58 ∧ (t.station 21).deficit = 1500) := by decide +kernel

/-- A DONE of 700 us with ACKED, NOT_SENT: descriptor 0 is released DELIVERED, descriptor 1 requeued, the deficit falls
to 800 and the station joins the Round List tail (R114 to R117, R93). -/
theorem test_done_settlesGrant :
    (let t := after (.done (doneFrame 0 0 700 12 [0, 2])) sent
     t.slot 0 = none ∧ t.disposal = [0] ∧ (t.desc 0).reason = some .delivered ∧ (t.station 21).queue = [1]
      ∧ (t.station 21).deficit = 800 ∧ t.sched.roundList = [21] ∧ (t.station 21).counters.bytesDelivered = 257
      ∧ t.bm.freeCells.toList.drop 100 = [3, 4]) := by decide +kernel

theorem test_grantTimeout_chargesEstimate :
    (let s := sent.setSlot 0 ((sent.slot 0).map fun g => { g with stream := .sent { limit := 20000, elapsed := 20000 } })
     let t := after (.grantTimeout 0) s
     t.disposal = [0, 1] ∧ (t.desc 1).reason = some .noCompletion ∧ (t.station 21).queue = []
      ∧ (t.station 21).deficit = 1500 - (sent.slot 0).elim 0 (fun g => (g.estimate : Int))
      ∧ t.ctr.grantTimeouts = 1) := by decide +kernel

/-- An UP message of 7.4: 900 us at share 50 takes station 30 from +300 to -150, from the Entry List to the Round List. -/
theorem test_upMessage_workedSequence :
    (let s := live.setStation 30 { radio with share := .s50, deficit := 300, queue := [0], list := .entry }
     let s := { s with sched := { s.sched with entryList := [30], roundList := [31] }
                       uplink := { s.uplink with claim := some (16 + 4) } }
     let t := after (.upMessage (upFrame 30 900 5 [1, 2, 3, 4])) s
     (t.station 30).deficit = -150 ∧ t.sched.entryList = [] ∧ t.sched.roundList = [31, 30]
      ∧ t.uplink.entries.map (fun e => (e.charge, e.bytes)) = [(450, [1, 2, 3, 4])] ∧ t.uplink.freeSpace = 65516) := by
  decide +kernel

/-- The class commit of R82: +1,500 becomes +800 where the quantum falls to 800, +700 stays. -/
theorem test_tableCommit_exampleOfR82 :
    (let s := (live.setStation 60 { radio with cls := 4, deficit := 1500 }).setStation 61 { radio with cls := 4, deficit := 700 }
     let s := { s with sched := { s.sched with
        liveClass := [(4, { ClassEntry.default with quantum := 2000 })]
        shadowClass := [(4, { ClassEntry.default with quantum := 800 })] } }
     let t := after .tableCommit (asked s 0x22 [1])
     (t.station 60).deficit = 800 ∧ (t.station 61).deficit = 700 ∧ answer t = some (0, 0)) := by decide +kernel

/-! ### One step of the other commands -/

theorem test_step_idleTicks : (match step live with | .next t => t.timeBase | _ => 0) = 1001 := by decide +kernel
theorem test_step_front :
    (match step { live with pending := [.receiveLockChange false, .linkUp] } with
      | .next t => (t.radio.lock, t.pending) | _ => (true, [])) = (false, [.linkUp]) := by decide +kernel
theorem test_powerOnReset_keepsStrap : (after (.powerOnReset true) live).inReset = true := by decide +kernel
theorem test_selfTest_retires :
    (let t := after (.selfTest [0, 7, 16383]) (after (.powerOnReset true) live)
     t.bm.retiredCount = 3 ∧ t.bm.selfTestResult = 3 ∧ t.bm.freeCellCount = 16381 ∧ t.inReset = false
       ∧ t.bm.freeCells = [(1, 5), (8, 16374)]) := by decide +kernel
theorem test_ingressSpaceClaim_over :
    (let s := { live with rx := { live.rx with ingress := List.replicate 7 ⟨21, 0, 0, 4096, zeros 4096⟩ } }
     (after (.ingressSpaceClaim ([0x01, 0] ++ beBytes 3 4104 ++ zeros 3)) s).rx.claim = none) := by decide +kernel
theorem test_downFrameReceived_stored :
    ((after (.downFrameReceived (downFrame 21 77 5 [1, 2, 3])) { live with rx := { live.rx with claim := some 19 } }).rx
      = { ingress := [⟨21, 77, 5, 3, [1, 2, 3]⟩], claim := none }) := by decide +kernel
theorem test_requestFrameReceived_joins :
    (after (.requestFrameReceived (requestFrame 0x01 [])) live).rp.queue
      = [{ code := 0x01, tag := 7, overLength := false, body := [] }] := by decide +kernel
theorem test_systemLinkBadFrame_counts : (after (.systemLinkBadFrame [1, 2, 3]) live).ctr.badFrames = 1 := by
  decide +kernel
theorem test_radioLinkBadFrame_reports :
    (after (.radioLinkBadFrame [0x31, 2]) live).events.records.map EventRecord.event
      = [.radioProtocol .badFrame 0x31 0 0 0] := by decide +kernel
theorem test_append_queues :
    (let s := arrived (with21 radio) 60
     let t := after .append (after .admissionDecision s)
     (t.station 21).queue = [5] ∧ (t.desc 5).stamp = 1000 ∧ t.sched.roundList = [21] ∧ t.bm.mem.read 2560 = 0x0A
       ∧ t.bm.owner 10 = .desc 5) := by decide +kernel
theorem test_admissionRetry_waitsOn :
    (let s := arrived { live with adm := .waiting, bm := { live.bm with freeDescs := [] } } 60
     decide (after .admissionRetry s = s)) = true := by decide +kernel
theorem test_linkUp_early :
    (let s := { live with radio := { up := false, lock := true, settle := 999, stream := none } }
     decide (after .linkUp s = s)) = true := by decide +kernel
theorem test_doze_leavesList :
    (let t := after (.doze (noteFrame 1 21)) queued
     (t.station 21).power = .dozing ∧ t.sched.entryList = [] ∧ (t.station 21).list = .none) := by decide +kernel
theorem test_wake_cancelsPoll :
    (let t := after (.wake (noteFrame 2 21)) polled
     (t.station 21).poll = false ∧ t.sched.pollQueue = [] ∧ (t.station 21).list = .round) := by decide +kernel
theorem test_poll_joins :
    (after (.poll (noteFrame 3 21)) (with21 { radio with power := .dozing })).sched.pollQueue = [21] := by decide +kernel
theorem test_mediumHold_freezes :
    (after (.mediumHold (noteFrame 4 900)) sent).sched.state = .freezing
      ∧ (after (.mediumHold (noteFrame 4 900)) live).sched.state = .frozen := by decide +kernel
theorem test_feedFault_aborts :
    (let t := after (.feedFault 0 (some 4)) (withEcc feeding [(128, .uncorrectable)])
     (t.desc 0).reason = some .memoryError ∧ (t.desc 0).badCell = some 4 ∧ t.ctr.memoryFaults = 1
       ∧ t.feeder = some { slot := 0, frame := 1, segment := 1, walk := none }
       ∧ (t.radio.stream.map fun g => g.sections.map fun x => (x.length, x.bytes.length, x.trailer))
          = some [(257, 257, .abort)]) := by decide +kernel
/-- A lasting single-bit error in the last word of cell 3 is counted once by a walk, and again by the next (R28). -/
theorem test_correctedEcc_counts :
    (let s := withEcc feeding [(127, .single)]
     let t := after (.correctedEccError 127) s
     t.ctr.correctedEcc = 1 ∧ (after (.correctedEccError 127) t).ctr.correctedEcc = 1 ∧ t.bm.ecc = s.bm.ecc
       ∧ (t.feeder.map fun f => (f.frame, f.segment, f.walk.map fun w => (w.word, w.left, w.bytes.length)))
          = some (0, 1, some (32, 257, 256))
       ∧ (let u := { t with feeder := feeding.feeder }
          (after (.correctedEccError 127) u).ctr.correctedEcc) = 2
       ∧ ((after .streamEnd t).radio.stream.map fun g => g.sections.map Section.bytes)
          = (sent.radio.stream.map fun g => g.sections.map Section.bytes)) := by decide +kernel
/-- A walk past its one read keeps what it read: damage that strikes the descriptor then changes nothing (R24). -/
theorem test_feedWalk_keepsItsRead :
    (let t := after (.correctedEccError 96) (withEcc feeding [(96, .single)])
     let u := t.setDesc 0 { t.desc 0 with length := 1, parityOk := false }
     ((after .streamEnd u).radio.stream.map GrantOut.sections) = (sent.radio.stream.map GrantOut.sections)) := by
  decide +kernel
/-- A command that names another word or another frame than the walk comes to changes nothing (log 15). -/
theorem test_feeding_namesWhatItMeets :
    (let s := withEcc feeding [(127, .single)]
     let u := withEcc feeding [(128, .uncorrectable)]
     decide (after (.correctedEccError 126) s = s ∧ after (.feedFault 1 (some 4)) u = u
       ∧ after (.feedFault 0 none) u = u)) = true := by decide +kernel
theorem test_streamEnd_sendsBytes :
    (sent.radio.stream.map fun g => (g.sections.map fun x => (x.bytes.take 1, x.trailer), g.ended))
      = some ([([0x5A], .complete), ([0x5C], .complete)], .whole) := by decide +kernel
theorem test_reclaimScanVisit_retires :
    (let s := { queued with bm := { queued.bm with reclaim := [0], scan := some ⟨0, 3⟩ } }
     let t := after .reclaimScanVisit s
     t.bm.owner 3 = .retired ∧ t.bm.scan = some ⟨0, 4⟩ ∧ t.bm.retiredCount = 1) := by decide +kernel
theorem test_sweepVisit_expires :
    (let s := { queued with timeBase := 500501, sweep := { queued.sweep with position := some 21 } }
     let t := after .sweepVisit s
     t.disposal = [0, 1] ∧ (t.desc 0).reason = some .expired ∧ t.sched.entryList = [] ∧ t.sweep.position = some 22) := by
  decide +kernel
theorem test_sweepVisit_atLimit :
    (let s := { queued with timeBase := 500500, sweep := { queued.sweep with position := some 21 } }
     (after .sweepVisit s).disposal) = [] := by decide +kernel
theorem test_purgeStep_tearsDown :
    (let s := { with21 { radio with admin := .purging } with purge := [⟨21, .remove⟩] }
     let t := after .purgeStep s
     t.purge = [] ∧ (t.station 21).admin = .free ∧ t.events.records.map EventRecord.event = [.stationFreed 21]) := by
  decide +kernel
theorem test_faultClaim_escalates :
    (let s := { queued.setStation 21 { queued.station 21 with faultFlag := true } with faultClaims := [⟨21, .active, .feed⟩] }
     let t := after (.faultClaim 0) s
     (t.station 21).admin = .faulted ∧ t.purge = [⟨21, .fault⟩] ∧ t.sched.entryList = []) := by decide +kernel
theorem test_start_rateUnset :
    (let s := asked { with21 { radio with rate := 3 } with sched := { live.sched with state := .off } } 0x03 []
     (after .start s).tx.response.map (fun r => (r.reason, r.station)) = some (some .rateUnset, 21)) := by decide +kernel
theorem test_stop_asksPurge :
    (let t := after .stop (asked queued 0x04 [])
     t.purge = [⟨21, .stop⟩] ∧ t.sched.state = .stopping ∧ answer t = some (0, 0)) := by decide +kernel
theorem test_thaw_running : answer (after .thaw (asked live 0x06 [])) = some (2, 0x0C) := by decide +kernel
theorem test_setOptions_range : answer (after .setOptions (asked live 0x02 [0, 0, 2, 0, 0, 50, 1, 0])) = some (2, 0x04) := by
  decide +kernel
theorem test_stationProgram_adds :
    (let t := after (.stationProgram 9) (asked live 0x10
        ([1, 0, 0, 0] ++ beBytes 2 40 ++ beBytes 6 0x0B0000000001 ++ [3, 12, 1, 25]))
     (t.station 40).admin = .active ∧ (t.station 40).cls = 3 ∧ (t.station 40).share = .s25
       ∧ (t.station 40).rateLock = .locked ∧ answer t = some (0, 0)) := by decide +kernel
theorem test_stationHold_marks :
    (let s := executing queued 0x12 (mapBytes 64 fun i => i == 21) 21
     let t := after (.stationHold 1) s
     (t.station 21).hold = true ∧ t.sched.entryList = [] ∧ t.rp.executing.map Execution.done = some 22) := by
  decide +kernel
theorem test_counterRead_whole :
    (let s := asked { live with ctr := { live.ctr with badFrames := 3 } } 0x24 [1]
     let t := after (.counterRead 11) s
     t.ctr.badFrames = 0 ∧ t.tx.response.map (fun r => r.result.take 8) = some [0, 0, 0, 0, 0, 0, 0, 3]) := by
  decide +kernel
theorem test_stationRead_next :
    (after (.stationRead 2) (asked live 0x16 (beBytes 2 511 ++ [2, 0, 1, 0]))).rp.cursor
      = some { next := 1, window := 0 } := by decide +kernel
theorem test_partReset_stops : (after .partReset (asked live 0x3F [])).rp.stopped = true := by decide +kernel
theorem test_unknownRequest_refused : answer (after .unknownRequest (asked live 0x99 [])) = some (2, 0x01) := by
  decide +kernel

/-! ### The hypotheses of the statements are met: steps, resets, frames -/

theorem test_meets_StepTakesFrontCommand :
    ({ live with pending := [.linkUp, .append] } : State).pending = .linkUp :: [.append] := by decide +kernel

/-- Slot 0 SENT below its limit, slot 1 SENT at it, slot 2 STREAMING, slot 3 FREE; the sweep timer runs. -/
def ticking (up lock : Bool) (settle : Nat) : State :=
  let g : Grant := { serial := 0, station := 21, kind := .round, frames := [], estimate := 0, stream := .streaming }
  { live with
    sched := { live.sched with
      slots :=
        [(0, some { g with stream := .sent ⟨20000, 19999⟩ }), (1, some { g with stream := .sent ⟨20000, 20000⟩ }),
          (2, some g)] }
    radio := { live.radio with up := up, lock := lock, settle := settle } }

theorem test_meets_IdleStepPassesOneMicrosecond :
    (after (.powerOnReset true) live).inReset = true ∧ (after (.powerOnReset true) live).pending = []
      ∧ (ticking false true 999).inReset = false ∧ (ticking false true 999).pending = []
      ∧ ((ticking false true 999).slot 0).map Grant.stream = some (.sent ⟨20000, 19999⟩)
      ∧ ((ticking false true 999).slot 1).map Grant.stream = some (.sent ⟨20000, 20000⟩)
      ∧ ((ticking false true 999).slot 2).map Grant.stream = some .streaming
      ∧ (ticking false true 999).slot 3 = none
      ∧ (ticking false true 999).sweep.timer = some ⟨50000, 0⟩ ∧ State.reset.sweep.timer = none := by decide +kernel

/-- The settle count stops at its end. -/
theorem test_idle_settleCounts :
    ([(false, true, 999), (false, true, 1000), (true, false, 99), (true, false, 100), (true, true, 5)].map fun p =>
      (ticking p.1 p.2.1 p.2.2).tick.radio.settle) = [1000, 1000, 100, 100, 5] := by decide +kernel

theorem test_meets_SelfTestRetiresFailedCells : (after (.powerOnReset true) live).inReset = true := by decide +kernel

theorem test_meets_SoftResetKeepsLinkState :
    (after .transmitterChoice (after .partReset (asked live 0x3F []))).tx.line
        = some { pauseFlag := false, body := .response (acceptedResponse (request 0x3F []) []) }
      ∧ (acceptedResponse (request 0x3F []) []).code = 0x3F
      ∧ (acceptedResponse (request 0x3F []) []).status = .accepted := by decide +kernel

theorem test_meets_EventQueueKeepsThirtyTwo :
    ({ records := List.replicate 31 ⟨0, .radioLink true⟩, lost := 0 } : EventQueue).records.length < 32
      ∧ 32 ≤ ({ records := List.replicate 32 ⟨0, .radioLink true⟩, lost := 0xFFFF } : EventQueue).records.length := by
  decide +kernel

theorem test_meets_FrameChecksAcceptSoundFrames :
    (Side.system.accepts 0x01 = true ∧ fixedPart 0x01 ≤ (zeros 8).length)
      ∧ (Side.system.accepts 0x02 = true ∧ fixedPart 0x02 ≤ (zeros 0).length)
      ∧ (Side.radio.accepts 0x31 = true ∧ fixedPart 0x31 ≤ (zeros 8).length)
      ∧ (Side.radio.accepts 0x32 = true ∧ fixedPart 0x32 ≤ (zeros 8).length)
      ∧ (Side.radio.accepts 0x33 = true ∧ fixedPart 0x33 ≤ ([5, 0, 0, 21] : List Byte).length
          ∧ 1 ≤ (byteAt [5, 0, 0, 21] 0).toNat ∧ (byteAt [5, 0, 0, 21] 0).toNat ≤ 5)
      ∧ (zeros 4).length = 4 ∧ zeros 4 ≠ beBytes 4 (crc32 (zeros 8)).toNat := by decide +kernel

theorem test_meets_HeadersClaimSpace :
    ([0x01, 0, 0, 0, 9, 0, 0, 0] : List Byte).length = 8 ∧ byteAt [0x01, 0, 0, 0, 9, 0, 0, 0] 0 ≠ 0x02
      ∧ byteAt [0x32, 0, 0, 0, 9, 0, 0, 0] 0 = 0x32 ∧ live.inReset = false ∧ live.rx.claim = none
      ∧ live.uplink.claim = none := by decide +kernel

/-- Space is given at the bounds of R126 and not beyond them. -/
theorem test_uplinkSpaceClaim_bounds :
    ([8, 9, 4104, 4105].map fun n =>
      (after (.uplinkSpaceClaim ([0x32, 0] ++ beBytes 3 n ++ zeros 3)) live).uplink.claim)
      = [none, some 17, some 4112, none] := by decide +kernel

theorem test_meets_DownFrameEntersIngressBuffer :
    sound .system 0x01 (downFrame 21 77 5 [1, 2, 3]) = true ∧ live.inReset = false ∧ live.rx.claim = none
      ∧ (after (.ingressSpaceClaim ((downFrame 21 77 5 [1, 2, 3]).take 8)) live).rx.claim
          = some (8 + min (frameBody (downFrame 21 77 5 [1, 2, 3])).length 4104) := by decide +kernel

theorem test_meets_RequestFrameJoinsRequestQueue :
    sound .system 0x02 (requestFrame 0x01 []) = true ∧ live.inReset = false
      ∧ (List.replicate 7 (request 1 [])).length < 8 ∧ 8 ≤ (List.replicate 8 (request 1 [])).length := by decide +kernel

theorem test_meets_BadFramesAreCounted :
    live.inReset = false ∧ frameFault .system (frame 0x31 0 0 (zeros 8)) = some .badKind
      ∧ frameFault .radio (frame 0x33 0 0 [6, 0, 0, 21]) = some .badBody
      ∧ (frame 0x33 0 0 [6, 0, 0, 21]).head? = some 0x33
      ∧ frameFault .radio [0x31] = some .badFrame ∧ ([0x31] : List Byte).head? = some 0x31 := by decide +kernel

theorem test_meets_TransmitterChoosesByPriority :
    (State.reset.tx.line = none ∧ State.reset.events.records = { stamp := 0, event := .start true 0xFFFF } :: [])
      ∧ (live.tx.line = none ∧ live.events.startFirst = false
          ∧ ({ live.bm with pauseWanted := true } : BufferManager).pauseWanted ≠ live.tx.pauseSent)
      ∧ (let s := after .partReset (asked live 0x3F [])
         s.tx.line = none ∧ s.events.startFirst = false ∧ s.bm.pauseWanted = s.tx.pauseSent
           ∧ s.tx.response = some (acceptedResponse (request 0x3F []) []))
      ∧ (let s := after (.mediumHold (noteFrame 4 0)) live
         s.events.startFirst = false ∧ s.bm.pauseWanted = s.tx.pauseSent ∧ s.tx.response = none
           ∧ s.events.records = { stamp := 1000, event := .frozen ⟨false, true, false⟩ } :: [])
      ∧ (let s := { live with disposal := [0] }
         s.bm.pauseWanted = s.tx.pauseSent ∧ s.tx.response = none ∧ s.events.records = [] ∧ s.disposal ≠ []
           ∧ s.uplink.entries = [] ∧ s.tx.mark = .up)
      ∧ (let u : UpEntry := ⟨21, 0, 5, 0, 0, [1]⟩
         let s := { live with uplink := { live.uplink with entries := [u] }, tx := { live.tx with mark := .disposal } }
         s.bm.pauseWanted = s.tx.pauseSent ∧ s.tx.response = none ∧ s.events.records = [] ∧ s.uplink.entries = u :: []
           ∧ s.disposal = [] ∧ s.tx.mark = .disposal)
      -- both wait, with either mark
      ∧ (let u : UpEntry := ⟨21, 0, 5, 0, 0, [1]⟩
         let s := { live with disposal := [0], uplink := { live.uplink with entries := [u] } }
         s.bm.pauseWanted = s.tx.pauseSent ∧ s.tx.response = none ∧ s.events.records = [] ∧ s.disposal ≠ []
           ∧ s.uplink.entries = u :: [] ∧ s.tx.mark = .up ∧ ({ s.tx with mark := .disposal } : Transmitter).mark = .disposal) := by
  decide +kernel

/-- DISPOSAL and UP alternate while both wait (R10). -/
theorem test_transmitterChoice_alternates :
    (let s := { live with disposal := [0], uplink := { live.uplink with entries := [⟨21, 0, 5, 0, 0, [1]⟩] } }
     let t := after .transmitterChoice s
     t.tx.mark = .disposal ∧ (after .transmitterChoice { t with tx := { t.tx with line := none } }).tx.mark = .up) := by
  decide +kernel

theorem test_meets_TransmitterFinishesFrame :
    ({ pauseFlag := false, body := .disposal 0 [] } : OutFrame).ownEnd = true
      ∧ ({ pauseFlag := false, body := .pause true 0 0 } : OutFrame).ownEnd = false
      ∧ ({ pauseFlag := false, body := .response (acceptedResponse (request 1 []) []) } : OutFrame).ownEnd = false
      ∧ ({ pauseFlag := false, body := .response (refusedResponse (request 0x3F []) .badLength) } : OutFrame).ownEnd
          = false := by decide +kernel

/-- A state with one record on the line. -/
def disposing : State :=
  after .transmitterChoice { queued with
    disposal := [7], bm := { queued.bm with descs := Table.set Descriptor.cleared queued.bm.descs 7 (queuedDesc 14 []) } }

theorem test_meets_SentFramesLeaveTheirUnits :
    disposing.Canonical
      ∧ disposing.tx.line = some { pauseFlag := false, body := .disposal 1000 [⟨9, 21, none, 14⟩] }
      ∧ (after .transmitterChoice { live with uplink := { live.uplink with entries := [⟨21, 0, 5, 0, 0, [1]⟩] } }).tx.line
          = some { pauseFlag := false, body := .up ⟨21, 0, 5, 0, 0, [1]⟩ }
      ∧ (after .transmitterChoice State.reset).tx.line
          = some { pauseFlag := false, body := .event { stamp := 0, event := .start true 0xFFFF } } :=
  ⟨(canonical_iff _).1 (by decide +kernel), by decide +kernel⟩

theorem test_disposalMessageSent_returns :
    (let t := after .disposalMessageSent disposing
     t.disposal = [] ∧ t.desc 7 = Descriptor.cleared ∧ t.bm.freeDescs.toList.drop 100 = [7]) := by decide +kernel
theorem test_upFrameSent_leaves :
    (let s := after .transmitterChoice { live with uplink := { live.uplink with entries := [⟨21, 0, 5, 0, 0, [1]⟩] } }
     (after .upFrameSent s).uplink.entries = [] ∧ (after .upFrameSent s).tx.line = none) := by decide +kernel
theorem test_startEventSent_evaluates :
    (let s := after .transmitterChoice { State.reset with bm := { State.reset.bm with freeCells := [(0, 510)] } }
     (after .startEventSent s).bm.pauseWanted = true ∧ (after .startEventSent s).tx.line = none) := by decide +kernel

/-! ### The hypotheses of the statements are met: admission -/

/-- The state in which station 21 holds `n` frames and admits one of `m` bytes. -/
def verdict (s : State) (n : Nat) : Option Reason := s.admissionVerdict (entry n)

/-- Each of the eight checks can be the first to fail, and each gives its reason. -/
theorem test_admission_reasons :
    [verdict { live with sched := { live.sched with state := .off } } 60,
      verdict { live with sched := { live.sched with state := .halted } } 60,
      verdict (with21 radio) 13, verdict (with21 radio) 4097, verdict live 60,
      verdict (with21 { radio with admin := .purging }) 60, verdict (with21 { radio with admin := .faulted }) 60,
      verdict (with21 { radio with address := 1 }) 60,
      verdict (with21 { radio with queue := List.replicate 256 0 }) 60,
      verdict { with21 radio with bm := { live.bm with freeDescs := [(0, 31)] } } 60,
      verdict { with21 radio with bm := { live.bm with freeCells := [(0, 14)] } } 4096,
      verdict { with21 radio with bm := { live.bm with freeDescs := [(0, 32)], freeCells := [(0, 15)] } } 4096,
      verdict (with21 radio) 14]
      = [some .notRunning, some .halted, some .badLength, some .badLength, some .unknownStation, some .stationBusy,
        some .stationFaulted, some .addressMismatch, some .queueFull, some .noBuffer, some .noBuffer, none, none] := by
  decide +kernel

theorem test_meets_AdmissionRefusesByFirstFailingCheck :
    (let s := arrived (with21 { radio with admin := .purging }) 60
     s.adm = .idle ∧ s.rx.ingress = entry 60 :: [] ∧ s.admissionVerdict (entry 60) = some .stationBusy
       ∧ s.bm.freeDescs.toList = 5 :: List.range' 6 99) := by decide +kernel

theorem test_meets_AdmissionWaitsForDescriptor :
    (let s := arrived { live with bm := { live.bm with freeDescs := [] } } 60
     s.rx.ingress = entry 60 :: [] ∧ s.adm = .idle ∧ s.bm.freeDescs.toList = []
       ∧ ({ s with adm := .waiting } : State).adm = .waiting)
      ∧ (arrived { live with adm := .waiting } 60).bm.freeDescs.toList ≠ [] := by decide +kernel

theorem test_meets_AdmissionAcceptsIntoWriting :
    (let s := arrived (with21 radio) 257
     s.adm = .idle ∧ s.rx.ingress = entry 257 :: [] ∧ s.admissionVerdict (entry 257) = none
       ∧ s.bm.freeDescs.toList = 5 :: List.range' 6 99) := by decide +kernel

/-- A frame of 257 bytes is being written into cells 10 and 11 for descriptor 5. -/
def writing : State := after .admissionDecision (arrived (with21 radio) 257)
/-- A claim that leaves fewer than 256 free descriptors sets the wanted PAUSE state, but not before the START event's
frame has been sent: not while the event waits, and not while its frame is on the line (R36, R189). -/
theorem test_pause_waits_for_start :
    (let s := arrived (with21 radio) 257
     let waits := { s with events := State.reset.events }
     let online := after .transmitterChoice waits
     (after .admissionDecision s).bm.pauseWanted = true ∧ s.startUnsent = false
       ∧ (after .admissionDecision waits).bm.pauseWanted = false ∧ waits.startUnsent = true
       ∧ (after .admissionDecision online).bm.pauseWanted = false ∧ online.startUnsent = true
       ∧ (after .startEventSent (after .admissionDecision online)).bm.pauseWanted = true
       ∧ (after .startEventSent online).startUnsent = false) := by decide +kernel
/-- Its station has been removed meanwhile. -/
def writingLate : State := writing.setStation 21 { radio with admin := .purging }

theorem test_meets_AppendQueuesFrame :
    writing.adm = .writing 5 ∧ writing.rx.ingress = entry 257 :: []
      ∧ firstFailure ((writing.admissionChecks (entry 257)).eraseIdx 1) = none := by decide +kernel

theorem test_meets_AppendRefusesLate :
    writingLate.Canonical ∧ writingLate.adm = .writing 5 ∧ writingLate.rx.ingress = entry 257 :: []
      ∧ firstFailure ((writingLate.admissionChecks (entry 257)).eraseIdx 1) = some .stationBusy
      ∧ ((writingLate.desc 5).segs.map fun g => g.cell.toNat).Nodup
      ∧ (∀ g ∈ (writingLate.desc 5).segs, writingLate.bm.owner g.cell.toNat = .desc 5) :=
  ⟨(canonical_iff _).1 (by decide +kernel), by decide +kernel⟩

theorem test_meets_AppendStoresFrameBytes :
    writing.Canonical ∧ writing.adm = .writing 5 ∧ writing.rx.ingress = entry 257 :: []
      ∧ (entry 257).bytes.length = (entry 257).declared.toNat ∧ 1 ≤ (entry 257).bytes.length
      ∧ (entry 257).bytes.length ≤ 4096 ∧ [10, 11].length = ((entry 257).bytes.length + 255) / 256
      ∧ [10, 11].Nodup ∧ (∀ c ∈ [10, 11], c < 16384)
      ∧ (writing.desc 5).segs = segmentList [10, 11] (entry 257).bytes.length :=
  ⟨(canonical_iff _).1 (by decide +kernel), by decide +kernel⟩

/-! ### The hypotheses of the statements are met: the Radio Link -/

theorem test_meets_LinkFollowsReceiveLock :
    (let s := { live with radio := { up := false, lock := true, settle := 1000, stream := none } }
     s.radio.up = false ∧ s.radio.lock = true ∧ 1000 ≤ s.radio.settle)
      ∧ (let s := { live with radio := { up := true, lock := false, settle := 100, stream := none } }
         s.radio.up = true ∧ s.radio.lock = false ∧ 100 ≤ s.radio.settle ∧ s.feeder = none)
      ∧ (let s := { feeding with radio := { feeding.radio with lock := false, settle := 100 } }
         s.radio.up = true ∧ s.radio.lock = false ∧ 100 ≤ s.radio.settle
           ∧ s.feeder = some { slot := 0, frame := 0, segment := 1, walk := none } ∧ (s.slot 0).isSome ∧ s.radio.stream.isSome) := by
  decide +kernel

theorem test_linkDown_cutsGrant :
    (let s := { feeding with radio := { feeding.radio with lock := false, settle := 100 } }
     let t := after .linkDown s
     t.feeder = none ∧ t.sched.state = .freezing ∧ (t.radio.stream.map GrantOut.ended) = some .cut
       ∧ t.events.records.map EventRecord.event = [.radioLink false]) := by decide +kernel

theorem test_meets_HostAndRadioMoveCauses :
    live.inReset = false ∧ soundNote 4 (noteFrame 4 65535) = true ∧ soundNote 5 (noteFrame 5 65535) = true
      ∧ (asked live 0x05 []).rp.queue = request 0x05 [] :: []
      ∧ RequestKind.ofCode 0x05 = some .freeze ∧ RequestKind.freeze.stateFault live.sched.state = none
      ∧ RequestKind.freeze.lengthOk [] = true
      ∧ RequestKind.ofCode 0x06 = some .thaw ∧ RequestKind.thaw.stateFault .frozen = none
      ∧ RequestKind.thaw.lengthOk [] = true
      ∧ live.rp.executing = none ∧ live.rp.held = none ∧ live.rp.stopped = false := by decide +kernel

theorem test_meets_NotesMovePowerAndPolls :
    queued.inReset = false
      ∧ soundNote 1 (noteFrame 1 21) = true ∧ soundNote 2 (noteFrame 2 21) = true ∧ soundNote 3 (noteFrame 3 21) = true
      ∧ fieldAt (frameBody (noteFrame 1 21)) 2 2 = 21
      ∧ fieldAt (frameBody (noteFrame 2 512)) 2 2 = 512 ∧ fieldAt (frameBody (noteFrame 3 511)) 2 2 = 511
      ∧ (queued.station 21).admin = .active ∧ (queued.station 21).power = .awake
      ∧ (polled.station 21).admin = .active ∧ (polled.station 21).power = .dozing
      ∧ (with21 { radio with power := .dozing }).station 21 = { radio with power := .dozing }
      ∧ ((with21 { radio with admin := .faulted }).station 21).admin = .faulted
      ∧ ((with21 { radio with admin := .purging }).station 21).admin = .purging
      ∧ (queued.station 511).admin = .free := by decide +kernel

theorem test_meets_UpMessages :
    live.inReset = false ∧ sound .radio 0x32 (upFrame 21 900 5 [1, 2, 3, 4]) = true
      ∧ live.uplink.claim = none ∧ (frameBody (upFrame 21 900 5 [1, 2, 3, 4])).length ≤ 4104
      ∧ (after (.uplinkSpaceClaim ((upFrame 21 900 5 [1, 2, 3, 4]).take 8)) live).uplink.claim
          = some (16 + ((frameBody (upFrame 21 900 5 [1, 2, 3, 4])).length - 8))
      ∧ ((with21 radio).station 21).admin = .active ∧ (live.station 21).admin = .free := by decide +kernel

/-- The parts of an UP message of `n` frame bytes, read back without computing its check. -/
theorem upFrame_parts (n : Nat) (bytes : List Byte) (h : bytes.length = n) :
    let x := upFrame 21 900 5 bytes
    x.length = n + 20 ∧ (x.drop (x.length - 4)) = beBytes 4 (crc32 (x.take (x.length - 4))).toNat
      ∧ frameBodyLength x = (n + 8) % 256 ^ 3 ∧ frameKind x = 0x32 ∧ (frameBody x).length = n + 8 := by
  have length : (upFrame 21 900 5 bytes).length = n + 20 := by
    simp [upFrame, frame, withCheck, h]; omega
  refine ⟨length, ?_, ?_, by simp [upFrame, frame, withCheck, frameKind, beBytes, byteAt], by simp [frameBody, length]⟩
  · have cut : ∀ y : List Byte, (withCheck y).drop ((withCheck y).length - 4)
        = beBytes 4 (crc32 ((withCheck y).take ((withCheck y).length - 4))).toNat := fun y => by
      rw [show (withCheck y).length - 4 = y.length by simp [withCheck]]
      simp [withCheck]
    exact cut _
  · simp only [upFrame, frame, withCheck, frameBodyLength, List.append_assoc]
    rw [fieldAt_append_right _ _ _ _ (by simp), fieldAt_append_right _ _ _ _ (by simp)]
    simp only [length_beBytes, length_zeros]
    rw [fieldAt_append_left _ _ _ _ (by simp), fieldAt_beBytes]
    simp [h]
    omega

/-- A frame of 4,097 bytes is over-length: body length 4,105. -/
theorem test_meets_UpMessageStoresOrLosesFrame_tooLong :
    sound .radio 0x32 (upFrame 21 900 5 (zeros 4097)) = true
      ∧ 4104 < (frameBody (upFrame 21 900 5 (zeros 4097))).length := by
  obtain ⟨length, check, bodyLength, kind, body⟩ := upFrame_parts 4097 (zeros 4097) (length_zeros _)
  refine ⟨?_, by rw [body]; omega⟩
  have fits : ∀ c : BitVec 32, beNat (beBytes 4 c.toNat) = c.toNat := fun c => by
    rw [beNat_beBytes]; exact Nat.mod_eq_of_lt c.isLt
  rw [length] at check
  simp [sound, frameFault, length, check, fits, bodyLength, kind, body, Side.accepts, fixedPart, kindUp, kindDone, kindNote,
    kindRequest]

/-! ### The hypotheses of the statements are met: grants -/

theorem test_meets_ArbiterChoosesInOrder :
    (({ polled with sched := { polled.sched with candidate := none } } : State).Canonical ∧ queued.Canonical)
      ∧ (let s := { polled with sched := { polled.sched with candidate := none } }
         s.sched.state = .running ∧ s.freeSlot ≠ none ∧ s.feeder = none ∧ s.sched.candidate = none
           ∧ (s.sched.pollQueue.find? fun i => !(s.station i).hold && (s.station i).slot.isNone) = some 21)
      ∧ (queued.sched.state = .running ∧ queued.freeSlot ≠ none ∧ queued.feeder = none ∧ queued.sched.candidate = none
          ∧ (queued.sched.pollQueue.find? fun i => !(queued.station i).hold && (queued.station i).slot.isNone) = none
          ∧ queued.sched.entryList = 21 :: [])
      ∧ (let s := { with21 { radio with deficit := -1048575, queue := [0], list := .round } with
            sched := { live.sched with roundList := [21] } }
         s.sched.entryList = [] ∧ s.sched.roundList ≠ []
           ∧ ∀ i ∈ s.sched.roundList, 1 ≤ (s.liveClass (s.station i)).quantum ∧ (s.station i).admin ≠ .free)
      ∧ (live.sched.pollQueue = [] ∧ live.sched.entryList = [] ∧ live.sched.roundList = []) :=
  ⟨⟨(canonical_iff _).1 (by decide +kernel), (canonical_iff _).1 (by decide +kernel)⟩, by decide +kernel⟩

/-- A deficit of 0 is topped up and one of 1 is not (R97): station 21 at 0 goes behind station 22 at 1. -/
theorem test_arbiterChoice_topUp :
    (let s := (with21 { radio with queue := [0], list := .round }).setStation 22
        { radio with deficit := 1, queue := [1], list := .round }
     let t := after .arbiterChoice { s with sched := { s.sched with roundList := [21, 22] } }
     t.sched.candidate = some { station := 22, kind := .round } ∧ (t.station 21).deficit = 1000
       ∧ t.sched.roundList = [21]) := by decide +kernel

theorem test_meets_FormationDropsUngrantable :
    (let s := { chosen with sched := { chosen.sched with state := .frozen } }
     s.sched.candidate = some { station := 21, kind := .round } ∧ s.sched.state ≠ .running
       ∧ (s.station 21).eligible = true)
      ∧ (let s := chosen.setStation 21 { chosen.station 21 with hold := true }
         s.sched.candidate = some { station := 21, kind := .round } ∧ (s.station 21).eligible = false)
      ∧ (let s := polled.setStation 21 { polled.station 21 with poll := false }
         s.sched.candidate = some { station := 21, kind := .poll } ∧ (s.station 21).poll = false) := by decide +kernel

theorem test_meets_RoundGrantIsFormed :
    chosen.Canonical ∧ chosen.sched.candidate = some { station := 21, kind := .round } ∧ chosen.sched.state = .running
      ∧ chosen.freeSlot = some 0 ∧ chosen.feeder = none ∧ (chosen.station 21).eligible = true
      ∧ (chosen.station 21).queue.Nodup :=
  ⟨(canonical_iff _).1 (by decide +kernel), by decide +kernel⟩

theorem test_meets_PollGrantIsFormed :
    polled.Canonical ∧ polled.sched.candidate = some { station := 21, kind := .poll } ∧ polled.sched.state = .running
      ∧ polled.freeSlot = some 0 ∧ polled.feeder = none ∧ (polled.station 21).admin = .active
      ∧ (polled.station 21).power = .dozing ∧ (polled.station 21).poll = true ∧ (polled.station 21).hold = false
      ∧ (polled.station 21).slot = none ∧ (polled.station 21).queue.Nodup :=
  ⟨(canonical_iff _).1 (by decide +kernel), by decide +kernel⟩

theorem test_meets_UnmatchedDoneIsDiscarded :
    live.inReset = false ∧ sound .radio 0x31 (doneFrame 4 0 0 0 []) = true
      ∧ 4 ≤ (byteAt (frameBody (doneFrame 4 0 0 0 [])) 0).toNat
      ∧ live.slot 3 = none
      ∧ (sent.slot 0).map Grant.serial = some 0 ∧ byteAt (frameBody (doneFrame 0 1 0 0 [])) 1 = 1
      ∧ (feeding.slot 0).map Grant.stream = some .streaming
      ∧ (sent.slot 0).map Grant.stream = some (.sent ⟨20000, 0⟩)
      ∧ (frameBody (doneFrame 0 0 0 0 [0])).length - 8 ≠ 2
      ∧ (∃ o ∈ (frameBody (doneFrame 0 0 0 0 [0, 4])).drop 8, 4 ≤ o.toNat) := by decide +kernel

/-- `sent` with station 21 removed in the meantime, its queue empty. -/
def sentPurging : State := sent.setStation 21 { sent.station 21 with admin := .purging }

theorem test_meets_ValidDoneEndsGrant :
    (sent.Canonical ∧ sentPurging.Canonical)
      ∧ sent.inReset = false ∧ sound .radio 0x31 (doneFrame 0 0 700 12 [0, 3]) = true
      ∧ (byteAt (frameBody (doneFrame 0 0 700 12 [0, 3])) 0).toNat = 0
      ∧ sent.slot 0 = some ⟨0, 21, .round, [⟨0, 257⟩, ⟨1, 100⟩], 210, .sent ⟨20000, 0⟩⟩
      ∧ sentPurging.slot 0 = sent.slot 0
      ∧ byteAt (frameBody (doneFrame 0 0 700 12 [0, 3])) 1 = 0
      ∧ (frameBody (doneFrame 0 0 700 12 [0, 3])).length - 8 = 2
      ∧ (∀ j, j < 2 → (byteAt (frameBody (doneFrame 0 0 700 12 [0, 3])) (8 + j)).toNat ≤ 3)
      ∧ [0, 1].Nodup ∧ (sent.station 21).admin ≠ .free ∧ (sent.station 21).slot = some 0
      ∧ (sent.station 21).list = .none ∧ sent.faultClaims = []
      ∧ (sentPurging.station 21).admin = .purging ∧ sentPurging.onPurgeList 21 = false
      ∧ (sentPurging.station 21).queue = [] ∧ (sentPurging.station 21).list = .none
      ∧ (sentPurging.station 21).slot = some 0
      ∧ (let s := { sent with faultClaims := [⟨20, .active, .feed⟩, ⟨21, .active, .release⟩, ⟨21, .active, .feed⟩] }
         s.faultClaims[2]? = some ⟨21, .active, .feed⟩ ∧ s.sched.state = .running ∧ s.openSlots = 1
           ∧ (∀ m, m < 2 → ∀ c, s.faultClaims[m]? = some c → ¬ (c.station = 21 ∧ c.phase = .feed))
           ∧ decide ((after (.faultClaim 2) s).faultClaims = s.faultClaims.take 2) = true
           ∧ ((after (.done (doneFrame 0 0 700 12 [0, 3])) s).station 21).faultFlag = false) :=
  ⟨⟨(canonical_iff _).1 (by decide +kernel), (canonical_iff _).1 (by decide +kernel)⟩, by decide +kernel⟩

/-- The grant of `sent` with its timer at the timeout. -/
def timedOut : State :=
  sent.setSlot 0 (some ⟨0, 21, .round, [⟨0, 257⟩, ⟨1, 100⟩], 210, .sent ⟨20000, 20000⟩⟩)

theorem test_meets_GrantTimeoutEndsGrant :
    timedOut.Canonical ∧ timedOut.slot 0 = some ⟨0, 21, .round, [⟨0, 257⟩, ⟨1, 100⟩], 210, .sent ⟨20000, 20000⟩⟩
      ∧ [0, 1].Nodup ∧ (timedOut.station 21).admin ≠ .free ∧ (timedOut.station 21).slot = some 0
      ∧ (timedOut.station 21).list = .none :=
  ⟨(canonical_iff _).1 (by decide +kernel), by decide +kernel⟩

/-! ### The hypotheses of the statements are met: walks, the Feeder, faults -/

/-- `queued` with descriptor 0 changed. -/
def damaged (x : Descriptor) : State := { queued with bm := queued.bm.setDesc 0 x }

/-- `queued` with descriptor 0 marked by the Feeder. -/
def marked : State := damaged { queuedDesc 257 [⟨3, 256⟩, ⟨4, 1⟩] with reason := some .chainFault }

theorem test_meets_WalksCheckInOrder :
    (damaged { queuedDesc 257 [] with parityOk := false }).bm.desc 0 = { queuedDesc 257 [] with parityOk := false }
      ∧ (let b := queued.bm
         Table.wf Owner.free b.owners = true ∧ (b.desc 0).parityOk = true ∧ (segmentCells (b.desc 0).segs).Nodup
           ∧ ∀ g ∈ (b.desc 0).segs, g.cell.toNat < 16384 ∧ b.owner g.cell.toNat = .desc 0 ∧ 1 ≤ g.count.toNat
              ∧ g.count.toNat ≤ 256)
      ∧ (let b := queued.bm
         ¬ ((16384 : BitVec 16).toNat < 16384) ∧ b.owner 5 ≠ .desc 0 ∧ ¬ 1 ≤ (0 : BitVec 9).toNat
           ∧ ¬ (257 : BitVec 9).toNat ≤ 256 ∧ b.owner 3 = .desc 0 ∧ 4 ∉ segmentCells [⟨3, 256⟩])
      ∧ (3 ∈ segmentCells [⟨3, 256⟩] ∧ queued.bm.wordEcc 3 31 = .sound
          ∧ (withEcc queued [(127, .single)]).bm.wordEcc 3 31 = .single ∧ 0 ≤ 31 ∧ 8 * 31 < min 256 257
          ∧ (withEcc queued [(96, .uncorrectable)]).bm.wordEcc 3 0 = .uncorrectable
          ∧ (queued.desc 0).openWalk.word = 0 ∧ (queued.desc 0).openWalk.rest = ⟨3, 256⟩ :: [⟨4, 1⟩])
      ∧ (marked.desc 0).reason = some .chainFault ∧ ((damaged (queuedDesc 257 [⟨5, 1⟩])).bm.releaseWalk 0).1 ≠ none := by
  decide +kernel

/-- A release by each of its three ends (R26): clean, at a chain fault of phase RELEASE, and already marked. -/
theorem test_release_ends :
    (let ends := [queued, damaged (queuedDesc 257 [⟨5, 1⟩]), marked].map fun s => s.release 21 0 .expired
     ends.map State.disposal = [[0], [], []] ∧ ends.map (fun t => t.bm.reclaim) = [[], [0], [0]]
       ∧ ends.map (fun t => t.ctr.chainFaults) = [0, 1, 0]
       ∧ ends.map (fun t => t.faultClaims) = [[], [⟨21, .active, .release⟩], []]
       ∧ ends.map (fun t => (t.station 21).counters.framesDropped) = [1, 0, 0]
       ∧ ends.map (fun t => (t.station 21).counters.framesFailed) = [0, 1, 1]) := by decide +kernel
/-- A segment list that names a cell twice: a feed walk passes both entries (R25). -/
theorem test_feedWalk_repeatedCell :
    (damaged (queuedDesc 2 [⟨3, 1⟩, ⟨3, 1⟩])).bm.feedWalk 0 = .clean [0x5A, 0x5A] := by decide +kernel

/-- The causes of R24, each as a release walk of a damaged descriptor 0 reports it, with segment and cell. -/
theorem test_releaseWalk_causes :
    ([queuedDesc 257 [⟨3, 256⟩, ⟨16384, 1⟩], queuedDesc 257 [⟨3, 256⟩, ⟨5, 1⟩], queuedDesc 257 [⟨3, 0⟩, ⟨4, 1⟩],
      queuedDesc 257 [⟨3, 257⟩], queuedDesc 258 [⟨3, 256⟩, ⟨4, 1⟩], queuedDesc 257 [⟨3, 256⟩, ⟨3, 1⟩],
      { queuedDesc 257 [] with parityOk := false }, queuedDesc 257 [⟨3, 256⟩, ⟨4, 1⟩]].map fun x =>
        ((damaged x).bm.releaseWalk 0).1.map fun f => (f.cause, f.segment, f.cell))
      = [some (.notPresent, 2, none), some (.foreign, 2, some 5), some (.badCount, 1, some 3),
        some (.badCount, 1, some 3), some (.lengthMismatch, 2, none), some (.foreign, 2, some 3),
        some (.descParity, 0, none), none] := by decide +kernel

/-- Where the Feeder stands in `feeding`, and its grant. -/
def feedStart : Feed := { slot := 0, frame := 0, segment := 1, walk := none }
def feedGrant : Grant := ⟨0, 21, .round, [⟨0, 257⟩, ⟨1, 100⟩], 210, .streaming⟩
/-- The sections of its two frames. -/
def feedSections : List Section :=
  [⟨257, 0x5A :: zeros 255 ++ [0x5B], .complete⟩, ⟨100, 0x5C :: zeros 99, .complete⟩]

theorem feeding_fedClean (ecc : Table Ecc) (n : Nat) (small : n ≤ 2)
    (first : (withEcc feeding ecc).fedTo feedStart 0 ⟨0, 257⟩ = .clean (0x5A :: zeros 255 ++ [0x5B]))
    (second : 2 ≤ n → (withEcc feeding ecc).fedTo feedStart 1 ⟨1, 100⟩ = .clean (0x5C :: zeros 99)) :
    (withEcc feeding ecc).FedClean feedStart feedGrant n (feedSections.take n) := by
  refine ⟨by rw [List.length_take]; simp [feedSections, feedStart]; omega, fun j h => ?_⟩
  simp only [feedStart, Nat.sub_zero] at h
  obtain rfl | rfl : j = 0 ∨ j = 1 := by omega
  · refine ⟨⟨0, 257⟩, _, rfl, first, ?_⟩
    rw [List.getElem?_take_of_lt h]; decide +kernel
  · refine ⟨⟨1, 100⟩, _, rfl, second (by omega), ?_⟩
    rw [List.getElem?_take_of_lt h]; decide +kernel

/-- A memory fault in the last word of frame 1, which its walk meets after frame 0 is fed clean; and a chain fault in
frame 0. -/
theorem test_meets_FeedFaultMarksFrame :
    (withEcc feeding [(172, .uncorrectable)]).FedClean feedStart feedGrant 1 (feedSections.take 1)
      ∧ feeding.feeder = some feedStart ∧ feeding.slot 0 = some feedGrant ∧ feeding.radio.stream.isSome
      ∧ feedGrant.frames[1]? = some ⟨1, 100⟩
      ∧ (withEcc feeding [(172, .uncorrectable)]).fedTo feedStart 1 ⟨1, 100⟩
          = .fault { cause := .uncorrectable, segment := 1, cell := some 5 } (0x5C :: zeros 95)
      ∧ (feeding.setDesc 0 { feeding.desc 0 with length := 258 }).fedTo feedStart 0 ⟨0, 257⟩
          = .fault { cause := .lengthMismatch, segment := 2, cell := none } (0x5A :: zeros 255 ++ [0x5B]) := by
  refine ⟨feeding_fedClean _ 1 (by decide) ?_ (fun h => absurd h (by decide)), ?_⟩ <;> decide +kernel

/-- Both frames clean; and a single-bit error in the last word read of frame 1. The word after it is not read (R27). -/
theorem test_meets_StreamEndsAndEccIsCounted :
    (withEcc feeding [(173, .uncorrectable)]).FedClean feedStart feedGrant feedGrant.frames.length feedSections
      ∧ (withEcc feeding [(172, .single)]).FedClean feedStart feedGrant 1 (feedSections.take 1)
      ∧ feeding.radio.up = true
      ∧ (withEcc feeding [(172, .single)]).fedTo feedStart 1 ⟨1, 100⟩
          = .corrected 1 { (feeding.desc 1).openWalk with word := 13, bytes := 0x5C :: zeros 99 }
      ∧ (feeding.desc 1).openWalk.rest = [⟨5, 100⟩] ∧ 32 * 5 + (13 - 1) = 172
      ∧ feedSections.map Section.length = [257, 100] ∧ (∀ x ∈ feedSections, x.bytes.length = x.length) := by
  refine ⟨feeding_fedClean _ 2 (by decide) ?_ (fun _ => ?_),
    feeding_fedClean _ 1 (by decide) ?_ (fun h => absurd h (by decide)), ?_⟩ <;> decide +kernel

theorem test_meets_FaultClaimSetsFlagOrEscalates :
    [FaultClaim.mk 21 .purging .release, FaultClaim.mk 21 .active .feed][1]? = some ⟨21, .active, .feed⟩
      ∧ (queued.station 21).admin = .active ∧ (queued.station 21).faultFlag = false
      ∧ ((with21 { radio with faultFlag := true }).station 21).faultFlag = true
      ∧ (live.station 21).admin ≠ .active := by decide +kernel

/-- A scan of descriptor 0 has come to entry `c`. -/
def scanning (c : Nat) : State :=
  { queued with bm := { queued.bm with reclaim := [0], scan := some { desc := 0, next := c } } }

theorem test_meets_ReclaimScanRetiresOwnedCells :
    (let s := { queued with bm := { queued.bm with reclaim := [0] } }
     s.bm.scan = none ∧ s.bm.reclaim = 0 :: [] ∧ (s.desc 0).parityOk = true)
      ∧ (scanning 2).bm.owner 2 ≠ .desc 0 ∧ (scanning 3).bm.owner 3 = .desc 0 ∧ 16383 < 16384
      ∧ (scanning 16384).bm.scan = some { desc := 0, next := 16384 } := by decide +kernel

theorem test_reclaimScanStart_begins :
    (let s := { queued with bm := { queued.bm with reclaim := [0] } }
     (after .reclaimScanStart s).bm.scan) = some { desc := 0, next := 0 } := by decide +kernel
theorem test_reclaimScanEnd_disposes :
    (let t := after .reclaimScanEnd (scanning 16384)
     t.disposal = [0] ∧ (t.desc 0).reason = some .chainFault ∧ t.bm.reclaim = [] ∧ t.bm.scan = none) := by decide +kernel
theorem test_reclaimScanEnd_early : decide (after .reclaimScanEnd (scanning 16383) = scanning 16383) = true := by
  decide +kernel

/-! ### The hypotheses of the statements are met: ageing and purge -/

theorem test_meets_SweepExpiresHeadFrames :
    queued.Canonical
      ∧ ({ queued.sweep with timer := some { limit := 50000, elapsed := 50000 } } : Sweep).timer
          = some { limit := 50000, elapsed := 50000 }
      ∧ ({ queued.sweep with position := some 511 } : Sweep).position = some 511
      ∧ (queued.station 511).queue.Nodup ∧ (queued.station 511).queue = []
      ∧ (queued.station 21).queue.Nodup ∧ (queued.station 21).queue ≠ [] ∧ (queued.station 21).admin ≠ .free :=
  ⟨(canonical_iff _).1 (by decide +kernel), by decide +kernel⟩

theorem test_sweepTimer_holdsBack :
    (let s := { live with sweep := { live.sweep with timer := some ⟨50000, 50000⟩, position := some 3 } }
     (after .sweepTimer s).sweep) = { timer := some ⟨50000, 0⟩, position := some 3, heldBack := true } := by decide +kernel

/-- Station 21 is being purged of its two frames. -/
def purging (p : Purpose) : State := { queued with purge := [⟨21, p⟩] }

theorem test_meets_PurgeStepEmptiesQueue :
    (purging .stop).Canonical ∧ (purging .stop).purge = ⟨21, .stop⟩ :: []
      ∧ ((purging .stop).station 21).queue ≠ [] ∧ ((purging .stop).station 21).admin ≠ .free
      ∧ ¬ ((purging .stop).station 21).queue.length ≤ 1
      ∧ ((after .purgeStep (purging .stop)).station 21).queue.length ≤ 1 :=
  ⟨(canonical_iff _).1 (by decide +kernel), by decide +kernel⟩

theorem test_purgeStep_stopsHead :
    (let t := after .purgeStep (purging .stop)
     t.disposal = [0] ∧ (t.desc 0).reason = some .stopped ∧ t.purge = [⟨21, .stop⟩] ∧ (t.station 21).queue = [1]) := by
  decide +kernel

/-! ### The hypotheses of the statements are met: requests -/

/-- The request at the head passes checks 1 to 4, as a test that evaluates. -/
def serves (s : State) (k : RequestKind) (q : Request) : Bool :=
  decide (s.rp.executing = none ∧ s.rp.held = none ∧ s.rp.stopped = false ∧ s.rp.queue = [q]
    ∧ RequestKind.ofCode q.code = some k ∧ q.overLength = false ∧ k.stateFault s.sched.state = none
    ∧ k.lengthOk q.body = true)

theorem serves_iff (s : State) (k : RequestKind) (q : Request) : serves s k q = true ↔ s.Serves k q [] := by
  simp only [serves, State.Serves, decide_eq_true_eq]

theorem test_meets_RequestsAreCheckedInOrder :
    live.rp.executing = none ∧ live.rp.held = none ∧ live.rp.stopped = false
      ∧ (asked live 0x14 []).rp.queue = request 0x14 [] :: [] ∧ RequestKind.ofCode (request 0x14 []).code = none
      ∧ RequestKind.ofCode 0x01 = some .identify ∧ RequestKind.identify.lengthOk [0] = false
      ∧ RequestKind.ofCode 0x03 = some .start ∧ RequestKind.start.stateFault live.sched.state = some .badState
      ∧ RequestKind.ofCode 0x06 = some .thaw ∧ RequestKind.thaw.stateFault live.sched.state = some .notFrozen := by
  decide +kernel

/-- The over-length body is refused before the state, and the state before the length (R177). -/
theorem test_requests_order :
    (let long : State := { live with rp := { live.rp with queue := [{ request 0x03 [] with overLength := true }] } }
     answer (after .start long) = some (2, 0x02) ∧ answer (after .start (asked live 0x03 [1])) = some (2, 0x03)
       ∧ answer (after .identify (asked live 0x01 [1])) = some (2, 0x02)) := by decide +kernel

theorem test_meets_ReadRequestsReport :
    (live.Canonical ∧ live.rp.options.inRange ∧ live.bm.retiredCount ≤ 16384
        ∧ (asked live 0x01 []).Serves .identify (request 0x01 []) []
        ∧ (asked live 0x17 []).Serves .backlogMap (request 0x17 []) [])
      ∧ (asked live 0x23 [1, 2, 7, 16]).Serves .tableRead (request 0x23 [1, 2, 7, 16]) []
      ∧ (asked live 0x23 [2, 1, 63, 32]).Serves .tableRead (request 0x23 [2, 1, 63, 32]) []
      ∧ (asked live 0x23 [2, 1, 64, 32]).Serves .tableRead (request 0x23 [2, 1, 64, 32]) [] :=
  ⟨⟨(canonical_iff _).1 (by decide +kernel), by unfold Options.inRange; decide +kernel, by decide +kernel,
      (serves_iff _ _ _).1 (by decide +kernel), (serves_iff _ _ _).1 (by decide +kernel)⟩,
    (serves_iff _ _ _).1 (by decide +kernel), (serves_iff _ _ _).1 (by decide +kernel),
    (serves_iff _ _ _).1 (by decide +kernel)⟩

/-- IDENTIFY's first eight bytes (12.4): part code, revision, state RUNNING, no cause, COMPACT, HONOR, 2 slots. -/
theorem test_identify_result :
    (after .identify (asked live 0x01 [])).tx.response.map (fun r => r.result.take 8)
      = some [0x51, 0x20, 1, 1, 0, 0, 0, 2] := by decide +kernel
/-- Station 21 with frames queued is bit 7 - 5 of byte 2 of BACKLOG MAP's first map. -/
theorem test_backlogMap_result :
    (after .backlogMap (asked queued 0x17 [])).tx.response.map (fun r => (r.result.take 4, r.result.length))
      = some ([0, 0, 4, 0], 128) := by decide +kernel
/-- TABLE READ of two live rate rows from code 12. -/
theorem test_tableRead_result :
    (after .tableRead (asked live 0x23 [2, 1, 12, 2])).tx.response.map Response.result
      = some [2, 1, 2, 0, 12, 0, 0, 30, 1, 0x55, 13, 0, 0, 0, 0, 0] := by decide +kernel

theorem test_meets_OptionsAreWrittenWhole :
    (asked live 0x02 [1, 0, 2, 1, 0, 10, 0, 16]).Serves .setOptions (request 0x02 [1, 0, 2, 1, 0, 10, 0, 16]) []
      ∧ (asked live 0x02 [1, 0, 3, 255, 3, 232, 4, 0]).Serves .setOptions (request 0x02 [1, 0, 3, 255, 3, 232, 4, 0]) []
      ∧ (asked live 0x02 [1, 0, 5, 1, 0, 10, 0, 16]).Serves .setOptions (request 0x02 [1, 0, 5, 1, 0, 10, 0, 16]) []
      ∧ (asked live 0x3F []).Serves .partReset (request 0x3F []) [] :=
  ⟨(serves_iff _ _ _).1 (by decide +kernel), (serves_iff _ _ _).1 (by decide +kernel),
    (serves_iff _ _ _).1 (by decide +kernel), (serves_iff _ _ _).1 (by decide +kernel)⟩

/-- The bounds of R180 are accepted, one beyond each is refused, and a change of slots outside OFF is BAD_STATE. -/
theorem test_setOptions_bounds :
    ([[1, 1, 2, 255, 3, 232, 4, 0], [0, 0, 2, 1, 0, 10, 0, 16], [0, 0, 2, 1, 0, 9, 0, 16], [0, 0, 2, 1, 0, 10, 0, 15],
      [0, 0, 2, 1, 3, 233, 0, 16], [0, 0, 2, 1, 0, 10, 4, 1], [2, 0, 2, 1, 0, 10, 0, 16], [0, 2, 2, 1, 0, 10, 0, 16],
      [0, 0, 0, 1, 0, 10, 0, 16], [0, 0, 4, 1, 0, 10, 0, 16]].map fun b => answer (after .setOptions (asked live 0x02 b)))
      = [some (0, 0), some (0, 0), some (2, 4), some (2, 4), some (2, 4), some (2, 4), some (2, 4), some (2, 4),
        some (2, 4), some (2, 3)] := by decide +kernel

/-- The scheduler is OFF with station 21 programmed and its rate code set. -/
def off : State := { with21 radio with sched := { live.sched with state := .off } }

theorem test_meets_StartAndStopMoveScheduler :
    (asked off 0x03 []).Serves .start (request 0x03 []) []
      ∧ (∀ i, i < 512 → ¬ ((off.station i).admin = .active ∧ (off.liveRate (off.station i)).cost = 0))
      ∧ off.bm.retiredCount < off.rp.options.retireLimit
      ∧ off.sched.causes = { host := false, radio := false, link := false }
      ∧ (let s := { off with sched := { off.sched with liveRate := [] } }
         ∀ j, j < 21 → ¬ ((s.station j).admin = .active ∧ (s.liveRate (s.station j)).cost = 0))
      ∧ (asked queued 0x04 []).Serves .stop (request 0x04 []) [] :=
  ⟨(serves_iff _ _ _).1 (by decide +kernel), by decide +kernel, by decide +kernel, by decide +kernel, by decide +kernel,
    (serves_iff _ _ _).1 (by decide +kernel)⟩

theorem test_start_outcomes :
    (let full : State := { off with bm := { off.bm with owners := (List.range 256).map fun c => (c, .retired) } }
     let held : State := { off with sched := { off.sched with causes := ⟨false, true, false⟩ } }
     (after .start (asked off 0x03 [])).sched.state = .running
       ∧ (after .start (asked held 0x03 [])).sched.state = .frozen
       ∧ answer (after .start (asked full 0x03 [])) = some (2, 0x07)) := by decide +kernel
theorem test_freeze_freezes :
    (after .freeze (asked sent 0x05 [])).sched.state = .freezing ∧ (after .freeze (asked live 0x05 [])).sched.state = .frozen := by
  decide +kernel
theorem test_mediumRelease_thaws :
    (let s := after (.mediumHold (noteFrame 4 0)) live
     (after (.mediumRelease (noteFrame 5 0)) s).sched.state) = .running := by decide +kernel

/-- A CLASS WRITE body of one entry. -/
def classBody (start : Byte) (quantum : Nat) : List Byte :=
  [start, 1, 0, 0] ++ beBytes 2 quantum ++ beBytes 2 4000 ++ [32, 0] ++ beBytes 2 256 ++ beBytes 2 500

theorem test_meets_TableWritesFillShadow :
    (asked live 0x20 (classBody 7 100)).Serves .classWrite (request 0x20 (classBody 7 100)) []
      ∧ (asked live 0x20 (classBody 8 100)).Serves .classWrite (request 0x20 (classBody 8 100)) []
      ∧ (asked live 0x21 [63, 1, 0, 0, 3, 255, 0, 0]).Serves .rateWrite (request 0x21 [63, 1, 0, 0, 3, 255, 0, 0]) []
      ∧ (asked live 0x21 [0, 1, 0, 0, 4, 0, 0, 0]).Serves .rateWrite (request 0x21 [0, 1, 0, 0, 4, 0, 0, 0]) []
      ∧ Table.wf ClassEntry.default live.sched.shadowClass = true
      ∧ Table.wf RateEntry.unset live.sched.shadowRate = true :=
  ⟨(serves_iff _ _ _).1 (by decide +kernel), (serves_iff _ _ _).1 (by decide +kernel),
    (serves_iff _ _ _).1 (by decide +kernel), (serves_iff _ _ _).1 (by decide +kernel), by decide +kernel,
    by decide +kernel⟩

theorem test_classWrite_bounds :
    ((after .classWrite (asked live 0x20 (classBody 7 100))).sched.shadowClass.map Prod.fst = [7]
      ∧ answer (after .classWrite (asked live 0x20 (classBody 8 100))) = some (2, 4)
      ∧ answer (after .classWrite (asked live 0x20 (classBody 7 99))) = some (2, 4)) := by decide +kernel
theorem test_rateWrite_bounds :
    ((after .rateWrite (asked live 0x21 [63, 2, 0, 0, 3, 255, 0, 9, 0, 1, 0, 2])).sched.shadowRate
        = [(48, ⟨1, 2⟩), (63, ⟨1023, 9⟩)]
      ∧ answer (after .rateWrite (asked live 0x21 [0, 1, 0, 0, 4, 0, 0, 0])) = some (2, 4)) := by decide +kernel

theorem test_meets_TableCommitClampsDeficits :
    (asked live 0x22 [3]).Serves .tableCommit (request 0x22 [3]) []
      ∧ (asked live 0x22 [0]).Serves .tableCommit (request 0x22 [0]) [] :=
  ⟨(serves_iff _ _ _).1 (by decide +kernel), (serves_iff _ _ _).1 (by decide +kernel)⟩

/-- A STATION PROGRAM body of one entry for station `i`. -/
def programBody (i : Nat) : List Byte := [1, 0, 0, 0] ++ beBytes 2 i ++ beBytes 6 0x0A0000000015 ++ [3, 12, 1, 25]

theorem test_meets_ClaimsRunOnWhereTheyStopped :
    (asked live 0x10 (programBody 21)).Serves .stationProgram (request 0x10 (programBody 21)) []
      ∧ (asked live 0x11 [1, 0, 0, 21]).Serves .stationRemove (request 0x11 [1, 0, 0, 21]) []
      ∧ (asked live 0x12 (zeros 64)).Serves .stationHold (request 0x12 (zeros 64)) []
      ∧ (asked live 0x13 (zeros 64)).Serves .stationRelease (request 0x13 (zeros 64)) []
      ∧ (asked live 0x15 [1, 0, 0, 21]).Serves .stationClearFault (request 0x15 [1, 0, 0, 21]) []
      ∧ (asked live 0x16 [1, 255, 32, 64, 0, 0]).Serves .stationRead (request 0x16 [1, 255, 32, 64, 0, 0]) []
      ∧ (asked live 0x24 [1]).Serves .counterRead (request 0x24 [1]) []
      ∧ (∃ t, exec (RequestKind.stationHold.command 3) (asked live 0x12 (zeros 64)) = .next t) :=
  ⟨(serves_iff _ _ _).1 (by decide +kernel), (serves_iff _ _ _).1 (by decide +kernel),
    (serves_iff _ _ _).1 (by decide +kernel), (serves_iff _ _ _).1 (by decide +kernel),
    (serves_iff _ _ _).1 (by decide +kernel), (serves_iff _ _ _).1 (by decide +kernel),
    (serves_iff _ _ _).1 (by decide +kernel), _, rfl⟩

/-- The refusals of STATION READ (R182): count 0, count above the format's, no cursor, start 512, a window of none of
the five, and the last start with the largest count. -/
theorem test_stationRead_checks :
    ([[0, 0, 0, 0, 0, 0], [0, 0, 33, 0, 0, 0], [255, 255, 1, 0, 0, 0], [2, 0, 1, 0, 0, 0], [0, 0, 1, 9, 0, 0],
      [1, 255, 32, 64, 0, 0]].map fun b => answer (after (.stationRead 0) (asked live 0x16 b)))
      = [some (2, 4), some (2, 4), some (2, 5), some (2, 4), some (2, 4), none] := by decide +kernel

theorem test_meets_StationProgramEntry :
    (executing live 0x10 (programBody 21) 0).rp.executing = some ⟨request 0x10 (programBody 21), 0, []⟩
      ∧ RequestKind.ofCode (request 0x10 (programBody 21)).code = some .stationProgram
      ∧ fieldAt (programBody 511) 4 2 < 512 ∧ ¬ fieldAt (programBody 512) 4 2 < 512
      ∧ fieldAt (programBody 21) 6 6 = 0x0A0000000015 ∧ (byteAt (programBody 21) 12).toNat < 8
      ∧ (byteAt (programBody 21) 13).toNat < 64 ∧ (byteAt (programBody 21) 14).toNat ≤ 1
      ∧ (byteAt (programBody 21) 15).toNat ∈ [0, 25, 50, 100]
      ∧ (queued.station 21).admin = .active ∧ (queued.station 21).address.toNat = 0x0A0000000015
      ∧ (live.station 21).admin = .free ∧ ((with21 { radio with address := 1 }).station 21).address.toNat = 1 := by
  decide +kernel

/-- The four failures of an entry, by the record of station 21, and the two successes. -/
theorem test_stationProgram_entries :
    ([with21 { radio with admin := .purging }, with21 { radio with admin := .faulted }, with21 { radio with address := 1 },
      queued, live].map fun s => answer (after (.stationProgram 1) (executing s 0x10 (programBody 21) 0)))
      = [some (1, 8), some (1, 9), some (1, 10), some (0, 0), some (0, 0)]
      ∧ answer (after (.stationProgram 1) (executing live 0x10 (programBody 512) 0)) = some (1, 4) := by decide +kernel

theorem test_meets_StationRemoveAndClearFaultEntries :
    (executing live 0x11 [1, 0, 0, 21] 0).rp.executing = some ⟨request 0x11 [1, 0, 0, 21], 0, []⟩
      ∧ RequestKind.ofCode 0x11 = some .stationRemove ∧ RequestKind.ofCode 0x15 = some .stationClearFault
      ∧ fieldAt [1, 0, 1, 255] 2 2 = 511 ∧ fieldAt [1, 0, 2, 0] 2 2 = 512
      ∧ (queued.station 21).admin = .active ∧ (queued.station 21).faultFlag = false
      ∧ ((with21 { radio with faultFlag := true }).station 21).faultFlag = true
      ∧ ((with21 { radio with admin := .faulted }).station 21).admin = .faulted
      ∧ (with21 { radio with admin := .faulted }).purge = []
      ∧ ((with21 { radio with admin := .faulted }).station 21).slot = none
      ∧ ((with21 { radio with admin := .faulted, slot := some 0 }).station 21).slot ≠ none := by decide +kernel

theorem test_stationRemove_entries :
    (let s := executing { queued with purge := [⟨21, .stop⟩] } 0x11 [1, 0, 0, 21] 0
     let t := after (.stationRemove 1) s
     (t.station 21).admin = .purging ∧ t.purge = [⟨21, .remove⟩] ∧ t.sched.entryList = [] ∧ answer t = some (0, 0)
       ∧ answer (after (.stationRemove 1) (executing live 0x11 [1, 0, 2, 0] 0)) = some (1, 0x0D)) := by decide +kernel

theorem test_stationClearFault_entries :
    ([with21 { radio with admin := .purging }, with21 { radio with admin := .faulted, slot := some 0 }, with21 radio,
      with21 { radio with faultFlag := true }, with21 { radio with admin := .faulted, faultFlag := true }, live].map
        fun s => answer (after (.stationClearFault 1) (executing s 0x15 [1, 0, 0, 21] 0)))
      = [some (1, 8), some (1, 8), some (1, 0x0B), some (0, 0), some (0, 0), some (1, 0x0D)] := by decide +kernel

theorem test_meets_HoldAndReleasePositions :
    (executing queued 0x12 (mapBytes 64 fun i => i == 21) 21).rp.executing.map Execution.done = some 21
      ∧ RequestKind.ofCode 0x12 = some .stationHold ∧ RequestKind.ofCode 0x13 = some .stationRelease
      ∧ (byteAt (mapBytes 64 fun i => i == 21) (21 / 8)).getLsbD (7 - 21 % 8) = true
      ∧ (byteAt (mapBytes 64 fun i => i == 21) (511 / 8)).getLsbD (7 - 511 % 8) = false
      ∧ (queued.station 21).admin ≠ .free := by decide +kernel

theorem test_stationRelease_ends :
    (let s := executing (with21 { radio with hold := true, queue := [0] }) 0x13 (mapBytes 64 fun i => i == 21) 21
     let t := after (.stationRelease 491) s
     (t.station 21).hold = false ∧ t.sched.roundList = [21] ∧ answer t = some (0, 0)) := by decide +kernel

theorem test_meets_StationReadReport :
    (executing queued 0x16 [0, 21, 1, 0, 1, 1] 0).rp.executing = some ⟨request 0x16 [0, 21, 1, 0, 1, 1], 0, []⟩
      ∧ RequestKind.ofCode (request 0x16 [0, 21, 1, 0, 1, 1]).code = some .stationRead := by decide +kernel

/-- The first bytes of the COMPACT report of station 21: index, ACTIVE, class 0, rate 12, flags, share, ENTRY, no slot. -/
theorem test_stationRead_report :
    (let t := after (.stationRead 1) (executing queued 0x16 [0, 21, 1, 0, 1, 1] 0)
     t.tx.response.map (fun r => (r.result.take 13, r.result.length))
        = some ([1, 0, 0, 0, 0, 21, 1, 0, 12, 0, 0, 1, 255], 60)) := by decide +kernel

theorem test_meets_CounterReadReport :
    (executing live 0x24 [1] 10).rp.executing = some ⟨request 0x24 [1], 10, []⟩
      ∧ RequestKind.ofCode (request 0x24 [1]).code = some .counterRead ∧ 10 < 11 := by decide +kernel

/-! ### The hypotheses of the invariants are met by a state with a station, a list and packet memory in use -/

/-- `queued` with the rest of both pools on the free lists. -/
def lawful : State :=
  let s := queued.setStation 21 { radio with deficit := 700, queue := [0, 1], list := .entry }
  { s with bm := { s.bm with freeDescs := [(2, 8189)], freeCells := [(0, 2), (6, 16377)] } }

theorem lawful_station (i : Nat) :
    lawful.station i
      = if i = 21 then { radio with deficit := 700, queue := [0, 1], list := .entry } else Station.free := by
  by_cases h : i = 21
  · subst h; decide +kernel
  · rw [if_neg h]
    show Table.get Station.free [(21, _)] i = _
    rw [Table.get, if_neg (Ne.symm h), Table.get]

theorem lawful_desc (d : Nat) :
    lawful.desc d
      = if d = 0 then queuedDesc 257 [⟨3, 256⟩, ⟨4, 1⟩] else if d = 1 then queuedDesc 100 [⟨5, 100⟩]
        else Descriptor.cleared := by
  show Table.get Descriptor.cleared [(0, _), (1, _)] d = _
  simp only [Table.get, eq_comm]

theorem lawful_owner (c : Nat) :
    lawful.bm.owner c = if c = 3 ∨ c = 4 then .desc 0 else if c = 5 then .desc 1 else .free := by
  have listed : lawful.bm.owners = [(3, .desc 0), (4, .desc 0), (5, .desc 1)] := rfl
  rw [BufferManager.owner, listed]
  simp only [Table.get]
  by_cases h3 : c = 3
  · subst h3; rfl
  · by_cases h4 : c = 4
    · subst h4; rfl
    · by_cases h5 : c = 5
      · subst h5; rfl
      · simp [h3, h4, h5, Ne.symm h3, Ne.symm h4, Ne.symm h5]

theorem lawful_slot (k : Nat) : lawful.slot k = none := rfl

theorem test_meets_StepKeepsFormsAndCapacities :
    lawful.Canonical ∧ lawful.WithinCapacity ∧ step lawful = .next lawful.tick :=
  ⟨(canonical_iff _).1 (by decide +kernel), by unfold State.WithinCapacity; decide +kernel, rfl⟩

theorem test_meets_StepKeepsCellLaw : lawful.bm.CellLaw := by
  have cells : lawful.bm.freeCells.toList = List.range' 0 3 ++ (List.range' 6 16378 ++ []) := rfl
  refine ⟨?_, fun c => ?_, fun c h => ?_⟩
  · rw [cells, List.nodup_append, List.append_nil]
    refine ⟨List.nodup_range' .., List.nodup_range' .., fun a ha b hb => ?_⟩
    simp only [List.mem_range'_1] at ha hb
    omega
  · rw [cells, lawful_owner]
    simp only [List.mem_append, List.mem_range'_1, List.not_mem_nil, or_false]
    split_ifs with h5 h6 <;> simp only [and_false, iff_false, and_true] <;> omega
  · rw [lawful_owner]
    split_ifs <;> first | rfl | omega

theorem test_meets_StepKeepsSchedulerLaws :
    lawful.SchedulerRelations ∧ lawful.SweepTimerLaw ∧ lawful.FeederLaw ∧ lawful.RetireLaw := by
  refine ⟨?_, ?_, ⟨fun k => ⟨fun ⟨g, h, _⟩ => ?_, fun ⟨f, h, _⟩ => ?_⟩, by decide +kernel⟩, ?_⟩
  · unfold State.SchedulerRelations; decide +kernel
  · unfold State.SweepTimerLaw; decide +kernel
  · rw [lawful_slot] at h; exact absurd h (by simp)
  · have idle : lawful.feeder = none := rfl
    rw [idle] at h; simp at h
  · unfold State.RetireLaw; decide +kernel

theorem test_meets_StepKeepsStationLaws : lawful.StationLaws := by
  have entries : lawful.sched.entryList = [21] := rfl
  have rounds : lawful.sched.roundList = [] := rfl
  have polls : lawful.sched.pollQueue = [] := rfl
  have candidate : lawful.sched.candidate = none := rfl
  refine ⟨⟨fun i h => ?_, fun i h => ?_⟩, ⟨?_, ?_, fun i => ?_, fun i => ?_, fun i => ?_, fun i h => ?_⟩,
    ⟨?_, fun i => ?_, fun i h => ?_⟩,
    ⟨fun k g h => ?_, fun i k h => ?_⟩, fun i h => ?_, fun c => ?_, test_meets_StepKeepsSchedulerLaws.1,
    ⟨?_, fun e h => ?_⟩, ⟨fun i => ?_, fun k g h => ?_⟩, ?_⟩
  · rw [lawful_station] at h ⊢
    split_ifs at h ⊢ <;> simp_all [radio]
  · rw [lawful_station]
    split_ifs
    · omega
    · rfl
  · decide +kernel
  · decide +kernel
  · rw [lawful_station, entries]; split_ifs <;> simp_all [Station.free]
  · rw [lawful_station, rounds]; split_ifs <;> simp_all [Station.free]
  · rw [lawful_station, candidate]; split_ifs <;> simp [Station.free, radio, Station.eligible]
  · rw [entries, List.mem_singleton] at h
    rw [h, lawful_station]; decide
  · decide +kernel
  · rw [lawful_station, polls]; split_ifs <;> simp [Station.free, radio]
  · rw [lawful_station] at h; split_ifs at h <;> simp [Station.free, radio] at h
  · rw [lawful_slot] at h; simp at h
  · rw [lawful_station] at h; split_ifs at h <;> simp [Station.free, radio] at h
  · rw [lawful_station] at h ⊢
    split_ifs at h ⊢
    · decide +kernel
    · simp [Station.free] at h
  · exact ⟨by show ClassEntry.inRange ClassEntry.default = true; decide,
      by show ClassEntry.inRange ClassEntry.default = true; decide⟩
  · decide +kernel
  · exact absurd h (by show e ∉ ([] : List PurgeEntry); simp)
  · rw [lawful_station]; split_ifs <;> simp [Station.free]
  · rw [lawful_slot] at h; simp at h
  · unfold Options.inRange; decide +kernel

theorem test_meets_StepKeepsPlaceLaw : lawful.PlaceLaw := by
  have descs : lawful.bm.freeDescs.toList = List.range' 2 8190 ++ [] := rfl
  refine ⟨fun d h => ?_, ⟨?_, fun d => ?_⟩, fun d => ?_, fun i => ?_, fun i j d hi hj => ?_, fun d => ⟨fun ⟨i, h⟩ => ?_, fun h => ?_⟩,
    fun k g h => ?_, fun k l g h d hk => ?_, fun d => ⟨fun ⟨k, g, h, _⟩ => ?_, fun h => ?_⟩, ⟨by decide +kernel, fun d => ?_⟩,
    ⟨by decide +kernel, fun d => ?_⟩, fun sc h => ?_⟩
  · rw [lawful_desc]; split_ifs <;> first | rfl | omega
  · rw [descs, List.append_nil]; exact List.nodup_range' ..
  · rw [descs, lawful_desc, List.append_nil, List.mem_range'_1]
    split_ifs <;> simp_all [queuedDesc, Descriptor.cleared]
    omega
  · have idle : lawful.adm = .idle := rfl
    rw [idle, lawful_desc]
    split_ifs <;> simp [queuedDesc, Descriptor.cleared]
  · rw [lawful_station]; split_ifs <;> simp [Station.free]
  · rw [lawful_station] at hi hj
    split_ifs at hi hj <;> simp_all [Station.free]
  · rw [lawful_station] at h
    rw [lawful_desc]
    split_ifs at h with hi
    · simp only [List.mem_cons, List.not_mem_nil, or_false] at h
      rcases h with h | h <;> subst h <;> decide
    · simp [Station.free] at h
  · refine ⟨21, ?_⟩
    rw [lawful_desc] at h
    rw [lawful_station]
    split_ifs at h <;> simp_all [queuedDesc, Descriptor.cleared]
  · rw [lawful_slot] at h; simp at h
  · rw [lawful_slot] at hk; simp at hk
  · rw [lawful_slot] at h; simp at h
  · rw [lawful_desc] at h; split_ifs at h <;> simp [queuedDesc, Descriptor.cleared] at h
  · have none : lawful.bm.reclaim = [] := rfl
    rw [none, lawful_desc]
    split_ifs <;> simp [queuedDesc, Descriptor.cleared]
  · have none : lawful.disposal = [] := rfl
    rw [none, lawful_desc]
    split_ifs <;> simp [queuedDesc, Descriptor.cleared]
  · exact absurd h (by show (none : Option Scan) ≠ some sc; simp)

end Sys2Proof.Tests
end

section
/-! PROOFS. The statements about the System Link and the Radio Link, and the invariant of forms and capacities. -/

-- The box bounds the threads of one Lean process, so the theorems are elaborated one after another.
set_option Elab.async false

namespace Sys2Proof.Machine

/-! ### What a step keeps: canonical forms and capacities (R7, R125, R175, R190)

`State.Keeps s t` says of each table and of each buffer that `t` has it in form, or within its capacity, if `s` has. It is
reflexive and transitive, so it is proved once for each operation, and of a command by the operations it is made of. A
field that an operation leaves alone is filled in by itself. -/

/-- Packet memory and the tables of the Buffer Manager stay canonical from `b` to `c`. -/
structure BufferManager.Keeps (b c : BufferManager) : Prop where
  mem : b.mem.wf = true → c.mem.wf = true := by exact fun h => h
  ecc : Table.wf Ecc.sound b.ecc = true → Table.wf Ecc.sound c.ecc = true := by exact fun h => h
  descs : Table.wf Descriptor.cleared b.descs = true → Table.wf Descriptor.cleared c.descs = true := by exact fun h => h
  owners : Table.wf Owner.free b.owners = true → Table.wf Owner.free c.owners = true := by exact fun h => h

/-- The space taken and set aside in the Ingress Buffer is within its capacity (R7). -/
def Receiver.Fits (r : Receiver) : Prop := (r.ingress.map IngressEntry.space).sum + r.claim.getD 0 ≤ 32768

/-- The space taken and set aside in the Uplink Buffer is within its capacity (R125). -/
def Uplink.Fits (u : Uplink) : Prop := (u.entries.map UpEntry.space).sum + u.claim.getD 0 ≤ 65536

/-- Every table stays canonical, and every buffer within its capacity, from `s` to `t`. -/
structure State.Keeps (s t : State) : Prop where
  bm : s.bm.Keeps t.bm := by exact {}
  stations : Table.wf Station.free s.stations = true → Table.wf Station.free t.stations = true := by exact fun h => h
  classes : Table.wf ClassEntry.default s.sched.liveClass = true ∧ Table.wf ClassEntry.default s.sched.shadowClass = true →
    Table.wf ClassEntry.default t.sched.liveClass = true ∧ Table.wf ClassEntry.default t.sched.shadowClass = true := by
      exact fun h => h
  rates : Table.wf RateEntry.unset s.sched.liveRate = true ∧ Table.wf RateEntry.unset s.sched.shadowRate = true →
    Table.wf RateEntry.unset t.sched.liveRate = true ∧ Table.wf RateEntry.unset t.sched.shadowRate = true := by
      exact fun h => h
  slots : Table.wf (none : Option Grant) s.sched.slots = true → Table.wf (none : Option Grant) t.sched.slots = true := by
    exact fun h => h
  ingress : s.rx.Fits → t.rx.Fits := by exact fun h => h
  uplink : s.uplink.Fits → t.uplink.Fits := by exact fun h => h
  requests : s.rp.queue.length ≤ 8 → t.rp.queue.length ≤ 8 := by exact fun h => h
  events : s.events.records.length ≤ 32 → t.events.records.length ≤ 32 := by exact fun h => h

/-- Together the fields are the two predicates of the statement. -/
theorem State.Keeps.forms_and_capacities {s t : State} (h : s.Keeps t) :
    (s.Canonical → t.Canonical) ∧ (s.WithinCapacity → t.WithinCapacity) := by
  constructor
  · rintro ⟨mem, ecc, descs, owners, stations, liveClass, shadowClass, liveRate, shadowRate, slots⟩
    have classes := h.classes ⟨liveClass, shadowClass⟩
    have rates := h.rates ⟨liveRate, shadowRate⟩
    exact ⟨h.bm.mem mem, h.bm.ecc ecc, h.bm.descs descs, h.bm.owners owners, h.stations stations, classes.1, classes.2,
      rates.1, rates.2, h.slots slots⟩
  · rintro ⟨ingress, uplink, requests, events⟩
    exact ⟨h.ingress ingress, h.uplink uplink, h.requests requests, h.events events⟩

theorem BufferManager.Keeps.refl (b : BufferManager) : b.Keeps b := {}

theorem BufferManager.Keeps.trans {a b c : BufferManager} (h : a.Keeps b) (g : b.Keeps c) : a.Keeps c :=
  ⟨g.mem ∘ h.mem, g.ecc ∘ h.ecc, g.descs ∘ h.descs, g.owners ∘ h.owners⟩

theorem State.Keeps.refl (s : State) : s.Keeps s := {}

theorem State.Keeps.trans {s t u : State} (h : s.Keeps t) (g : t.Keeps u) : s.Keeps u :=
  ⟨h.bm.trans g.bm, g.stations ∘ h.stations, g.classes ∘ h.classes, g.rates ∘ h.rates, g.slots ∘ h.slots,
    g.ingress ∘ h.ingress, g.uplink ∘ h.uplink, g.requests ∘ h.requests, g.events ∘ h.events⟩

theorem State.Keeps.ite {s t u : State} (c : Prop) [Decidable c] (h : s.Keeps t) (g : s.Keeps u) :
    s.Keeps (if c then t else u) := by
  split
  · exact h
  · exact g

/-! #### The Buffer Manager -/

/-- The Cell Owner Table that the self-test writes (R34). -/
theorem wf_retiredCells : ∀ failed : List Nat, Table.wf Owner.free (retiredCells failed) = true
  | [] => rfl
  | c :: rest => by
    rw [retiredCells]
    split
    · exact Table.wf_set (wf_retiredCells rest) _ _
    · exact wf_retiredCells rest

namespace BufferManager.Keeps
variable {b c : BufferManager}

theorem setDesc (b : BufferManager) (d : Nat) (x : Descriptor) : b.Keeps (b.setDesc d x) :=
  { descs := fun h => Table.wf_set h d x }

/-- An operation on the owner table and the two free lists alone. -/
theorem of_owners (h : c = { b with owners := c.owners, freeDescs := c.freeDescs, freeCells := c.freeCells })
    (owners : Table.wf Owner.free b.owners = true → Table.wf Owner.free c.owners = true) : b.Keeps c where
  mem := by rw [h]; exact fun h => h
  ecc := by rw [h]; exact fun h => h
  descs := by rw [h]; exact fun h => h
  owners := owners

theorem claimToQueue {n d : Nat} {cells : List Nat} (h : b.claimToQueue n = some (d, cells, c)) : b.Keeps c := by
  obtain ⟨_, _, _, _, _, form, owners, _⟩ := BufferManager.claimToQueue_some h
  exact of_owners form owners

theorem claimToRefuse {d : Nat} (h : b.claimToRefuse = some (d, c)) : b.Keeps c := by
  obtain ⟨_, form⟩ := BufferManager.claimToRefuse_some h
  rw [form]
  exact {}

theorem releaseWalk (b : BufferManager) (d : Nat) : b.Keeps (b.releaseWalk d).2 :=
  of_owners (by rw [BufferManager.releaseWalk_eq]) (BufferManager.wf_releaseWalk b d)

theorem giveBack (b : BufferManager) (d : Nat) (segs : List Segment) : b.Keeps (b.giveBack d segs) :=
  of_owners (by rw [BufferManager.giveBack_eq]) (BufferManager.wf_giveBack d segs b)

theorem returnDescs (b : BufferManager) (ds : List Nat) : b.Keeps (b.returnDescs ds) where
  mem := by rw [BufferManager.returnDescs_eq]; exact fun h => h
  ecc := by rw [BufferManager.returnDescs_eq]; exact fun h => h
  descs := BufferManager.wf_returnDescs ds b
  owners := by rw [BufferManager.returnDescs_eq]; exact fun h => h

theorem store (b : BufferManager) (segs : List Segment) (bytes : List Byte) : b.Keeps (b.store segs bytes) :=
  { mem := Memory.wf_writeFrame segs bytes, ecc := fun h => wf_eccAfterWrite h segs }

theorem retireCell (b : BufferManager) (c : Nat) : b.Keeps (b.retireCell c) :=
  { owners := fun h => Table.wf_set h c .retired }

theorem damage (b : BufferManager) (x : Option (Nat × Config.Damage)) : b.Keeps (b.damage x) := by
  cases x with
  | none => exact .refl b
  | some x =>
    unfold BufferManager.damage
    simp only
    split
    · exact setDesc b _ _
    · exact .refl b

theorem damageWord (b : BufferManager) (x : Option (Nat × Ecc)) : b.Keeps (b.damageWord x) := by
  cases x with
  | none => exact .refl b
  | some x =>
    unfold BufferManager.damageWord
    simp only
    split
    · exact { ecc := fun h => Table.wf_set h _ _ }
    · exact .refl b

theorem tested (b : BufferManager) (failed : List Nat) (n : Nat) : b.Keeps (b.tested failed n) where
  mem := by simp only [BufferManager.tested, Memory.wf, Table.wf_tabulate, implies_true]
  ecc := by simp only [BufferManager.tested, Table.wf_tabulate, implies_true]
  owners := fun _ => wf_retiredCells failed

end BufferManager.Keeps

/-! #### The buffers -/

/-- Entries that leave a buffer only free space. -/
theorem sum_map_drop_le {α : Type} (space : α → Nat) (l : List α) (n : Nat) :
    ((l.drop n).map space).sum ≤ (l.map space).sum :=
  ((List.drop_sublist n l).map space).sum_le_sum fun _ _ => Nat.zero_le _

theorem Receiver.Fits.drop {r : Receiver} (h : r.Fits) (n : Nat) : Receiver.Fits { r with ingress := r.ingress.drop n } :=
  le_trans (Nat.add_le_add_right (sum_map_drop_le _ _ n) _) h

theorem Uplink.Fits.drop {u : Uplink} (h : u.Fits) (n : Nat) : Uplink.Fits { u with entries := u.entries.drop n } :=
  le_trans (Nat.add_le_add_right (sum_map_drop_le _ _ n) _) h

/-- Space given up. -/
theorem Receiver.Fits.noClaim {r : Receiver} (h : r.Fits) : Receiver.Fits { r with claim := none } :=
  le_trans (Nat.add_le_add_left (Nat.zero_le _) _) h

theorem Uplink.Fits.noClaim {u : Uplink} (h : u.Fits) : Uplink.Fits { u with claim := none } :=
  le_trans (Nat.add_le_add_left (Nat.zero_le _) _) h

theorem EventQueue.length_put {q : EventQueue} (h : q.records.length ≤ 32) (now : Stamp) (e : Event) :
    (q.put now e).records.length ≤ 32 := by
  unfold EventQueue.put
  split
  case isTrue room => simpa using room
  case isFalse => exact h

/-! #### The operations the meanings share -/

namespace State.Keeps
variable {s t : State}

theorem setBm (h : s.Keeps t) {b : BufferManager} (hb : t.bm.Keeps b) : s.Keeps { t with bm := b } := h.trans { bm := hb }

theorem setStation (h : s.Keeps t) (i : Nat) (r : Station) : s.Keeps (t.setStation i r) :=
  h.trans { stations := fun h => Table.wf_set h i r }

theorem setDesc (h : s.Keeps t) (d : Nat) (x : Descriptor) : s.Keeps (t.setDesc d x) := h.setBm (.setDesc _ d x)

theorem setSlot (h : s.Keeps t) (k : Nat) (g : Option Grant) : s.Keeps (t.setSlot k g) :=
  h.trans { slots := fun h => Table.wf_set h k g }

theorem record (h : s.Keeps t) (e : Event) : s.Keeps (t.record e) :=
  h.trans { events := fun h => EventQueue.length_put h _ e }

theorem setSched (h : s.Keeps t) (n : SchedState) : s.Keeps (t.setSched n) := h.trans {}

theorem setCause (h : s.Keeps t) (c : Cause) (present : Bool) : s.Keeps (t.setCause c present) := h.trans {}

theorem setCandidate (h : s.Keeps t) (c : Option Candidate) : s.Keeps (t.setCandidate c) := h.trans {}

theorem count (h : s.Keeps t) (i : Nat) (f : StationCounters → StationCounters) : s.Keeps (t.count i f) := by
  unfold State.count
  split
  · exact h
  · exact h.setStation _ _

theorem joinList (h : s.Keeps t) (i : Nat) (freed : Bool) : s.Keeps (t.joinList i freed) := by
  unfold State.joinList
  simp only
  split <;> exact (h.setStation i _).trans {}

theorem leaveList (h : s.Keeps t) (i : Nat) : s.Keeps (t.leaveList i) := (h.setStation i _).trans {}

theorem relist (h : s.Keeps t) (i : Nat) (was freed : Bool) : s.Keeps (t.relist i was freed) := by
  rcases t.relist_cases i was freed with ⟨_, e⟩ | ⟨_, _, _, e⟩ | ⟨_, _, _, e⟩ | ⟨_, _, e⟩ <;> rw [e]
  · exact h
  · exact h.joinList i freed
  · exact h.leaveList i
  · exact h

theorem change (h : s.Keeps t) (i : Nat) (freed : Bool) (f : Station → Station) : s.Keeps (t.change i freed f) :=
  (h.setStation i _).relist i _ freed

theorem cancelPoll (h : s.Keeps t) (i : Nat) : s.Keeps (t.cancelPoll i) := by
  unfold State.cancelPoll
  split
  · exact (h.setStation i _).trans {}
  · exact h

theorem enterFrozen (h : s.Keeps t) : s.Keeps t.enterFrozen := (h.setSched .frozen).record _

theorem addCause (h : s.Keeps t) (c : Cause) : s.Keeps (t.addCause c) := by
  unfold State.addCause
  simp only
  split_ifs
  · exact h
  · exact (h.setCause c true).enterFrozen
  · exact (h.setCause c true).setSched .freezing
  · exact h.setCause c true

theorem removeCause (h : s.Keeps t) (c : Cause) : s.Keeps (t.removeCause c) := by
  unfold State.removeCause
  simp only
  split_ifs
  · exact ((h.setCause c false).setSched .running).record _
  · exact h.setCause c false
  · exact h

theorem checkStopped (h : s.Keeps t) : s.Keeps t.checkStopped := by
  unfold State.checkStopped
  split
  · exact ((h.setCause .host false).setSched .off).record _
  · exact h

theorem slotFreed (h : s.Keeps t) : s.Keeps t.slotFreed := by
  unfold State.slotFreed
  split
  · exact h.enterFrozen
  · exact h.checkStopped

theorem checkRetired (h : s.Keeps t) : s.Keeps t.checkRetired := by
  unfold State.checkRetired
  split
  · exact (h.setSched .halted).record _
  · exact h

theorem withPools (h : s.Keeps t) {b : BufferManager} (hb : t.bm.Keeps b) : s.Keeps (t.withPools b) := by
  have evaluated : s.Keeps { t with bm := BufferManager.evaluateFrom t.startUnsent t.bm b } := h.setBm (hb.trans {})
  unfold State.withPools
  simp only
  split
  · exact evaluated.checkRetired
  · exact evaluated

theorem checkTeardown (h : s.Keeps t) (i : Nat) : s.Keeps (t.checkTeardown i) := by
  unfold State.checkTeardown
  simp only
  split
  · exact (h.setStation i _).record _
  · exact h

theorem reportFault (h : s.Keeps t) (phase : Phase) (i : Nat) (cookie : BitVec 32) (f : WalkFault) :
    s.Keeps (t.reportFault phase i cookie f) := (h.trans {}).record _

theorem claimFault (h : s.Keeps t) (phase : Phase) (i : Nat) : s.Keeps (t.claimFault phase i) := h.trans {}

theorem protocolError (h : s.Keeps t) (cause : ProtocolCause) (kind slot serial : Byte) (i : StationIndex) :
    s.Keeps (t.protocolError cause kind slot serial i) := (h.trans {}).record _

theorem escalate (h : s.Keeps t) (i : Nat) : s.Keeps (t.escalate i) := by
  have faulted : s.Keeps ((t.change i false fun r => { r with admin := .faulted }).cancelPoll i) :=
    (h.change i false _).cancelPoll i
  unfold State.escalate
  simp only
  split
  · exact ((faulted.trans {}).record _).checkStopped
  · exact (faulted.trans {}).record _

theorem takeClaim (h : s.Keeps t) (c : FaultClaim) : s.Keeps (t.takeClaim c) := by
  unfold State.takeClaim
  split_ifs
  · exact h.escalate _
  · exact h.setStation _ _
  · exact h

theorem dispose (h : s.Keeps t) (d : Nat) (reason : Reason) : s.Keeps (t.dispose d reason) := (h.setDesc d _).trans {}

theorem toReclaim (h : s.Keeps t) (d : Nat) : s.Keeps (t.toReclaim d) := (h.setDesc d _).setBm {}

theorem release (h : s.Keeps t) (i d : Nat) (reason : Reason) : s.Keeps (t.release i d reason) := by
  unfold State.release
  simp only
  split
  · exact (h.toReclaim d).count i _
  · have walked := BufferManager.Keeps.releaseWalk t.bm d
    split
    case h_1 b e => rw [e] at walked; exact ((h.withPools walked).dispose d reason).count i _
    case h_2 f b e =>
      rw [e] at walked
      exact ((((h.withPools walked).reportFault .release i _ f).claimFault .release i).toReclaim d).count i _

theorem releases (i : Nat) : ∀ (l : List (Nat × Reason)) {t : State}, s.Keeps t → s.Keeps (t.releases i l)
  | [], _, h => h
  | (d, reason) :: rest, _, h => releases i rest (h.release i d reason)

theorem endStream (h : s.Keeps t) (ended : StreamEnd) : s.Keeps (t.endStream ended) := by
  unfold State.endStream
  split
  · exact h
  · simp only
    split
    · exact (h.setSlot _ _).trans {}
    · exact h.trans {}

theorem closeSlot (h : s.Keeps t) (k i : Nat) : s.Keeps (t.closeSlot k i) :=
  (((h.setSlot k none).change i true _).checkTeardown i).slotFreed

theorem popQueue (h : s.Keeps t) (i : Nat) : s.Keeps (t.popQueue i) := h.setStation i _

theorem handOver (h : s.Keeps t) : s.Keeps t.handOver := by
  unfold State.handOver
  split
  · exact h.trans {}
  · exact h

theorem finish (h : s.Keeps t) (r : Response) (cursor : Option Cursor) : s.Keeps (t.finish r cursor) :=
  handOver (h.trans {})

end State.Keeps

/-! #### The passing of time and the resets -/

theorem Grant.wf_tick {t : Table (Option Grant)} (h : Table.wf (none : Option Grant) t = true) :
    Table.wf (none : Option Grant) (t.map fun e => (e.1, e.2.map Grant.tick)) = true :=
  Table.wf_map (fun v hv => by simpa using hv) h

namespace State.Keeps
variable {s t : State}

theorem tick (s : State) : s.Keeps s.tick := by
  unfold State.tick
  split
  · exact .refl s
  · exact { bm := (BufferManager.Keeps.damage _ _).trans (.damageWord _ _), slots := Grant.wf_tick }

/-- A reset carries packet memory and its codes over, and every other table and buffer is empty after it (R188, R189). -/
theorem blocksReset (s : State) (pending : List Instr) (lock up : Bool) (n : Nat) :
    s.Keeps (State.blocksReset pending lock up s.bm.mem s.bm.ecc n) where
  bm := { descs := fun _ => rfl, owners := fun _ => rfl }
  stations := fun _ => rfl
  classes := fun _ => ⟨rfl, rfl⟩
  rates := fun _ => ⟨rfl, rfl⟩
  slots := fun _ => rfl
  ingress := fun _ => Nat.zero_le _
  uplink := fun _ => Nat.zero_le _
  requests := fun _ => Nat.zero_le _
  events := fun _ => Nat.zero_le _

theorem endReset (h : s.Keeps t) (power : Bool) : s.Keeps (t.endReset power) :=
  h.trans { events := fun _ => by simp [State.endReset] }

end State.Keeps

/-- Whatever state the outcome `o` of a command on `s` names, it keeps forms and capacities. -/
def State.KeptBy (s : State) (o : Host.Outcome State Fault Refusal) : Prop := ∀ t, o = .next t → s.Keeps t

theorem State.Keeps.next {s t : State} (h : s.Keeps t) : s.KeptBy (.next t) := by
  rintro _ ⟨⟩
  exact h

theorem execPowerOnReset_keeps (b : Bool) (s : State) : s.KeptBy (execPowerOnReset b s) := by
  refine .next ?_
  split
  · exact .blocksReset s _ _ _ _
  · exact (State.Keeps.blocksReset s _ _ _ _).endReset true

theorem execSelfTest_keeps (failed : List Nat) (s : State) : s.KeptBy (execSelfTest failed s) := by
  refine .next ?_
  split
  · exact State.Keeps.endReset { bm := .tested s.bm failed s.freeCtr } true
  · exact .refl s

theorem execSoftReset_keeps (s : State) : s.KeptBy (execSoftReset s) := by
  refine .next ?_
  split
  · exact (State.Keeps.blocksReset s _ _ _ _).endReset false
  · exact .refl s

/-! #### The System Link -/

theorem execIngressSpaceClaim_keeps (header : List Byte) (s : State) : s.KeptBy (execIngressSpaceClaim header s) := by
  refine .next ?_
  split_ifs with off free
  · exact .refl s
  · refine { ingress := fun _ => ?_ }
    have unclaimed : s.rx.claim = none := by simpa using (not_or.1 (not_or.1 (not_or.1 off).2).2).2
    simp only [Receiver.freeSpace, unclaimed, Config.ingressSpace_eq, Option.getD_none] at free
    simp only [Receiver.Fits, Option.getD_some]
    have pos : 0 < headerSpace header := by simp [headerSpace]
    omega
  · exact .refl s

theorem execDownFrameReceived_keeps (frame : List Byte) (s : State) : s.KeptBy (execDownFrameReceived frame s) := by
  refine .next ?_
  split
  · exact .refl s
  · split
    · exact {}
    case h_2 space claimed =>
      split
      case isTrue same =>
        refine { ingress := fun fits => ?_ }
        simp only [Receiver.Fits, claimed, Option.getD_some] at fits
        simp only [Receiver.Fits, List.map_append, List.sum_append, List.map_cons, List.map_nil, List.sum_cons, List.sum_nil,
          Option.getD_none]
        omega
      case isFalse => exact .refl s

theorem execRequestFrameReceived_keeps (frame : List Byte) (s : State) :
    s.KeptBy (execRequestFrameReceived frame s) := by
  refine .next ?_
  split_ifs with off room
  · exact .refl s
  · exact { requests := fun _ => by simpa using room }
  · exact {}

theorem execSystemLinkBadFrame_keeps (frame : List Byte) (s : State) : s.KeptBy (execSystemLinkBadFrame frame s) := by
  refine .next ?_
  split
  · exact .refl s
  · exact { ingress := fun h => h.noClaim }

namespace State.Keeps
variable {s t : State}

theorem startFrame (h : s.Keeps t) (b : OutBody) : s.Keeps (t.startFrame b) := h.trans {}

theorem startEvent (h : s.Keeps t) : s.Keeps t.startEvent := by
  unfold State.startEvent
  split
  · exact h
  case h_2 e rest waiting =>
    refine startFrame (h.trans { events := fun fits => ?_ }) _
    rw [waiting] at fits
    exact le_trans (Nat.le_succ _) fits

theorem startPause (h : s.Keeps t) : s.Keeps t.startPause := startFrame (h.trans {}) _

theorem startTraffic (h : s.Keeps t) : s.Keeps t.startTraffic := by
  have up : s.Keeps t.startUp := by
    unfold State.startUp
    split
    · exact h
    · exact startFrame (h.trans {}) _
  have disposal : s.Keeps t.startDisposal := startFrame (h.trans {}) _
  unfold State.startTraffic
  split_ifs
  · exact up
  · exact disposal
  · exact disposal
  · exact up

theorem chooseFrame (h : s.Keeps t) : s.Keeps t.chooseFrame := by
  unfold State.chooseFrame
  split
  · exact h.startEvent
  · split
    · exact h.startPause
    · split
      · exact h.startFrame _
      · split
        · exact h.startTraffic
        · exact h.startEvent

theorem lineEnded (h : s.Keeps t) : s.Keeps t.lineEnded := by
  unfold State.lineEnded
  split
  · exact h
  · split
    · exact handOver (h.trans {})
    · exact h.trans {}

end State.Keeps

theorem execTransmitterChoice_keeps (s : State) : s.KeptBy (execTransmitterChoice s) := by
  refine .next ?_
  split
  · exact (State.Keeps.refl s).chooseFrame
  · split
    · exact .refl s
    · exact (State.Keeps.refl s).lineEnded.chooseFrame

theorem execDisposalMessageSent_keeps (s : State) : s.KeptBy (execDisposalMessageSent s) := by
  refine .next ?_
  split
  · exact State.Keeps.withPools {} (.returnDescs s.bm _)
  · exact .refl s

theorem execUpFrameSent_keeps (s : State) : s.KeptBy (execUpFrameSent s) := by
  refine .next ?_
  split
  · exact { uplink := fun h => h.drop 1 }
  · exact .refl s

theorem execStartEventSent_keeps (s : State) : s.KeptBy (execStartEventSent s) := by
  refine .next ?_
  split
  · exact { bm := {} }
  · exact .refl s

/-! #### Downlink admission -/

namespace State.Keeps
variable {s t : State}

theorem admissionEnds (h : s.Keeps t) : s.Keeps t.admissionEnds := h.trans { ingress := fun fits => fits.drop 1 }

theorem countRefusal (h : s.Keeps t) (e : IngressEntry) : s.Keeps (t.countRefusal e) := by
  unfold State.countRefusal
  split
  · exact h.count _ _
  · exact h

theorem refuse (h : s.Keeps t) (e : IngressEntry) (reason : Reason) : s.Keeps (t.refuse e reason) := by
  unfold State.refuse
  split
  · exact h.trans {}
  case h_2 d b claimed =>
    have pools := h.withPools ((BufferManager.Keeps.claimToRefuse claimed).trans (.setDesc b d (refusedDesc e reason)))
    exact ((pools.trans {}).countRefusal e).admissionEnds

theorem decideAdmission (h : s.Keeps t) (e : IngressEntry) : s.Keeps (t.decideAdmission e) := by
  unfold State.decideAdmission
  split
  · exact h.refuse e _
  · split
    · exact h.refuse e .noBuffer
    case h_2 d cells b claimed =>
      exact (h.withPools ((BufferManager.Keeps.claimToQueue claimed).trans (.setDesc b d _))).trans {}

theorem enqueue (h : s.Keeps t) (e : IngressEntry) (d : Nat) : s.Keeps (t.enqueue e d) :=
  ((h.setDesc d _).change _ false _).admissionEnds

theorem refuseLate (h : s.Keeps t) (e : IngressEntry) (d : Nat) (reason : Reason) :
    s.Keeps (t.refuseLate e d reason) := by
  have pools := h.withPools ((BufferManager.Keeps.giveBack t.bm d (t.desc d).segs).trans
    (.setDesc _ d (refusedDesc e reason)))
  exact ((pools.trans {}).countRefusal e).admissionEnds

end State.Keeps

theorem execAdmissionDecision_keeps (s : State) : s.KeptBy (execAdmissionDecision s) := by
  refine .next ?_
  split
  · exact (State.Keeps.refl s).decideAdmission _
  · exact .refl s

theorem execAdmissionRetry_keeps (s : State) : s.KeptBy (execAdmissionRetry s) := by
  refine .next ?_
  split
  · split
    · exact .refl s
    · exact (State.Keeps.refl s).decideAdmission _
  · exact .refl s

theorem execAppend_keeps (s : State) : s.KeptBy (execAppend s) := by
  refine .next ?_
  split
  case h_1 d e _ _ _ =>
    have stored : s.Keeps { s with bm := s.bm.store (s.desc d).segs e.bytes } := { bm := .store s.bm _ _ }
    simp only
    split
    · exact stored.enqueue _ _
    · exact stored.refuseLate _ _ _
  case h_2 => exact .refl s

/-! #### The Radio Link, its notes, and uplink forwarding -/

theorem execReceiveLockChange_keeps (lock : Bool) (s : State) : s.KeptBy (execReceiveLockChange lock s) := by
  refine .next ?_
  split
  · exact .refl s
  · exact {}

theorem execLinkUp_keeps (s : State) : s.KeptBy (execLinkUp s) := by
  refine .next ?_
  split
  · exact (State.Keeps.record {} _).removeCause .link
  · exact .refl s

theorem execLinkDown_keeps (s : State) : s.KeptBy (execLinkDown s) := by
  refine .next ?_
  split
  · exact ((State.Keeps.record { uplink := fun h => h.noClaim } _).endStream .cut).addCause .link
  · exact .refl s

theorem execRadioLinkBadFrame_keeps (frame : List Byte) (s : State) : s.KeptBy (execRadioLinkBadFrame frame s) := by
  refine .next ?_
  split
  · exact .refl s
  · split
    · exact .refl s
    · exact State.Keeps.protocolError { uplink := fun h => h.noClaim } _ _ _ _ _

namespace State.Keeps
variable {s t : State}

theorem ignoreNote (h : s.Keeps t) : s.Keeps t.ignoreNote := h.trans {}

theorem doze (h : s.Keeps t) (i : Nat) : s.Keeps (t.doze i) := by
  unfold State.doze
  split
  · exact h.ignoreNote
  · exact h.ignoreNote
  · exact h.setStation i _
  · exact h.change i false _

theorem wake (h : s.Keeps t) (i : Nat) : s.Keeps (t.wake i) := by
  unfold State.wake
  split
  · exact h.ignoreNote
  · exact h.ignoreNote
  · exact h.setStation i _
  · split
    · exact (h.cancelPoll i).change i false _
    · exact h

theorem takePoll (h : s.Keeps t) (i : Nat) : s.Keeps (t.takePoll i) := by
  unfold State.takePoll
  split
  · exact h.ignoreNote
  · exact h.ignoreNote
  · exact h.ignoreNote
  · split
    · exact (h.setStation i _).trans {}
    · exact h.ignoreNote

theorem chargeUplink (h : s.Keeps t) (i airtime : Nat) : s.Keeps (t.chargeUplink i airtime) := by
  unfold State.chargeUplink
  simp only
  split
  · exact (h.setStation i _).trans {}
  · exact h.setStation i _

theorem sortUplink (h : s.Keeps t) (m : UpMessage) : s.Keeps (t.sortUplink m) := by
  unfold State.sortUplink
  split
  · exact h.chargeUplink _ _
  · exact h.trans {}

theorem loseUplink (h : s.Keeps t) (m : UpMessage) (known : Bool) : s.Keeps (t.loseUplink m known) := by
  unfold State.loseUplink
  split_ifs
  · exact h
  · exact h.protocolError _ _ _ _ _
  · exact h.count _ _
  · exact h

end State.Keeps

/-- A note, or a message, is taken on a sound frame outside a reset, and is ignored otherwise. -/
theorem State.Keeps.unless {s t : State} (c : Prop) [Decidable c] (h : s.Keeps t) :
    s.KeptBy (.next (if c then s else t)) := (ite c (refl s) h).next

theorem execDoze_keeps (frame : List Byte) (s : State) : s.KeptBy (execDoze frame s) := ((State.Keeps.refl s).doze _).unless _

theorem execWake_keeps (frame : List Byte) (s : State) : s.KeptBy (execWake frame s) := ((State.Keeps.refl s).wake _).unless _

theorem execPoll_keeps (frame : List Byte) (s : State) : s.KeptBy (execPoll frame s) :=
  ((State.Keeps.refl s).takePoll _).unless _

theorem execMediumHold_keeps (frame : List Byte) (s : State) : s.KeptBy (execMediumHold frame s) :=
  ((State.Keeps.refl s).addCause .radio).unless _

theorem execMediumRelease_keeps (frame : List Byte) (s : State) : s.KeptBy (execMediumRelease frame s) :=
  ((State.Keeps.refl s).removeCause .radio).unless _

theorem execUplinkSpaceClaim_keeps (header : List Byte) (s : State) : s.KeptBy (execUplinkSpaceClaim header s) := by
  refine .next ?_
  split_ifs with off free
  · exact .refl s
  · refine { uplink := fun _ => ?_ }
    have unclaimed : s.uplink.claim = none := by simpa using (not_or.1 (not_or.1 (not_or.1 off).2).2).2
    obtain ⟨_, _, fits⟩ := free
    simp only [Uplink.freeSpace, unclaimed, Config.uplinkSpace_eq, Option.getD_none] at fits
    simp only [Uplink.Fits, Option.getD_some]
    omega
  · exact .refl s

theorem State.Keeps.takeUp (s : State) (m : UpMessage) : s.Keeps (s.takeUp m) := by
  have sorted := (State.Keeps.refl s).sortUplink m
  unfold State.takeUp
  simp only
  split
  · exact sorted.loseUplink m _
  case h_2 space claimed =>
    split
    case isTrue same =>
      refine { sorted with uplink := fun fits => ?_ }
      simp only [Uplink.Fits, claimed, Option.getD_some] at fits
      simp only [Uplink.Fits, List.map_append, List.sum_append, List.map_cons, List.map_nil, List.sum_cons, List.sum_nil,
        Option.getD_none]
      omega
    case isFalse => exact .refl s

theorem execUpMessage_keeps (frame : List Byte) (s : State) : s.KeptBy (execUpMessage frame s) :=
  (State.Keeps.takeUp s _).unless _

/-! #### The end of a grant -/

namespace State.Keeps
variable {s t : State}

theorem queueAgain : ∀ (ds : List Nat) {t : State}, s.Keeps t → s.Keeps (t.queueAgain ds)
  | [], _, h => h
  | d :: rest, _, h => queueAgain rest (h.setDesc d _)

theorem takeClaims : ∀ (claims : List FaultClaim) {t : State}, s.Keeps t → s.Keeps (claims.foldl State.takeClaim t)
  | [], _, h => h
  | c :: rest, _, h => takeClaims rest (h.takeClaim c)

theorem settleFeedClaims (h : s.Keeps t) (i : Nat) : s.Keeps (t.settleFeedClaims i) := takeClaims _ (h.trans {})

theorem validDone (h : s.Keeps t) (k : Nat) (g : Grant) (m : DoneMsg) (outcomes : List FrameOutcome) :
    s.Keeps (t.validDone k g m outcomes) :=
  (releases g.station _ ((queueAgain _ (h.settleFeedClaims g.station)).setStation g.station _)).closeSlot k g.station

theorem lateDone (h : s.Keeps t) (m : DoneMsg) : s.Keeps (t.lateDone m) := record (h.trans {}) _

theorem takeDone (h : s.Keeps t) (m : DoneMsg) : s.Keeps (t.takeDone m) := by
  unfold State.takeDone
  split
  · exact h.lateDone m
  · split
    · exact h.lateDone m
    · split
      · exact h.protocolError _ _ _ _ _
      · split
        · exact h.protocolError _ _ _ _ _
        · exact h.validDone _ _ m _

theorem timeout (h : s.Keeps t) (k : Nat) (g : Grant) : s.Keeps (t.timeout k g) :=
  (releases g.station _ ((h.setStation g.station _).trans {})).closeSlot k g.station

end State.Keeps

theorem execDone_keeps (frame : List Byte) (s : State) : s.KeptBy (execDone frame s) :=
  ((State.Keeps.refl s).takeDone _).unless _

theorem execGrantTimeout_keeps (k : Nat) (s : State) : s.KeptBy (execGrantTimeout k s) := by
  refine .next ?_
  split
  · exact .refl s
  · split
    · exact .refl s
    · split
      · exact (State.Keeps.refl s).timeout k _
      · exact .refl s

/-! #### Choice, formation and feeding -/

namespace State.Keeps
variable {s t : State}

theorem topUp : ∀ (n : Nat) {t : State}, s.Keeps t → s.Keeps (State.topUp n t).2 := by
  intro n
  induction n with
  | zero =>
    intro t h
    unfold State.topUp
    split
    · exact h
    · split <;> exact h
  | succ n ih =>
    intro t h
    unfold State.topUp
    split
    · exact h
    · split
      · exact h
      · exact ih ((h.setStation _ _).trans {})

theorem takeRound (h : s.Keeps t) (i : Nat) : s.Keeps (t.takeRound i) := (h.leaveList i).setCandidate _

theorem place (h : s.Keeps t) (i d : Nat) : s.Keeps (t.place i d) := (h.popQueue i).setDesc d _

theorem formRound (i most : Nat) (limit : Int) (row : RateEntry) : ∀ (queue : List Nat) (frames : List GrantFrame)
    (sum : Nat) {t : State}, s.Keeps t → s.Keeps (State.formRound i most limit row queue frames sum t).2.2
  | [], _, _, _, h => h
  | d :: rest, frames, sum, t, h => by
    rw [State.formRound]
    split
    · exact h
    · split
      · exact formRound i most limit row rest _ _ ((h.popQueue i).release i d _)
      · simp only
        split
        · exact formRound i most limit row rest _ _ (h.place i d)
        · exact h

theorem formPoll (i : Nat) (row : RateEntry) : ∀ (queue : List Nat) {t : State}, s.Keeps t →
    s.Keeps (State.formPoll i row queue t).2.2
  | [], _, h => h
  | d :: rest, t, h => by
    rw [State.formPoll]
    split
    · exact formPoll i row rest ((h.popQueue i).release i d _)
    · exact h.place i d

theorem issue (h : s.Keeps t) (k i : Nat) (kind : GrantKind) (frames : List GrantFrame) (estimate : Nat) :
    s.Keeps (t.issue k i kind frames estimate) := by
  unfold State.issue
  simp only
  split
  · exact (((h.setSlot k _).setStation i _).count i _).trans {}
  · exact endStream ((((h.setSlot k _).setStation i _).count i _).trans {}) .cut

theorem form (h : s.Keeps t) (c : Candidate) : s.Keeps (t.form c) := by
  unfold State.form
  simp only
  split
  · have formed := formRound c.station (t.liveClass (t.station c.station)).maxFrames
      (min (t.station c.station).deficit (t.liveClass (t.station c.station)).maxAirtime)
      (t.liveRate (t.station c.station)) (t.station c.station).queue [] 0 h
    split
    case h_1 e => rw [e] at formed; exact formed
    case h_2 e => rw [e] at formed; exact formed.issue _ _ _ _ _
  · exact ((formPoll c.station _ _ h).cancelPoll c.station).issue _ _ _ _ _

theorem sendSections (h : s.Keeps t) (l : List Section) : s.Keeps (t.sendSections l) := h.trans {}

theorem markFault (h : s.Keeps t) (i : Nat) (fr : GrantFrame) (read : Descriptor) (f : WalkFault) :
    s.Keeps (t.markFault i fr read f) := by
  unfold State.markFault
  simp only
  split
  · exact (h.setDesc fr.desc _).reportFault .feed i _ f
  · exact ((h.setDesc fr.desc _).reportFault .feed i _ f).claimFault .feed i

end State.Keeps

theorem execArbiterChoice_keeps (s : State) : s.KeptBy (execArbiterChoice s) := by
  refine .next ?_
  split
  · split
    · exact (State.Keeps.refl s).setCandidate _
    · split
      · exact (State.Keeps.refl s).takeRound _
      · have topped := State.Keeps.topUp s.topUpBound (State.Keeps.refl s)
        split
        case h_1 e => rw [e] at topped; exact topped.takeRound _
        case h_2 e => rw [e] at topped; exact topped
  · exact .refl s

theorem execGrantFormation_keeps (s : State) : s.KeptBy (execGrantFormation s) := by
  have ended := (State.Keeps.refl s).setCandidate none
  refine .next ?_
  split
  · exact .refl s
  · simp only
    split_ifs
    · exact ended.form _
    · exact ended.joinList _ false
    · exact ended

theorem execFeedFault_keeps (n : Nat) (cell : Option Nat) (s : State) : s.KeptBy (execFeedFault n cell s) := by
  refine .next ?_
  split
  · exact .refl s
  · split
    · split
      · exact State.Keeps.markFault {} _ _ _ _
      · exact .refl s
    · exact .refl s

theorem execStreamEnd_keeps (s : State) : s.KeptBy (execStreamEnd s) := by
  refine .next ?_
  split
  · exact .refl s
  · split
    · split
      · exact ((State.Keeps.refl s).sendSections _).endStream .whole
      · exact .refl s
    · exact .refl s

theorem execCorrectedEccError_keeps (word : Nat) (s : State) : s.KeptBy (execCorrectedEccError word s) := by
  refine .next ?_
  split
  · exact .refl s
  · split
    · split
      · exact {}
      · exact .refl s
    · exact .refl s

/-! #### Fault claims, the Reclaim Scan, ageing and purge -/

theorem execFaultClaim_keeps (n : Nat) (s : State) : s.KeptBy (execFaultClaim n s) := by
  refine .next ?_
  split
  · exact .refl s
  · exact State.Keeps.takeClaim {} _

theorem execReclaimScanStart_keeps (s : State) : s.KeptBy (execReclaimScanStart s) := by
  refine .next ?_
  split
  · simp only
    split
    · exact { bm := {} }
    · exact State.Keeps.reportFault { bm := {} } .reclaim _ _ _
  · exact .refl s

theorem execReclaimScanVisit_keeps (s : State) : s.KeptBy (execReclaimScanVisit s) := by
  refine .next ?_
  split
  · exact .refl s
  case h_2 sc _ =>
    have visited : s.bm.Keeps (if s.bm.owner sc.next = .desc sc.desc then s.bm.retireCell sc.next else s.bm) := by
      split
      · exact .retireCell s.bm sc.next
      · exact .refl s.bm
    split
    · exact (State.Keeps.refl s).withPools (visited.trans {})
    · exact .refl s

theorem execReclaimScanEnd_keeps (s : State) : s.KeptBy (execReclaimScanEnd s) := by
  refine .next ?_
  split
  · exact .refl s
  · split
    · exact State.Keeps.dispose { bm := {} } _ .chainFault
    · exact .refl s

theorem execSweepTimer_keeps (s : State) : s.KeptBy (execSweepTimer s) := by
  refine .next ?_
  split
  · exact .refl s
  · split
    · exact {}
    · exact .refl s

namespace State.Keeps
variable {s t : State}

theorem sweepQueue (i : Nat) : ∀ (queue : List Nat) {t : State}, s.Keeps t → s.Keeps (State.sweepQueue i queue t)
  | [], _, h => h
  | d :: rest, t, h => by
    rw [State.sweepQueue]
    split
    · exact sweepQueue i rest ((h.popQueue i).release i d .expired)
    · exact h

theorem sweepStation (h : s.Keeps t) (i : Nat) : s.Keeps (t.sweepStation i) := (sweepQueue i _ h).relist i _ false

theorem purgeHead (h : s.Keeps t) (i : Nat) (reason : Reason) : s.Keeps (t.purgeHead i reason) := by
  unfold State.purgeHead
  split
  · exact h
  · exact ((h.popQueue i).release i _ reason).relist i _ false

theorem purgeEntryLeaves (h : s.Keeps t) (i : Nat) : s.Keeps (t.purgeEntryLeaves i) :=
  (checkTeardown (h.trans {}) i).checkStopped

end State.Keeps

theorem execSweepVisit_keeps (s : State) : s.KeptBy (execSweepVisit s) := by
  refine .next ?_
  split
  · exact .refl s
  · exact ((State.Keeps.refl s).sweepStation _).trans {}

theorem execPurgeStep_keeps (s : State) : s.KeptBy (execPurgeStep s) := by
  refine .next ?_
  split
  · exact .refl s
  case h_2 e _ _ =>
    have released := (State.Keeps.refl s).purgeHead e.station e.purpose.reason
    simp only
    split
    · exact released.purgeEntryLeaves e.station
    · exact released

/-! #### Requests -/

namespace State.Keeps
variable {s t : State}

/-- A request taken leaves the Request Queue. -/
theorem takeRequest (h : s.Keeps t) {k : Option RequestKind} {q : Request} {u : State}
    (taken : t.takeRequest k = some (q, u)) : s.Keeps u := by
  unfold State.takeRequest at taken
  split at taken
  · split at taken
    case h_1 rest waiting =>
      split at taken
      · cases taken
        refine h.trans { requests := fun fits => ?_ }
        rw [waiting] at fits
        exact le_trans (Nat.le_succ _) fits
      · cases taken
    case h_2 => cases taken
  · cases taken

/-- A request executed in one step keeps what its run keeps. -/
theorem request (k : RequestKind) {run : Request → State → State}
    (runs : ∀ q {u : State}, s.Keeps u → s.Keeps (run q u)) : s.KeptBy (.next (s.request k run)) := by
  refine .next ?_
  unfold State.request
  split
  · exact .refl s
  case h_2 q u taken =>
    have served := (refl s).takeRequest taken
    split
    · exact served.finish _ none
    · exact runs q served

theorem claims {claim : Execution → State → State} (each : ∀ e {u : State}, s.Keeps u → s.Keeps (claim e u)) :
    ∀ (n : Nat) {t : State}, s.Keeps t → s.Keeps (State.claims claim n t)
  | 0, _, h => h
  | n + 1, t, h => by
    rw [State.claims]
    split
    · exact h
    · exact claims each n (each _ h)

/-- A request executed claim by claim keeps what each claim keeps. -/
theorem claimRequest (k : RequestKind) (fields : Request → State → Option Reason) {claim : Execution → State → State}
    (each : ∀ e {u : State}, s.Keeps u → s.Keeps (claim e u)) (n : Nat) :
    s.KeptBy (.next (s.claimRequest k fields claim n)) := by
  refine .next ?_
  unfold State.claimRequest
  split
  · split
    · exact claims each n (refl s)
    · exact refl s
  · split
    · exact refl s
    case h_2 q u taken =>
      have served := (refl s).takeRequest taken
      split
      · exact served.finish _ none
      · exact claims each n (served.trans {})

theorem progress (h : s.Keeps t) (e : Execution) (out : List Byte) : s.Keeps (t.progress e out) := h.trans {}

/-- An entry keeps what its effect keeps, if it has one. -/
theorem entryClaim (h : s.Keeps t) (e : Execution) (entries index : Nat) {result : Except Reason State}
    (effect : ∀ u, result = .ok u → s.Keeps u) : s.Keeps (t.entryClaim e entries index result) := by
  unfold State.entryClaim
  split
  · exact h.finish _ none
  case h_2 u =>
    have done := effect u rfl
    split
    · exact done.finish _ none
    · exact done.progress e []

theorem startScheduler (h : s.Keeps t) : s.Keeps t.startScheduler := by
  unfold State.startScheduler
  split
  · exact h.setSched .running
  · exact h.enterFrozen

theorem stopScheduler (h : s.Keeps t) : s.Keeps t.stopScheduler := (setSched (h.trans {}) .stopping).checkStopped

theorem writeOptions (h : s.Keeps t) (o : Options) : s.Keeps (t.writeOptions o) := by
  unfold State.writeOptions
  simp only
  split
  · exact h.trans {}
  · exact checkRetired (h.trans {})

theorem programEntry (h : s.Keeps t) (body : List Byte) (k : Nat) :
    ∀ u, t.programEntry body k = .ok u → s.Keeps u := by
  intro u effect
  unfold State.programEntry at effect
  split at effect
  · cases effect
  · simp only at effect
    split at effect
    · cases effect
    · cases effect
    · cases effect
      exact h.setStation _ _
    · split at effect <;> cases effect
      exact h.setStation _ _

theorem listForPurge (h : s.Keeps t) (i : Nat) (p : Purpose) : s.Keeps (t.listForPurge i p) := by
  unfold State.listForPurge
  simp only
  split
  · exact checkStopped (h.trans {})
  · exact h.trans {}

theorem removeEntry (h : s.Keeps t) (i : Nat) : ∀ u, t.removeEntry i = .ok u → s.Keeps u := by
  intro u effect
  unfold State.removeEntry at effect
  split at effect
  · cases effect
  · split at effect <;> cases effect
    · exact h
    · exact ((h.change i false _).cancelPoll i).listForPurge i .remove
    · exact ((h.change i false _).cancelPoll i).listForPurge i .remove

theorem clearEntry (h : s.Keeps t) (i : Nat) : ∀ u, t.clearEntry i = .ok u → s.Keeps u := by
  intro u effect
  unfold State.clearEntry at effect
  split at effect
  · cases effect
  · simp only at effect
    split at effect
    · cases effect
    · cases effect
    · split at effect <;> cases effect
      exact h.change i false _
    · split at effect <;> cases effect
      exact h.setStation i _

theorem positionClaim (h : s.Keeps t) (e : Execution) (hold : Bool) : s.Keeps (t.positionClaim e hold) := by
  have held : s.Keeps (t.holdPosition e.done (mapBit e.request.body e.done) hold) := by
    unfold State.holdPosition
    split
    · exact h.change _ false _
    · exact h
  unfold State.positionClaim
  simp only
  split
  · exact held.finish _ none
  · exact held.progress e []

theorem clearCounters (h : s.Keeps t) (i : Nat) : s.Keeps (t.clearCounters i) := by
  unfold State.clearCounters
  split
  · exact h
  · exact h.setStation i _

theorem readClaim (h : s.Keeps t) (e : Execution) : s.Keeps (t.readClaim e) := by
  have cleared (c : Prop) [Decidable c] (i : Nat) := ite c (h.clearCounters i) h
  exact ite _ ((cleared _ _).finish _ _) ((cleared _ _).progress e _)

theorem counterClaim (h : s.Keeps t) (e : Execution) : s.Keeps (t.counterClaim e) := by
  have cleared (c : Prop) [Decidable c] := ite (u := t) c (h.trans (u := { t with ctr := t.ctr.clear e.done }) {}) h
  exact ite _ ((cleared _).finish _ none) ((cleared _).progress e _)

end State.Keeps

theorem wf_writeClasses (body : List Byte) (start : Nat) : ∀ (n k : Nat) {t : Table ClassEntry},
    Table.wf ClassEntry.default t = true → Table.wf ClassEntry.default (writeClasses body start n k t) = true
  | 0, _, _, h => h
  | n + 1, k, _, h => wf_writeClasses body start n (k + 1) (Table.wf_set h _ _)

theorem wf_writeRates (body : List Byte) (start : Nat) : ∀ (n k : Nat) {t : Table RateEntry},
    Table.wf RateEntry.unset t = true → Table.wf RateEntry.unset (writeRates body start n k t) = true
  | 0, _, _, h => h
  | n + 1, k, _, h => wf_writeRates body start n (k + 1) (Table.wf_set h _ _)

/-- A clamp never makes a listed record the FREE one (R82). -/
theorem Station.clamped_ne_free {r : Station} (h : r ≠ Station.free) (old new : Table ClassEntry) :
    r.clamped old new ≠ Station.free := by
  unfold Station.clamped
  simp only
  split
  case isTrue lowered => exact Station.ne_free lowered.1
  case isFalse => exact h

theorem State.Keeps.commitClasses {s t : State} (h : s.Keeps t) : s.Keeps t.commitClasses :=
  h.trans
    { classes := fun wf => ⟨wf.2, wf.2⟩, stations := Table.wf_map fun _ ne => Station.clamped_ne_free ne _ _ }

theorem State.Keeps.commitRates {s t : State} (h : s.Keeps t) : s.Keeps t.commitRates :=
  h.trans { rates := fun wf => ⟨wf.2, wf.2⟩ }

theorem execIdentify_keeps (s : State) : s.KeptBy (execIdentify s) := .request _ fun _ _ h => h.finish _ none

theorem execSetOptions_keeps (s : State) : s.KeptBy (execSetOptions s) :=
  .request _ fun _ _ h => by
    split
    · exact h.finish _ none
    · split
      · exact h.finish _ none
      · exact (h.writeOptions _).finish _ none

theorem execStart_keeps (s : State) : s.KeptBy (execStart s) :=
  .request _ fun _ _ h => by
    split
    · exact h.finish _ none
    · split
      · exact h.finish _ none
      · exact h.startScheduler.finish _ none

theorem execStop_keeps (s : State) : s.KeptBy (execStop s) := .request _ fun _ _ h => h.stopScheduler.finish _ none

theorem execFreeze_keeps (s : State) : s.KeptBy (execFreeze s) :=
  .request _ fun _ _ h => (h.addCause .host).finish _ none

theorem execThaw_keeps (s : State) : s.KeptBy (execThaw s) :=
  .request _ fun _ _ h => (h.removeCause .host).finish _ none

theorem execPartReset_keeps (s : State) : s.KeptBy (execPartReset s) :=
  .request _ fun _ _ h => State.Keeps.finish (h.trans {}) _ none

theorem execBacklogMap_keeps (s : State) : s.KeptBy (execBacklogMap s) := .request _ fun _ _ h => h.finish _ none

theorem execClassWrite_keeps (s : State) : s.KeptBy (execClassWrite s) :=
  .request _ fun _ _ h => by
    simp only
    split
    · exact h.finish _ none
    · refine State.Keeps.finish ?_ _ none
      exact h.trans { classes := fun wf => ⟨wf.1, wf_writeClasses _ _ _ _ wf.2⟩ }

theorem execRateWrite_keeps (s : State) : s.KeptBy (execRateWrite s) :=
  .request _ fun _ _ h => by
    simp only
    split
    · exact h.finish _ none
    · refine State.Keeps.finish ?_ _ none
      exact h.trans { rates := fun wf => ⟨wf.1, wf_writeRates _ _ _ _ wf.2⟩ }

theorem execTableCommit_keeps (s : State) : s.KeptBy (execTableCommit s) :=
  .request _ fun _ _ h => by
    split
    · exact h.commitClasses.finish _ none
    · exact h.commitRates.finish _ none
    · exact h.commitClasses.commitRates.finish _ none
    · exact h.finish _ none

theorem execTableRead_keeps (s : State) : s.KeptBy (execTableRead s) :=
  .request _ fun _ _ h => by
    simp only
    split <;> exact h.finish _ none

theorem execUnknownRequest_keeps (s : State) : s.KeptBy (execUnknownRequest s) := by
  refine .next ?_
  split
  · exact .refl s
  case h_2 taken => exact ((State.Keeps.refl s).takeRequest taken).finish _ none

theorem execStationProgram_keeps (n : Nat) (s : State) : s.KeptBy (execStationProgram n s) :=
  .claimRequest _ _ (fun e _ h => h.entryClaim e _ _ (h.programEntry _ _)) n

theorem execStationRemove_keeps (n : Nat) (s : State) : s.KeptBy (execStationRemove n s) :=
  .claimRequest _ _ (fun e _ h => h.entryClaim e _ _ (h.removeEntry _)) n

theorem execStationClearFault_keeps (n : Nat) (s : State) : s.KeptBy (execStationClearFault n s) :=
  .claimRequest _ _ (fun e _ h => h.entryClaim e _ _ (h.clearEntry _)) n

theorem execStationHold_keeps (n : Nat) (s : State) : s.KeptBy (execStationHold n s) :=
  .claimRequest _ _ (fun e _ h => h.positionClaim e true) n

theorem execStationRelease_keeps (n : Nat) (s : State) : s.KeptBy (execStationRelease n s) :=
  .claimRequest _ _ (fun e _ h => h.positionClaim e false) n

theorem execStationRead_keeps (n : Nat) (s : State) : s.KeptBy (execStationRead n s) :=
  .claimRequest _ _ (fun e _ h => h.readClaim e) n

theorem execCounterRead_keeps (n : Nat) (s : State) : s.KeptBy (execCounterRead n s) :=
  .claimRequest _ _ (fun e _ h => h.counterClaim e) n

/-! #### Every command, and every step -/

theorem exec_keeps (c : Instr) (s : State) : s.KeptBy (exec c s) := by
  cases c with
  | powerOnReset b => exact execPowerOnReset_keeps b s
  | selfTest failed => exact execSelfTest_keeps failed s
  | softReset => exact execSoftReset_keeps s
  | ingressSpaceClaim header => exact execIngressSpaceClaim_keeps header s
  | downFrameReceived frame => exact execDownFrameReceived_keeps frame s
  | requestFrameReceived frame => exact execRequestFrameReceived_keeps frame s
  | systemLinkBadFrame frame => exact execSystemLinkBadFrame_keeps frame s
  | admissionDecision => exact execAdmissionDecision_keeps s
  | admissionRetry => exact execAdmissionRetry_keeps s
  | append => exact execAppend_keeps s
  | transmitterChoice => exact execTransmitterChoice_keeps s
  | disposalMessageSent => exact execDisposalMessageSent_keeps s
  | upFrameSent => exact execUpFrameSent_keeps s
  | startEventSent => exact execStartEventSent_keeps s
  | receiveLockChange lock => exact execReceiveLockChange_keeps lock s
  | linkUp => exact execLinkUp_keeps s
  | linkDown => exact execLinkDown_keeps s
  | radioLinkBadFrame frame => exact execRadioLinkBadFrame_keeps frame s
  | uplinkSpaceClaim header => exact execUplinkSpaceClaim_keeps header s
  | upMessage frame => exact execUpMessage_keeps frame s
  | doze frame => exact execDoze_keeps frame s
  | wake frame => exact execWake_keeps frame s
  | poll frame => exact execPoll_keeps frame s
  | mediumHold frame => exact execMediumHold_keeps frame s
  | mediumRelease frame => exact execMediumRelease_keeps frame s
  | done frame => exact execDone_keeps frame s
  | grantTimeout k => exact execGrantTimeout_keeps k s
  | arbiterChoice => exact execArbiterChoice_keeps s
  | grantFormation => exact execGrantFormation_keeps s
  | feedFault n cell => exact execFeedFault_keeps n cell s
  | streamEnd => exact execStreamEnd_keeps s
  | faultClaim n => exact execFaultClaim_keeps n s
  | reclaimScanStart => exact execReclaimScanStart_keeps s
  | reclaimScanVisit => exact execReclaimScanVisit_keeps s
  | reclaimScanEnd => exact execReclaimScanEnd_keeps s
  | sweepTimer => exact execSweepTimer_keeps s
  | sweepVisit => exact execSweepVisit_keeps s
  | purgeStep => exact execPurgeStep_keeps s
  | identify => exact execIdentify_keeps s
  | setOptions => exact execSetOptions_keeps s
  | start => exact execStart_keeps s
  | stop => exact execStop_keeps s
  | freeze => exact execFreeze_keeps s
  | thaw => exact execThaw_keeps s
  | stationProgram n => exact execStationProgram_keeps n s
  | stationRemove n => exact execStationRemove_keeps n s
  | stationHold n => exact execStationHold_keeps n s
  | stationRelease n => exact execStationRelease_keeps n s
  | stationClearFault n => exact execStationClearFault_keeps n s
  | stationRead n => exact execStationRead_keeps n s
  | backlogMap => exact execBacklogMap_keeps s
  | classWrite => exact execClassWrite_keeps s
  | rateWrite => exact execRateWrite_keeps s
  | tableCommit => exact execTableCommit_keeps s
  | tableRead => exact execTableRead_keeps s
  | counterRead n => exact execCounterRead_keeps n s
  | partReset => exact execPartReset_keeps s
  | unknownRequest => exact execUnknownRequest_keeps s
  | correctedEccError word => exact execCorrectedEccError_keeps word s

theorem step_keeps (s : State) : s.KeptBy (step s) := by
  unfold step
  split
  · exact (State.Keeps.tick s).next
  case h_2 c rest _ => exact fun t h => State.Keeps.trans {} (exec_keeps c { s with pending := rest } t h)

/-- Settles O56: every command is made of operations that keep forms and capacities, and so is the passing of time. -/
theorem stepKeepsFormsAndCapacities : Obligations.StepKeepsFormsAndCapacities :=
  fun s t h => (step_keeps s t h).forms_and_capacities

/-! ### The checks of a frame (R3, R4) -/

theorem accepts_system_iff (k : Byte) : Side.system.accepts k = true ↔ k.toNat ∈ [0x01, 0x02] := by
  simp [Side.accepts, kindDown, kindRequest, BitVec.toNat_eq]

theorem accepts_radio_iff (k : Byte) : Side.radio.accepts k = true ↔ k.toNat ∈ [0x31, 0x32, 0x33] := by
  simp [Side.accepts, kindDone, kindUp, kindNote, BitVec.toNat_eq, or_assoc]

theorem fixedPart_eq (k : Byte) : fixedPart k = if k.toNat = 0x02 then 0 else if k.toNat = 0x33 then 4 else 8 := by
  simp [fixedPart, kindRequest, kindNote, BitVec.toNat_eq]

/-- A NOTE whose note code is none of the five of 12.3. -/
theorem noteFault_iff (k b : Byte) : (k = kindNote ∧ ¬ (1 ≤ b.toNat ∧ b.toNat ≤ 5))
    ↔ k.toNat = 0x33 ∧ (b.toNat < 1 ∨ 5 < b.toNat) := by
  rw [BitVec.toNat_eq, show kindNote.toNat = 0x33 from rfl]
  omega

/-- The last bytes of a list, from `n` before its end, are `n` bytes. -/
theorem fieldAt_last (f : List Byte) (n : Nat) : fieldAt f (f.length - n) n = beNat (f.drop (f.length - n)) := by
  rw [fieldAt, List.take_of_length_le]
  rw [List.length_drop]
  omega

theorem length_frameBody (f : List Byte) : (frameBody f).length = f.length - 12 := by
  simp only [frameBody, List.length_take, List.length_drop]
  omega

/-- What the checks of R4 have found of a sound frame. -/
theorem fields_of_sound {side : Side} {kind : Byte} {f : List Byte} (h : sound side kind f = true) :
    frameKind f = kind ∧ (frameBody f).length = frameBodyLength f ∧ fixedPart kind ≤ (frameBody f).length := by
  simp only [sound, Bool.and_eq_true, beq_iff_eq] at h
  obtain ⟨checks, rfl⟩ := h
  unfold frameFault at checks
  split_ifs at checks with _ _ agrees _ fixed
  exact ⟨rfl, by rw [length_frameBody]; exact not_not.1 agrees, not_lt.1 fixed⟩

/-! #### A frame as the sender builds it -/

/-- The header and the body of a frame (12.1). -/
def headed (kind flags code tagHigh tagLow : Byte) (body : List Byte) : List Byte :=
  [kind, flags] ++ beBytes 3 body.length ++ [code, tagHigh, tagLow] ++ body

section
variable (kind flags code tagHigh tagLow : Byte) (body check : List Byte)

theorem length_headed : (headed kind flags code tagHigh tagLow body).length = 8 + body.length := by
  simp only [headed, List.length_append, List.length_cons, List.length_nil, length_beBytes]

theorem frameKind_headed : frameKind (headed kind flags code tagHigh tagLow body ++ check) = kind := rfl

theorem frameBodyLength_headed (h : body.length < 2 ^ 24) :
    frameBodyLength (headed kind flags code tagHigh tagLow body ++ check) = body.length := by
  have field : frameBodyLength (headed kind flags code tagHigh tagLow body ++ check)
      = fieldAt (beBytes 3 body.length) 0 3 := rfl
  rw [field, fieldAt_beBytes, Nat.mod_eq_of_lt (h.trans_eq (by norm_num))]

theorem frameBody_headed (h : check.length = 4) :
    frameBody (headed kind flags code tagHigh tagLow body ++ check) = body := by
  have past : (headed kind flags code tagHigh tagLow body ++ check).drop 8 = body ++ check := by
    simp [headed, beBytes]
  have inside : (headed kind flags code tagHigh tagLow body ++ check).length - 12 = body.length := by
    rw [List.length_append, length_headed, h]
    omega
  rw [frameBody, past, inside, List.take_left']
  rfl

/-- The checks on such a frame, but for its length, which is right: the four check bytes against the CRC, then the kind
and the body. -/
theorem frameFault_headed (side : Side) (hb : body.length < 2 ^ 24) (hc : check.length = 4) :
    frameFault side (headed kind flags code tagHigh tagLow body ++ check) =
      if beNat check ≠ (crc32 (headed kind flags code tagHigh tagLow body)).toNat then some .badFrame
      else if ¬ side.accepts kind then some .badKind
      else if body.length < fixedPart kind then some .badBody
      else if kind = kindNote ∧ ¬ (1 ≤ (byteAt body 0).toNat ∧ (byteAt body 0).toNat ≤ 5) then some .badBody
      else none := by
  have total : (headed kind flags code tagHigh tagLow body ++ check).length = body.length + 12 := by
    rw [List.length_append, length_headed, hc]
    omega
  have before : body.length + 12 - 4 = (headed kind flags code tagHigh tagLow body).length := by
    rw [length_headed]
    omega
  rw [frameFault, frameKind_headed, frameBodyLength_headed _ _ _ _ _ _ _ hb, frameBody_headed _ _ _ _ _ _ _ hc, total,
    before, List.drop_left, List.take_left, if_neg (by omega)]
  congr 1
  rw [if_neg (by omega)]

end

/-- Four bytes spell the number whose bytes they are, and no others do. -/
theorem beNat_eq_iff {check : List Byte} (h : check.length = 4) (v : BitVec 32) :
    beNat check = v.toNat ↔ check = beBytes 4 v.toNat := by
  constructor
  · intro e
    rw [← e, ← h, beBytes_beNat]
  · rintro rfl
    rw [beNat_beBytes]
    exact Nat.mod_eq_of_lt v.isLt

section
variable {kind : Byte} (flags code tagHigh tagLow : Byte) {body : List Byte} (side : Side)

/-- A frame of an accepted kind that ends in its CRC passes, whatever its flags, code and tag. -/
theorem frameFault_headed_crc (accepted : side.accepts kind = true) (small : body.length < 2 ^ 24)
    (fixed : fixedPart kind ≤ body.length)
    (note : kind = kindNote → 1 ≤ (byteAt body 0).toNat ∧ (byteAt body 0).toNat ≤ 5) :
    frameFault side (headed kind flags code tagHigh tagLow body
      ++ beBytes 4 (crc32 (headed kind flags code tagHigh tagLow body)).toNat) = none := by
  rw [frameFault_headed _ _ _ _ _ _ _ side small (length_beBytes 4 _),
    if_neg (not_not.2 ((beNat_eq_iff (length_beBytes 4 _) _).2 rfl)), if_neg (not_not.2 accepted),
    if_neg (not_lt.2 fixed), if_neg fun bad => bad.2 (note bad.1)]

/-- A frame that ends in other bytes than its CRC fails. -/
theorem frameFault_headed_changed (small : body.length < 2 ^ 24) {check : List Byte} (four : check.length = 4)
    (changed : check ≠ beBytes 4 (crc32 (headed kind flags code tagHigh tagLow body)).toNat) :
    frameFault side (headed kind flags code tagHigh tagLow body ++ check) = some .badFrame := by
  rw [frameFault_headed _ _ _ _ _ _ _ side small four, if_pos fun same => changed ((beNat_eq_iff four _).1 same)]

end

/-- Settles O8: the chain of `frameFault` compared check by check, and then run on a frame as the sender builds it. -/
theorem frameChecksAcceptSoundFrames : Obligations.FrameChecksAcceptSoundFrames := by
  refine ⟨fun side f => ?_, fun side kind flags code tagHigh tagLow body accepted small fixed note => ⟨?_, ?_⟩⟩
  · have kinds : side.accepts (frameKind f) = true ↔ (byteAt f 0).toNat ∈
        (match side with
          | .system => [0x01, 0x02]
          | .radio => [0x31, 0x32, 0x33]) := by
      cases side
      · exact accepts_system_iff _
      · exact accepts_radio_iff _
    simp only [frameFault, fieldAt_last, fixedPart_eq, noteFault_iff, kinds]
    rfl
  · exact frameFault_headed_crc flags code tagHigh tagLow side accepted small fixed note
  · exact fun check four changed => frameFault_headed_changed flags code tagHigh tagLow side small four changed

/-! ### Frames received -/

/-- Settles O9: each header claim by whether its space is free. -/
theorem headersClaimSpace : Obligations.HeadersClaimSpace := by
  intro header s off eight
  refine ⟨fun notRequest unclaimed => ?_, fun up unclaimed => ?_⟩
  · have space : headerSpace header = 8 + min (fieldAt header 2 3) 4104 := rfl
    have free : s.rx.freeSpace = 32768 - (s.rx.ingress.map IngressEntry.space).sum := by
      simp [Receiver.freeSpace, unclaimed]
    have goes : ¬ (s.inReset = true ∨ header.length ≠ 8 ∨ frameKind header = kindRequest ∨ s.rx.claim.isSome = true) := by
      rintro (on | short | request | claimed)
      · exact Bool.false_ne_true (off.symm.trans on)
      · exact short eight
      · exact notRequest request
      · simp [unclaimed] at claimed
    show execIngressSpaceClaim header s = _
    rw [execIngressSpaceClaim, if_neg goes, space, free]
    split
    · rfl
    · rw [← unclaimed]
  · have free : s.uplink.freeSpace = 65536 - (s.uplink.entries.map UpEntry.space).sum := by
      simp [Uplink.freeSpace, unclaimed]
    have goes : ¬ (s.inReset = true ∨ header.length ≠ 8 ∨ frameKind header ≠ kindUp ∨ s.uplink.claim.isSome = true) := by
      simp [off, eight, unclaimed, frameKind, kindUp, up]
    have room : (1 ≤ frameBodyLength header - 8 ∧ frameBodyLength header - 8 ≤ Config.maxFrame
          ∧ 16 + (frameBodyLength header - 8) ≤ s.uplink.freeSpace)
        ↔ 9 ≤ fieldAt header 2 3 ∧ fieldAt header 2 3 ≤ 4104
          ∧ 8 + fieldAt header 2 3 ≤ 65536 - (s.uplink.entries.map UpEntry.space).sum := by
      rw [free, Config.maxFrame_eq, frameBodyLength]
      omega
    show execUplinkSpaceClaim header s = _
    simp only [execUplinkSpaceClaim, if_neg goes, room]
    split
    case isTrue fits =>
      rw [show 16 + (frameBodyLength header - 8) = 8 + fieldAt header 2 3 by rw [frameBodyLength]; omega]
    case isFalse => rw [← unclaimed]

/-- A command on a sound frame outside a reset is not ignored. -/
theorem not_ignored {s : State} {side : Side} {kind : Byte} {f : List Byte} (off : s.inReset = false)
    (ok : sound side kind f = true) : ¬ (s.inReset = true ∨ ¬ sound side kind f = true) := by
  simp [off, ok]

/-- The space of the entry a DOWN frame becomes (R7). -/
theorem space_ingressEntryOf {f : List Byte} (h : 8 ≤ (frameBody f).length) :
    (ingressEntryOf f).space = 8 + min (frameBody f).length 4104 := by
  simp only [ingressEntryOf, IngressEntry.space, List.length_take, List.length_drop, Config.maxFrame_eq]
  omega

/-- Settles O10: the entry is the one that `ingressEntryOf` reads from the body. -/
theorem downFrameEntersIngressBuffer : Obligations.DownFrameEntersIngressBuffer := by
  intro frame s off ok
  have goes := not_ignored (kind := kindDown) off ok
  obtain ⟨_, length, fixed⟩ := fields_of_sound ok
  have eight : 8 ≤ (frameBody frame).length := fixed
  have small : (frameBody frame).length < 2 ^ 24 := by
    rw [length]
    exact fieldAt_lt frame 2 3
  refine ⟨fun unclaimed => ?_, fun claimed => ⟨ingressEntryOf frame, ?_, ?_, ?_, ?_, ?_, rfl⟩⟩
  · show execDownFrameReceived frame s = _
    rw [execDownFrameReceived, if_neg goes]
    simp only [unclaimed]
    rfl
  · show execDownFrameReceived frame s = _
    rw [execDownFrameReceived, if_neg goes]
    simp only [claimed, space_ingressEntryOf eight, if_true]
  · exact Nat.mod_eq_of_lt (fieldAt_lt _ 0 2)
  · exact Nat.mod_eq_of_lt (fieldAt_lt _ 2 4)
  · exact Nat.mod_eq_of_lt (fieldAt_lt _ 6 2)
  · exact Nat.mod_eq_of_lt (by omega)

/-- Settles O11: by whether a place of the Request Queue is free. -/
theorem requestFrameJoinsRequestQueue : Obligations.RequestFrameJoinsRequestQueue := by
  intro frame s off ok
  have goes := not_ignored (kind := kindRequest) off ok
  refine ⟨fun room => ?_, fun full => ?_⟩
  · show execRequestFrameReceived frame s = _
    rw [execRequestFrameReceived, if_neg goes, if_pos room]
    rfl
  · show execRequestFrameReceived frame s = _
    rw [execRequestFrameReceived, if_neg goes, if_neg (not_lt.2 full)]
    rfl

theorem reportedKind_of_head {f : List Byte} {kind : Byte} (h : f.head? = some kind) : reportedKind f = kind := by
  cases f with
  | nil => cases h
  | cons k rest => exact Option.some.inj h

/-- Settles O12: both commands on a frame that fails a check. -/
theorem badFramesAreCounted : Obligations.BadFramesAreCounted := by
  intro frame s off
  refine ⟨fun bad => ?_, fun cause kind bad first => ?_⟩
  · have goes : ¬ (s.inReset = true ∨ (frameFault .system frame).isNone = true) := by simp [off, bad]
    show execSystemLinkBadFrame frame s = _
    rw [execSystemLinkBadFrame, if_neg goes]
    rfl
  · show execRadioLinkBadFrame frame s = _
    rw [execRadioLinkBadFrame, if_neg (by simp [off]), bad]
    simp only
    rw [reportedKind_of_head first]
    rfl

/-! ### The transmitter (R9 to R11) and the bytes it sends (12.1, 12.3, 12.4) -/

/-- On an idle line the transmitter chooses. -/
theorem execTransmitterChoice_idle {s : State} (idle : s.tx.line = none) : execTransmitterChoice s = .next s.chooseFrame := by
  unfold execTransmitterChoice
  rw [idle]

section
variable {s : State}

theorem State.chooseFrame_start (h : s.events.startFirst = true) : s.chooseFrame = s.startEvent := by
  rw [State.chooseFrame, if_pos h]

theorem State.chooseFrame_pause (h : s.events.startFirst = false) (changed : s.bm.pauseWanted ≠ s.tx.pauseSent) :
    s.chooseFrame = s.startPause := by
  rw [State.chooseFrame, h, if_neg Bool.false_ne_true, if_pos changed]

theorem State.chooseFrame_response {r : Response} (h : s.events.startFirst = false)
    (same : s.bm.pauseWanted = s.tx.pauseSent) (unsent : s.tx.response = some r) :
    s.chooseFrame = s.startFrame (.response r) := by
  rw [State.chooseFrame, h, if_neg Bool.false_ne_true, if_neg (not_not.2 same), unsent]

theorem State.chooseFrame_rest (h : s.events.startFirst = false) (same : s.bm.pauseWanted = s.tx.pauseSent)
    (noResponse : s.tx.response = none) :
    s.chooseFrame = if s.events.records = [] then s.startTraffic else s.startEvent := by
  rw [State.chooseFrame, h, if_neg Bool.false_ne_true, if_neg (not_not.2 same), noResponse]

theorem State.startEvent_cons {e : EventRecord} {rest : List EventRecord} (h : s.events.records = e :: rest) :
    s.startEvent = { s with
      events := { s.events with records := rest }
      tx := { s.tx with line := some { pauseFlag := s.tx.pauseSent, body := .event e } } } := by
  rw [State.startEvent, h]
  rfl

theorem State.startUp_cons {u : UpEntry} {rest : List UpEntry} (h : s.uplink.entries = u :: rest) :
    s.startUp = { s with tx := { s.tx with mark := .up, line := some { pauseFlag := s.tx.pauseSent, body := .up u } } } := by
  rw [State.startUp, h]
  rfl

/-- The alternation of R9. -/
theorem State.startTraffic_disposal (waiting : s.disposal ≠ []) (turn : s.uplink.entries = [] ∨ s.tx.mark = .up) :
    s.startTraffic = s.startDisposal := by
  rw [State.startTraffic, if_neg waiting]
  split_ifs with alone mark
  · rfl
  · rfl
  · exact absurd turn (not_or.2 ⟨alone, mark⟩)

theorem State.startTraffic_up (waiting : s.uplink.entries ≠ []) (turn : s.disposal = [] ∨ s.tx.mark = .disposal) :
    s.startTraffic = s.startUp := by
  rw [State.startTraffic, if_neg waiting]
  split_ifs with alone mark
  · rfl
  · rcases turn with turn | turn
    · exact absurd turn alone
    · rw [turn] at mark
      cases mark
  · rfl

end

theorem EventQueue.startFirst_nil {q : EventQueue} (h : q.records = []) : q.startFirst = false := by
  rw [EventQueue.startFirst, h]

theorem beBytes_one (v : Nat) : beBytes 1 v = [BitVec.ofNat 8 v] := by simp [beBytes]

/-- A cause set as a byte: bit 0 HOST, bit 1 RADIO, bit 2 LINK (12.3). -/
theorem CauseSet.beBytes_code (c : CauseSet) :
    beBytes 1 c.code =
      [(if c.host = true then 1 else 0) + (if c.radio = true then 2 else 0) + (if c.link = true then 4 else 0)] := by
  obtain ⟨host, radio, link⟩ := c
  cases host <;> cases radio <;> cases link <;> rfl

/-- A frame by its kind, header words and body: any spelling of the three gives the bytes of the frame. -/
theorem OutFrame.bytes_of {out : OutBody} {kind : Byte} {words body : List Byte} (flag : Bool) (hk : out.kind = kind)
    (hw : out.words = words) (hb : out.bytes = body) :
    ({ pauseFlag := flag, body := out } : OutFrame).bytes =
      withCheck ([kind, if flag = true then 1 else 0] ++ beBytes 3 body.length ++ words ++ body) := by
  have pause : beBytes 1 flag.toNat = [if flag = true then 1 else 0] := by cases flag <;> rfl
  rw [OutFrame.bytes, hk, hw, hb, pause]

/-- An EVENT body is the stamp and twelve bytes of fields and padding (12.4). -/
theorem EventRecord.bytes_eq (stamp : Stamp) (e : Event) :
    ({ stamp := stamp, event := e } : EventRecord).bytes =
      beBytes 4 stamp.toNat ++ e.fields ++ List.replicate (12 - e.fields.length) 0 := by
  simp only [EventRecord.bytes, List.length_append, length_beBytes, zeros]
  congr 2
  omega

/-- Settles O13: the choice by the case of R9 that each part names; the bytes by kind, header words and body. -/
theorem transmitterChoosesByPriority : Obligations.TransmitterChoosesByPriority := by
  refine ⟨fun s idle => ?_, fun flag => ?_⟩
  · have chooses : exec .transmitterChoice s = .next s.chooseFrame := execTransmitterChoice_idle idle
    refine ⟨fun st power result rest first => ?_, fun h changed => ?_, fun r h same unsent => ?_,
      fun e rest h same noResponse first => ?_, fun same noResponse empty waiting turn => ?_,
      fun u rest same noResponse empty first turn => ?_⟩
    · rw [chooses, State.chooseFrame_start (by rw [EventQueue.startFirst, first]), State.startEvent_cons first]
    · rw [chooses, State.chooseFrame_pause h changed]
      rfl
    · rw [chooses, State.chooseFrame_response h same unsent]
      rfl
    · rw [chooses, State.chooseFrame_rest h same noResponse, if_neg (by simp [first]), State.startEvent_cons first]
    · rw [chooses, State.chooseFrame_rest (EventQueue.startFirst_nil empty) same noResponse, if_pos empty,
        State.startTraffic_disposal waiting turn]
      rfl
    · rw [chooses, State.chooseFrame_rest (EventQueue.startFirst_nil empty) same noResponse, if_pos empty,
        State.startTraffic_up (by simp [first]) turn, State.startUp_cons first]
  · intro reasonCode causeSet sends event
    have reason : ∀ r, beBytes 1 (optionReasonCode r) = [reasonCode r] := by
      intro r
      cases r with
      | none => rfl
      | some r => cases r <;> rfl
    have sent : ∀ (stamp : Stamp) (e : Event) (code : Byte) (fields : List Byte),
        BitVec.ofNat 8 e.code = code → e.fields = fields → event stamp e code fields := by
      rintro stamp e _ _ rfl rfl
      exact OutFrame.bytes_of flag rfl (by rw [OutBody.words, beBytes_one]; rfl) (EventRecord.bytes_eq stamp e)
    refine ⟨fun on general cells => OutFrame.bytes_of flag rfl rfl ?_, fun r => OutFrame.bytes_of flag rfl rfl ?_,
      fun stamp records => OutFrame.bytes_of flag rfl rfl ?_, fun u => OutFrame.bytes_of flag rfl rfl ?_, fun stamp => ?_⟩
    · cases on <;> rfl
    · have status : beBytes 1 r.status.code = [(match r.status with | .accepted => 0 | .partly => 1 | .refused => 2)] := by
        cases r.status <;> rfl
      rw [OutBody.bytes, Response.bytes, reason, status, beBytes_one r.done]
      rfl
    · have record : DisposalRecord.bytes = fun x : DisposalRecord => beBytes 4 x.cookie.toNat ++ beBytes 2 x.station.toNat
          ++ [reasonCode x.reason] ++ beBytes 3 x.length.toNat ++ [0, 0] := by
        funext x
        rw [DisposalRecord.bytes, reason]
        rfl
      rw [OutBody.bytes, beBytes_one, record, List.flatMap_def]
      rfl
    · rfl
    · refine ⟨fun power result => sent _ _ _ _ rfl ?_, fun c => sent _ _ _ _ rfl c.beBytes_code,
        fun c => sent _ _ _ _ rfl ?_, fun c => sent _ _ _ _ rfl c.beBytes_code, fun retired limit => sent _ _ _ _ rfl rfl,
        fun i => sent _ _ _ _ rfl rfl, fun i => sent _ _ _ _ rfl rfl,
        fun cause phase i cookie cell segment => sent _ _ _ _ rfl ?_, fun slot serial => sent _ _ _ _ rfl rfl,
        fun cause kind slot serial i => sent _ _ _ _ rfl ?_, fun up => sent _ _ _ _ rfl ?_⟩
      · cases power <;> rfl
      · cases c <;> rfl
      · rw [Event.fields, beBytes_one segment]
        cases cause <;> cases phase <;> cases cell <;> rfl
      · cases cause <;> rfl
      · cases up <;> rfl

/-! ### The link state (R12, R13) and the freeze causes (R134 to R141) -/

/-- With the Feeder idle there is no stream to end. -/
theorem State.endStream_idle {s : State} (h : s.feeder = none) (ended : StreamEnd) : s.endStream ended = s := by
  rw [State.endStream, h]

/-- The end of a stream (R111): the slot SENT with its timer at 0, the Feeder idle, the GRANT ended. -/
theorem State.endStream_streaming {s : State} {f : Feed} {g : Grant} {out : GrantOut} (hf : s.feeder = some f)
    (hg : s.slot f.slot = some g) (ho : s.radio.stream = some out) (ended : StreamEnd) :
    s.endStream ended =
      { s.setSlot f.slot
          (some { g with stream := .sent { limit := 1000 * s.rp.options.grantTimeout, elapsed := 0 } }) with
        feeder := none
        radio := { s.radio with stream := some { out with ended := ended } } } := by
  rw [State.endStream, hf]
  simp only [hg, State.setSlot_radio, ho, Option.map_some]

/-- Settles O22: each command by its guard, then by the lemmas of the end of a stream and of a cause. -/
theorem linkFollowsReceiveLock : Obligations.LinkFollowsReceiveLock := by
  refine fun s => ⟨fun lock => rfl, fun down locked settled => ?_, fun up lost settled => ?_⟩
  · show execLinkUp s = _
    rw [execLinkUp, if_pos ⟨down, locked, settled⟩, State.removeCause_eq]
    rfl
  · have goes : exec .linkDown s = .next
        ((State.endStream { s with
            radio := { s.radio with up := false, settle := 0 }
            uplink := { s.uplink with claim := none }
            events := s.events.put s.timeBase (.radioLink false) } .cut).causeAdded .link) := by
      show execLinkDown s = _
      rw [execLinkDown, if_pos ⟨up, lost, settled⟩, State.addCause_eq]
      rfl
    refine ⟨fun idle => ?_, fun f g out hf hg ho => ?_⟩
    · rw [goes, State.endStream_idle (by exact idle)]
    · rw [goes, State.endStream_streaming (by exact hf) (by exact hg) (by exact ho)]
      rfl

/-- A change of the Request Queue and a change of a cause come to the same in either order. -/
theorem State.causeAdded_awaiting (s : State) (rest : List Request) (c : Cause) :
    (s.awaiting rest).causeAdded c = (s.causeAdded c).awaiting rest := by
  have slots : (s.awaiting rest).openSlots = s.openSlots := rfl
  unfold State.causeAdded
  simp only [slots]
  split_ifs <;> rfl

theorem State.causeRemoved_awaiting (s : State) (rest : List Request) (c : Cause) :
    (s.awaiting rest).causeRemoved c = (s.causeRemoved c).awaiting rest := by
  unfold State.causeRemoved
  simp only
  split_ifs <;> rfl

/-- A served FREEZE or THAW, whose effect is `effect`, is answered with the state and the cause set after it. -/
theorem State.request_answered {s : State} {k : RequestKind} {q : Request} {rest : List Request} (h : s.Serves k q rest)
    {effect : State → State} (late : effect (s.awaiting rest) = (effect s).awaiting rest) :
    s.request k (fun q s => (effect s).finish (q.accepted (effect s).freezeResult) none)
      = (effect s).answered rest (acceptedResponse q (effect s).freezeResult) none := by
  rw [State.request_run h, late, State.finish_eq]
  rfl

/-- Settles O23: the notes and the requests by the lemmas of the two operations on the cause set. -/
theorem hostAndRadioMoveCauses : Obligations.HostAndRadioMoveCauses := by
  refine ⟨fun frame s off => ⟨fun ok => ?_, fun ok => ?_⟩, fun s q rest => ?_⟩
  · show execMediumHold frame s = _
    rw [execMediumHold, if_neg (by simp [off, ok]), State.addCause_eq]
  · show execMediumRelease frame s = _
    rw [execMediumRelease, if_neg (by simp [off, ok]), State.removeCause_eq]
  · intro result
    have results : ∀ t : State, t.freezeResult = result t := by
      intro t
      have state : beBytes 1 t.sched.state.code = [(match t.sched.state with
          | .off => 0 | .running => 1 | .freezing => 2 | .frozen => 3 | .stopping => 4 | .halted => (5 : Byte))] := by
        cases t.sched.state <;> rfl
      rw [State.freezeResult, state, CauseSet.beBytes_code]
      rfl
    refine ⟨fun serves => ?_, fun serves => ?_⟩
    · have answered := State.request_answered (effect := fun t => t.causeAdded .host) serves
        (s.causeAdded_awaiting rest .host)
      show execFreeze s = _
      rw [← results, ← answered]
      simp only [execFreeze, State.addCause_eq]
    · have answered := State.request_answered (effect := fun t => t.causeRemoved .host) serves
        (s.causeRemoved_awaiting rest .host)
      show execThaw s = _
      rw [← results, ← answered]
      simp only [execThaw, State.removeCause_eq]

/-! ### The Frame Feeder (R16, R27 to R29, R108 to R111) -/

/-- A section is the bytes passed on, filled with zeros and cut to the recorded length. -/
theorem sectionOf_eq (recorded : Nat) (bytes : List Byte) (trailer : Trailer) :
    sectionOf recorded bytes trailer =
      { length := recorded
        bytes := (bytes ++ List.replicate (recorded - bytes.length) 0).take recorded
        trailer := trailer } := by
  have fill : recorded - (bytes.take recorded).length = recorded - bytes.length := by
    rw [List.length_take]
    omega
  rw [sectionOf, fill, List.take_append, List.take_of_length_le (l := List.replicate _ _) (by simp), zeros]

/-- The frames from place `n` on, of which the first are fed clean: their sections, and then what the frames after them
come to. The walk that has begun, if one has, is that of the first frame. -/
theorem BufferManager.feedFrames_clean (b : BufferManager) : ∀ (sections : List Section) (frames : List GrantFrame)
    (n : Nat) (begun : Option (Nat × FeedWalk)),
    (∀ j, j < sections.length → ∃ fr bytes, frames[j]? = some fr
      ∧ b.feedOn fr.desc ((if j = 0 then begun else none).getD (1, (b.desc fr.desc).openWalk)).1
          ((if j = 0 then begun else none).getD (1, (b.desc fr.desc).openWalk)).2 = .clean bytes
      ∧ sections[j]? = some (sectionOf fr.length bytes .complete)) →
    b.feedFrames frames n begun =
      (sections ++ (b.feedFrames (frames.drop sections.length) (n + sections.length)
          (if sections.length = 0 then begun else none)).1,
        (b.feedFrames (frames.drop sections.length) (n + sections.length)
          (if sections.length = 0 then begun else none)).2)
  | [], _, _, _, _ => rfl
  | x :: rest, frames, n, begun, clean => by
    obtain ⟨fr, bytes, first, fed, sent⟩ := clean 0 (Nat.zero_lt_succ _)
    obtain ⟨later, rfl⟩ : ∃ later, frames = fr :: later := by
      cases frames with
      | nil => cases first
      | cons y later => exact ⟨later, by rw [Option.some.inj first]⟩
    have section_eq : x = sectionOf fr.length bytes .complete := Option.some.inj sent
    have after := feedFrames_clean b rest later (n + 1) none fun j hj => by
      obtain ⟨fr', bytes', at_, fed', sent'⟩ := clean (j + 1) (Nat.succ_lt_succ hj)
      exact ⟨fr', bytes', at_, by simpa using fed', sent'⟩
    rw [if_pos rfl] at fed
    rw [BufferManager.feedFrames]
    simp only [fed, after, section_eq, List.length_cons, List.drop_succ_cons, Nat.succ_ne_zero, if_false, ite_self,
      List.cons_append, Nat.add_assoc, Nat.add_comm 1]

section
variable {s : State} {f : Feed} {g : Grant} {n : Nat} {sections : List Section}

/-- The segment and the walk with which a frame is fed are those `feedFrames` begins with. -/
theorem State.walkOf_eq (s : State) (f : Feed) (n : Nat) (fr : GrantFrame) :
    s.walkOf f n fr = (if n = f.frame then f.walk.map fun w => (f.segment, w) else none).getD
      (1, (s.bm.desc fr.desc).openWalk) := by
  unfold State.walkOf
  split_ifs
  · cases f.walk <;> rfl
  · rfl

/-- Past frames fed clean, feeding goes on from the first that is not. -/
theorem State.feedNext_clean (clean : s.FedClean f g n sections) :
    s.feedNext f g =
      (sections ++ (s.bm.feedFrames (g.frames.drop (f.frame + sections.length)) (f.frame + sections.length)
          (if sections.length = 0 then f.walk.map fun w => (f.segment, w) else none)).1,
        (s.bm.feedFrames (g.frames.drop (f.frame + sections.length)) (f.frame + sections.length)
          (if sections.length = 0 then f.walk.map fun w => (f.segment, w) else none)).2) := by
  obtain ⟨count, each⟩ := clean
  rw [State.feedNext, BufferManager.feedFrames_clean s.bm sections, List.drop_drop]
  intro j hj
  obtain ⟨fr, bytes, at_, fed, sent⟩ := each j (by omega)
  refine ⟨fr, bytes, by rw [List.getElem?_drop, at_], ?_, by rw [sent, sectionOf_eq]⟩
  rw [State.fedTo, State.walkOf_eq] at fed
  simpa using fed

/-- The clean frames fed, feeding comes to frame `n`. -/
theorem State.feedNext_at {fr : GrantFrame} (clean : s.FedClean f g n sections) (reached : f.frame ≤ n)
    (at_ : g.frames[n]? = some fr) :
    ∃ rest, s.feedNext f g =
      (sections ++ (s.bm.feedFrames (fr :: rest) n (if n = f.frame then f.walk.map fun w => (f.segment, w) else none)).1,
        (s.bm.feedFrames (fr :: rest) n (if n = f.frame then f.walk.map fun w => (f.segment, w) else none)).2) := by
  have place : f.frame + sections.length = n := by
    rw [clean.1]
    omega
  have first : sections.length = 0 ↔ n = f.frame := by omega
  obtain ⟨inside, is⟩ := List.getElem?_eq_some_iff.1 at_
  refine ⟨g.frames.drop (n + 1), ?_⟩
  rw [State.feedNext_clean clean, place, List.drop_eq_getElem_cons inside, is]
  simp only [first]

/-- The clean frames fed, the walk of frame `n` fails. -/
theorem State.feedNext_fault {fr : GrantFrame} {fault : WalkFault} {bytes : List Byte}
    (clean : s.FedClean f g n sections) (reached : f.frame ≤ n) (at_ : g.frames[n]? = some fr)
    (fails : s.fedTo f n fr = .fault fault bytes) :
    s.feedNext f g = (sections, .fault n fr (s.walkOf f n fr).2.read fault bytes) := by
  obtain ⟨rest, next⟩ := State.feedNext_at clean reached at_
  rw [State.fedTo] at fails
  rw [next, BufferManager.feedFrames, ← State.walkOf_eq]
  simp only [fails, List.append_nil]

/-- The clean frames fed, the walk of frame `n` passes a word with a single-bit error. -/
theorem State.feedNext_corrected {fr : GrantFrame} {segment : Nat} {walk : FeedWalk}
    (clean : s.FedClean f g n sections) (reached : f.frame ≤ n) (at_ : g.frames[n]? = some fr)
    (passes : s.fedTo f n fr = .corrected segment walk) :
    s.feedNext f g = (sections, .corrected n segment walk) := by
  obtain ⟨rest, next⟩ := State.feedNext_at clean reached at_
  rw [State.fedTo] at passes
  rw [next, BufferManager.feedFrames, ← State.walkOf_eq]
  simp only [passes, List.append_nil]

/-- Every frame left fed clean, the Feeder comes to the end of the frame list. -/
theorem State.feedNext_finished (clean : s.FedClean f g g.frames.length sections) :
    s.feedNext f g = (sections, .finished) := by
  have none_left : g.frames.drop (f.frame + sections.length) = [] := by
    rw [List.drop_eq_nil_iff, clean.1]
    omega
  rw [State.feedNext_clean clean, none_left, BufferManager.feedFrames, List.append_nil]

/-- The grant the Feeder streams. -/
theorem State.fed_eq (hf : s.feeder = some f) (hg : s.slot f.slot = some g) : s.fed = some (f, g) := by
  rw [State.fed, hf]
  simp only [hg]

theorem State.sendSections_eq {out : GrantOut} (ho : s.radio.stream = some out) (l : List Section) :
    s.sendSections l =
      { s with radio := { s.radio with stream := some { out with sections := out.sections ++ l } } } := by
  rw [State.sendSections, ho]
  rfl

end

/-- The mark of a fault on the descriptor of its frame (R29, R110). -/
def Descriptor.faulted (x : Descriptor) (f : WalkFault) : Descriptor :=
  if f.cause = .uncorrectable then { x with reason := some .memoryError, badCell := f.cell }
  else { x with reason := some .chainFault }

theorem Descriptor.faulted_ne_cleared (x : Descriptor) (f : WalkFault) : x.faulted f ≠ Descriptor.cleared := by
  intro e
  have reasons := congrArg Descriptor.reason e
  unfold Descriptor.faulted at reasons
  split at reasons <;> cases reasons

/-- What a fault of the Feeder writes (R110, R163, R164): the mark, the count, the event, and a fault claim unless a word
was uncorrectable. -/
theorem State.markFault_eq (s : State) (i : Nat) (fr : GrantFrame) (read : Descriptor) (f : WalkFault) :
    s.markFault i fr read f =
      { s.setDesc fr.desc ((s.desc fr.desc).faulted f) with
        ctr :=
          if f.cause = .uncorrectable then { s.ctr with memoryFaults := s.ctr.memoryFaults + 1 }
          else { s.ctr with chainFaults := s.ctr.chainFaults + 1 }
        events := s.events.put s.timeBase (.fault f.cause .feed i read.cookie f.cell f.segment)
        faultClaims :=
          if f.cause = .uncorrectable then s.faultClaims
          else s.faultClaims ++ [{ station := i, admin := (s.station i).admin, phase := .feed }] } := by
  by_cases memory : f.cause = .uncorrectable
  · simp only [State.markFault, State.reportFault, Descriptor.faulted, if_pos memory]
    rfl
  · simp only [State.markFault, State.reportFault, Descriptor.faulted, if_neg memory]
    rfl

/-- Settles O37: feeding comes to the fault, which is marked, counted, reported and claimed. -/
theorem feedFaultMarksFrame : Obligations.FeedFaultMarksFrame := by
  intro s n f g fr out sections fault bytes hf hg at_ ho reached clean fails x memory
  have goes : exec (.feedFault n fault.cell) s = .next
      (State.markFault { s.sendSections (sections ++ [sectionOf fr.length bytes .abort]) with
        feeder := some { f with frame := n + 1, segment := 1, walk := none } } g.station fr
          (s.walkOf f n fr).2.read fault) := by
    show execFeedFault n fault.cell s = _
    simp only [execFeedFault, State.fed_eq hf hg, State.feedNext_fault clean reached at_ fails, and_self, if_true]
  rw [State.markFault_eq, State.sendSections_eq ho, sectionOf_eq] at goes
  refine ⟨_, goes, rfl, ?_, fun d other => ?_⟩
  · exact State.desc_setDesc_same s fr.desc (Descriptor.faulted_ne_cleared x fault)
  · exact State.desc_setDesc_ne s _ (by simpa using other)

/-! #### The bytes of a GRANT (12.5) -/

theorem beBytes_byte (b : Byte) : beBytes 1 b.toNat = [b] := by
  rw [beBytes_one, BitVec.ofNat_toNat, BitVec.setWidth_eq]

/-- Sections of the recorded lengths fill the body of the GRANT (R16, R191). -/
theorem length_sections_wire : ∀ sections : List Section, (∀ x ∈ sections, x.bytes.length = x.length) →
    (sections.flatMap Section.wire).length = ((sections.map Section.length).map fun n => 3 + n).sum
  | [], _ => rfl
  | x :: rest, whole => by
    have tail := length_sections_wire rest fun y hy => whole y (List.mem_cons_of_mem x hy)
    have head := whole x List.mem_cons_self
    simp only [List.flatMap_cons, List.length_append, tail, List.map_cons, List.sum_cons, Section.wire, length_beBytes, head]
    omega

/-- Settles O38: feeding comes to the end of the frame list, or past the word named. -/
theorem streamEndsAndEccIsCounted : Obligations.StreamEndsAndEccIsCounted := by
  refine ⟨fun s f g out sections hf hg ho =>
    ⟨fun up clean => ?_, fun n fr segment walk seg rest at_ reached clean passes next => ?_⟩, fun out => ?_⟩
  · show execStreamEnd s = _
    simp only [execStreamEnd, State.fed_eq hf hg, if_pos up, State.feedNext_finished clean, State.sendSections_eq ho]
    rw [State.endStream_streaming (by exact hf) (by exact hg) rfl]
    rfl
  · have word : walk.lastWord = some (32 * seg.cell.toNat + (walk.word - 1)) := by
      rw [FeedWalk.lastWord, next]
      rfl
    show execCorrectedEccError _ s = _
    simp only [execCorrectedEccError, State.fed_eq hf hg, State.feedNext_corrected clean reached at_ passes, word, if_true,
      State.sendSections_eq ho]
    rfl
  · intro fixed body frame
    have fixed_eq : out.fixedPart = fixed := by
      have kind : beBytes 1 out.kind.code = [(match out.kind with | .round => (1 : Byte) | .poll => 2)] := by
        cases out.kind <;> rfl
      rw [GrantOut.fixedPart, beBytes_one out.slot, beBytes_byte, kind, beBytes_one out.count]
      rfl
    have wire : Section.wire = fun x : Section => beBytes 2 x.length ++ x.bytes
        ++ [(match x.trailer with | .complete => (1 : Byte) | .abort => 2)] := by
      funext x
      have trailer : beBytes 1 x.trailer.code = [(match x.trailer with | .complete => (1 : Byte) | .abort => 2)] := by
        cases x.trailer <;> rfl
      rw [Section.wire, trailer]
    have body_eq : out.fixedPart ++ out.sections.flatMap Section.wire = body :=
      congrArg₂ (fun first each => first ++ out.sections.flatMap each) fixed_eq wire
    refine ⟨?_, fun ⟨lengths, whole⟩ => ?_⟩
    · rw [GrantOut.wire, ← List.flatMap_def, List.append_assoc, body_eq]
      rfl
    · rw [← body_eq, List.length_append, length_sections_wire _ whole, lengths]
      rfl

end Sys2Proof.Machine
end

section
/-! PROOFS. The statements about packet memory: cells, descriptors and ownership, walks, releases and the Reclaim Scan. -/

set_option Elab.async false

namespace Sys2Proof.Machine

/-! ### Commands that move no frame

`State.Stands s t` says that every cell, every descriptor and every collection of descriptors stands in `t` as in `s`. It
is reflexive and transitive, and holds of most operations the meanings share. Two invariants rest on it: law L2 and law
L1 are kept by every command made of such operations alone. -/

/-- What the laws of packet memory read of the Buffer Manager: all but the PAUSE state, the data and the codes. -/
def BufferManager.pools (b : BufferManager) : BufferManager := { b with pauseWanted := false, mem := [], ecc := [] }

/-- The tables of stations and slots are canonical, and a FREE record has an empty queue (R56). -/
structure State.Records (s : State) : Prop where
  stations : Table.wf Station.free s.stations = true
  slots : Table.wf (none : Option Grant) s.sched.slots = true
  empty : ∀ i, (s.station i).admin = .free → (s.station i).queue = []

/-- No cell and no descriptor moves from `s` to `t`. A field that an operation leaves alone is filled in by itself. -/
structure State.Stands (s t : State) : Prop where
  pools : t.bm.pools = s.bm.pools := by exact rfl
  adm : t.adm = s.adm := by exact rfl
  disposal : t.disposal = s.disposal := by exact rfl
  records : s.Records → t.Records ∧ ∀ i, (t.station i).queue = (s.station i).queue := by
    exact fun h => ⟨⟨h.stations, h.slots, h.empty⟩, fun _ => rfl⟩
  frames : ∀ k, (t.slot k).map Grant.frames = (s.slot k).map Grant.frames := by exact fun _ => rfl

namespace State.Stands
variable {s t u : State}

theorem refl (s : State) : s.Stands s := {}

theorem trans (h : s.Stands t) (g : t.Stands u) : s.Stands u where
  pools := g.pools.trans h.pools
  adm := g.adm.trans h.adm
  disposal := g.disposal.trans h.disposal
  records := fun sound =>
    have ⟨mid, same⟩ := h.records sound
    have ⟨last, same'⟩ := g.records mid
    ⟨last, fun i => (same' i).trans (same i)⟩
  frames := fun k => (g.frames k).trans (h.frames k)

theorem ite (c : Prop) [Decidable c] (h : s.Stands t) (g : s.Stands u) : s.Stands (if c then t else u) := by
  split
  · exact h
  · exact g

/-- A record written with the queue it had, that is not made FREE with frames in its queue. -/
theorem writeStation (h : s.Stands t) (i : Nat) {r : Station}
    (fits : t.Records → r.queue = (t.station i).queue ∧ (r.admin = .free → r.queue = [])) :
    s.Stands (t.setStation i r) := by
  refine h.trans { records := fun sound => ?_ }
  have ⟨queue, empty⟩ := fits sound
  have reads := State.station_setStation sound.stations i
  refine ⟨⟨Table.wf_set sound.stations i r, sound.slots, fun j => ?_⟩, fun j => ?_⟩
  · rw [reads j r]
    split
    · exact empty
    · exact sound.empty j
  · rw [reads j r]
    split
    case isTrue same => rw [queue, same]
    case isFalse => rfl

/-- A record written with its queue and no new FREE record. -/
theorem setStation (h : s.Stands t) (i : Nat) {r : Station} (queue : r.queue = (t.station i).queue := by exact rfl)
    (admin : r.admin = .free → (t.station i).admin = .free := by simp) : s.Stands (t.setStation i r) :=
  h.writeStation i fun sound => ⟨queue, fun free => queue.trans (sound.empty i (admin free))⟩

/-- A record written so, and in the same step the lists of the scheduler. -/
theorem setListed (h : s.Stands t) (i : Nat) {r : Station} {sched : Scheduler}
    (slots : sched.slots = t.sched.slots := by exact rfl) (queue : r.queue = (t.station i).queue := by exact rfl)
    (admin : r.admin = .free → (t.station i).admin = .free := by simp) :
    s.Stands { t.setStation i r with sched := sched } :=
  (h.setStation i queue admin).trans
    { records := fun sound => ⟨⟨sound.stations, slots ▸ sound.slots, sound.empty⟩, fun _ => rfl⟩
      frames := fun k => congrArg (Option.map Grant.frames) (State.slot_congr slots k) }

/-- An open slot written with the frames it held. -/
theorem setSlot (h : s.Stands t) {k : Nat} {g g' : Grant} (was : t.slot k = some g) (frames : g'.frames = g.frames) :
    s.Stands (t.setSlot k (some g')) := by
  refine h.trans { records := fun sound => ?_, frames := fun l => ?_ }
  · exact ⟨⟨sound.stations, Table.wf_set sound.slots k _, sound.empty⟩, fun _ => rfl⟩
  · by_cases same : l = k
    · rw [same, State.slot_setSlot_some, was, Option.map_some, Option.map_some, frames]
    · rw [State.slot_setSlot_ne _ _ same]

theorem record (h : s.Stands t) (e : Event) : s.Stands (t.record e) := h.trans {}

theorem setSched (h : s.Stands t) (n : SchedState) : s.Stands (t.setSched n) := h.trans {}

theorem setCause (h : s.Stands t) (c : Cause) (present : Bool) : s.Stands (t.setCause c present) := h.trans {}

theorem setCandidate (h : s.Stands t) (c : Option Candidate) : s.Stands (t.setCandidate c) := h.trans {}

theorem count (h : s.Stands t) (i : Nat) (f : StationCounters → StationCounters) : s.Stands (t.count i f) := by
  unfold State.count
  split
  · exact h
  · exact h.setStation i

theorem countRefusal (h : s.Stands t) (e : IngressEntry) : s.Stands (t.countRefusal e) := by
  unfold State.countRefusal
  split
  · exact h.count _ _
  · exact h

theorem joinList (h : s.Stands t) (i : Nat) (freed : Bool) : s.Stands (t.joinList i freed) := by
  unfold State.joinList
  simp only
  split <;> exact h.setListed i

theorem leaveList (h : s.Stands t) (i : Nat) : s.Stands (t.leaveList i) := h.setListed i

theorem relist (h : s.Stands t) (i : Nat) (was freed : Bool) : s.Stands (t.relist i was freed) := by
  rcases t.relist_cases i was freed with ⟨_, e⟩ | ⟨_, _, _, e⟩ | ⟨_, _, _, e⟩ | ⟨_, _, e⟩ <;> rw [e]
  · exact h
  · exact h.joinList i freed
  · exact h.leaveList i
  · exact h

theorem change (h : s.Stands t) (i : Nat) (freed : Bool) {f : Station → Station}
    (queue : ∀ r, (f r).queue = r.queue := by exact fun _ => rfl)
    (admin : ∀ r, (f r).admin = .free → r.admin = .free := by simp) : s.Stands (t.change i freed f) :=
  (h.setStation i (queue _) (admin _)).relist i _ freed

theorem cancelPoll (h : s.Stands t) (i : Nat) : s.Stands (t.cancelPoll i) := by
  unfold State.cancelPoll
  split
  · exact h.setListed i
  · exact h

theorem enterFrozen (h : s.Stands t) : s.Stands t.enterFrozen := (h.setSched .frozen).record _

theorem addCause (h : s.Stands t) (c : Cause) : s.Stands (t.addCause c) := by
  unfold State.addCause
  simp only
  split_ifs
  · exact h
  · exact (h.setCause c true).enterFrozen
  · exact (h.setCause c true).setSched .freezing
  · exact h.setCause c true

theorem removeCause (h : s.Stands t) (c : Cause) : s.Stands (t.removeCause c) := by
  unfold State.removeCause
  simp only
  split_ifs
  · exact ((h.setCause c false).setSched .running).record _
  · exact h.setCause c false
  · exact h

theorem checkStopped (h : s.Stands t) : s.Stands t.checkStopped := by
  unfold State.checkStopped
  split
  · exact ((h.setCause .host false).setSched .off).record _
  · exact h

theorem slotFreed (h : s.Stands t) : s.Stands t.slotFreed := by
  unfold State.slotFreed
  split
  · exact h.enterFrozen
  · exact h.checkStopped

theorem checkRetired (h : s.Stands t) : s.Stands t.checkRetired := by
  unfold State.checkRetired
  split
  · exact (h.setSched .halted).record _
  · exact h

/-- The pools handed over and what follows from them move nothing more. -/
theorem withPools (s : State) (b : BufferManager) : State.Stands { s with bm := b } (s.withPools b) := by
  have evaluated : State.Stands { s with bm := b } { s with bm := BufferManager.evaluateFrom s.startUnsent s.bm b } := {}
  unfold State.withPools
  simp only
  split
  · exact evaluated.checkRetired
  · exact evaluated

/-- A record made FREE had an empty queue (R157). -/
theorem checkTeardown (h : s.Stands t) (i : Nat) : s.Stands (t.checkTeardown i) := by
  unfold State.checkTeardown
  simp only
  split
  case isTrue due =>
    obtain ⟨_, _, queue, _⟩ := due
    exact (h.writeStation i fun _ => ⟨queue.symm, fun _ => rfl⟩).record _
  case isFalse => exact h

theorem purgeEntryLeaves (h : s.Stands t) (i : Nat) : s.Stands (t.purgeEntryLeaves i) :=
  (checkTeardown (h.trans {}) i).checkStopped

theorem reportFault (h : s.Stands t) (phase : Phase) (i : Nat) (cookie : BitVec 32) (f : WalkFault) :
    s.Stands (t.reportFault phase i cookie f) := (h.trans {}).record _

theorem claimFault (h : s.Stands t) (phase : Phase) (i : Nat) : s.Stands (t.claimFault phase i) := h.trans {}

theorem protocolError (h : s.Stands t) (cause : ProtocolCause) (kind slot serial : Byte) (i : StationIndex) :
    s.Stands (t.protocolError cause kind slot serial i) := (h.trans {}).record _

theorem escalate (h : s.Stands t) (i : Nat) : s.Stands (t.escalate i) := by
  have faulted : s.Stands ((t.change i false fun r => { r with admin := .faulted }).cancelPoll i) :=
    (h.change i false).cancelPoll i
  unfold State.escalate
  simp only
  split
  · exact ((faulted.trans {}).record _).checkStopped
  · exact (faulted.trans {}).record _

theorem takeClaim (h : s.Stands t) (c : FaultClaim) : s.Stands (t.takeClaim c) := by
  unfold State.takeClaim
  split_ifs
  · exact h.escalate _
  · exact h.setStation _
  · exact h

theorem settleFeedClaims (h : s.Stands t) (i : Nat) : s.Stands (t.settleFeedClaims i) := by
  have claims : ∀ (l : List FaultClaim) {u : State}, s.Stands u → s.Stands (l.foldl State.takeClaim u) := by
    intro l
    induction l with
    | nil => exact fun g => g
    | cons c rest ih => exact fun g => ih (g.takeClaim c)
  exact claims _ (h.trans {})

theorem endStream (h : s.Stands t) (ended : StreamEnd) : s.Stands (t.endStream ended) := by
  unfold State.endStream
  split
  · exact h
  · simp only
    split
    case h_1 g open_ =>
      have sent := h.setSlot (g' := { g with stream := .sent { limit := 1000 * t.rp.options.grantTimeout, elapsed := 0 } })
        open_ rfl
      exact sent.trans {}
    case h_2 => exact h.trans {}

theorem handOver (h : s.Stands t) : s.Stands t.handOver := by
  unfold State.handOver
  split
  · exact h.trans {}
  · exact h

theorem finish (h : s.Stands t) (r : Response) (cursor : Option Cursor) : s.Stands (t.finish r cursor) :=
  handOver (h.trans {})

end State.Stands

/-- Whatever state the outcome `o` of a command on `s` names, no frame has moved. -/
def State.StandsBy (s : State) (o : Host.Outcome State Fault Refusal) : Prop := ∀ t, o = .next t → s.Stands t

theorem State.Stands.next {s t : State} (h : s.Stands t) : s.StandsBy (.next t) := by
  rintro _ ⟨⟩
  exact h

/-- A frame that is not sound, or that arrives in a reset, is not taken. -/
theorem State.Stands.unless {s t : State} (c : Prop) [Decidable c] (h : s.Stands t) :
    s.StandsBy (.next (if c then s else t)) := (ite c (refl s) h).next

/-! #### The System Link -/

theorem execIngressSpaceClaim_stands (header : List Byte) (s : State) : s.StandsBy (execIngressSpaceClaim header s) :=
  .unless _ (.ite _ {} (.refl s))

theorem execDownFrameReceived_stands (frame : List Byte) (s : State) : s.StandsBy (execDownFrameReceived frame s) := by
  refine .unless _ ?_
  split
  · exact {}
  · exact .ite _ {} (.refl s)

theorem execRequestFrameReceived_stands (frame : List Byte) (s : State) :
    s.StandsBy (execRequestFrameReceived frame s) := .unless _ (.ite _ {} {})

theorem execSystemLinkBadFrame_stands (frame : List Byte) (s : State) : s.StandsBy (execSystemLinkBadFrame frame s) :=
  .unless _ {}

namespace State.Stands
variable {s t : State}

theorem startEvent (h : s.Stands t) : s.Stands t.startEvent := by
  unfold State.startEvent
  split
  · exact h
  · exact h.trans {}

theorem startTraffic (h : s.Stands t) : s.Stands t.startTraffic := by
  have up : s.Stands t.startUp := by
    unfold State.startUp
    split
    · exact h
    · exact h.trans {}
  have disposal : s.Stands t.startDisposal := h.trans {}
  exact .ite _ up (.ite _ disposal (.ite _ disposal up))

theorem chooseFrame (h : s.Stands t) : s.Stands t.chooseFrame := by
  unfold State.chooseFrame
  split
  · exact h.startEvent
  · split
    · exact h.trans {}
    · split
      · exact h.trans {}
      · exact .ite _ h.startTraffic h.startEvent

theorem lineEnded (h : s.Stands t) : s.Stands t.lineEnded := by
  unfold State.lineEnded
  split
  · exact h
  · split
    · exact handOver (h.trans {})
    · exact h.trans {}

end State.Stands

theorem execTransmitterChoice_stands (s : State) : s.StandsBy (execTransmitterChoice s) := by
  refine .next ?_
  split
  · exact (State.Stands.refl s).chooseFrame
  · exact .ite _ (.refl s) (State.Stands.refl s).lineEnded.chooseFrame

theorem execUpFrameSent_stands (s : State) : s.StandsBy (execUpFrameSent s) := by
  refine .next ?_
  split
  · exact {}
  · exact .refl s

theorem execStartEventSent_stands (s : State) : s.StandsBy (execStartEventSent s) := by
  refine .next ?_
  split
  · exact {}
  · exact .refl s

/-! #### The Radio Link, its notes, and uplink forwarding -/

theorem execReceiveLockChange_stands (lock : Bool) (s : State) : s.StandsBy (execReceiveLockChange lock s) :=
  .unless _ {}

theorem execLinkUp_stands (s : State) : s.StandsBy (execLinkUp s) :=
  .next (.ite _ ((State.Stands.record {} _).removeCause .link) (.refl s))

theorem execLinkDown_stands (s : State) : s.StandsBy (execLinkDown s) :=
  .next (.ite _ (((State.Stands.record {} _).endStream .cut).addCause .link) (.refl s))

theorem execRadioLinkBadFrame_stands (frame : List Byte) (s : State) : s.StandsBy (execRadioLinkBadFrame frame s) := by
  refine .unless _ ?_
  split
  · exact .refl s
  · exact State.Stands.protocolError {} _ _ _ _ _

namespace State.Stands
variable {s t : State}

theorem doze (h : s.Stands t) (i : Nat) : s.Stands (t.doze i) := by
  unfold State.doze
  split
  · exact h.trans {}
  · exact h.trans {}
  · exact h.setStation i
  · exact h.change i false

theorem wake (h : s.Stands t) (i : Nat) : s.Stands (t.wake i) := by
  unfold State.wake
  split
  · exact h.trans {}
  · exact h.trans {}
  · exact h.setStation i
  · exact .ite _ ((h.cancelPoll i).change i false) h

theorem takePoll (h : s.Stands t) (i : Nat) : s.Stands (t.takePoll i) := by
  unfold State.takePoll
  split
  · exact h.trans {}
  · exact h.trans {}
  · exact h.trans {}
  · exact .ite _ (h.setListed i) (h.trans {})

theorem sortUplink (h : s.Stands t) (m : UpMessage) : s.Stands (t.sortUplink m) := by
  have charged (i airtime : Nat) : s.Stands (t.chargeUplink i airtime) :=
    .ite _ (h.setListed i) (h.setStation i)
  exact .ite _ (charged _ _) (h.trans {})

theorem loseUplink (h : s.Stands t) (m : UpMessage) (known : Bool) : s.Stands (t.loseUplink m known) :=
  .ite _ h (.ite _ (h.protocolError _ _ _ _ _) (.ite _ (h.count _ _) h))

theorem takeUp (s : State) (m : UpMessage) : s.Stands (s.takeUp m) := by
  have sorted := (State.Stands.refl s).sortUplink m
  unfold State.takeUp
  simp only
  split
  · exact sorted.loseUplink m _
  · exact .ite _ (sorted.trans {}) (.refl s)

end State.Stands

theorem execDoze_stands (frame : List Byte) (s : State) : s.StandsBy (execDoze frame s) :=
  .unless _ ((State.Stands.refl s).doze _)

theorem execWake_stands (frame : List Byte) (s : State) : s.StandsBy (execWake frame s) :=
  .unless _ ((State.Stands.refl s).wake _)

theorem execPoll_stands (frame : List Byte) (s : State) : s.StandsBy (execPoll frame s) :=
  .unless _ ((State.Stands.refl s).takePoll _)

theorem execMediumHold_stands (frame : List Byte) (s : State) : s.StandsBy (execMediumHold frame s) :=
  .unless _ ((State.Stands.refl s).addCause .radio)

theorem execMediumRelease_stands (frame : List Byte) (s : State) : s.StandsBy (execMediumRelease frame s) :=
  .unless _ ((State.Stands.refl s).removeCause .radio)

theorem execUplinkSpaceClaim_stands (header : List Byte) (s : State) : s.StandsBy (execUplinkSpaceClaim header s) :=
  .unless _ (.ite _ {} (.refl s))

theorem execUpMessage_stands (frame : List Byte) (s : State) : s.StandsBy (execUpMessage frame s) :=
  .unless _ (State.Stands.takeUp s _)

/-! #### The choice of the arbiter, the end of a stream, fault claims and the sweep timer -/

theorem State.Stands.takeRound {s t : State} (h : s.Stands t) (i : Nat) : s.Stands (t.takeRound i) :=
  (h.leaveList i).setCandidate _

theorem State.Stands.topUp {s : State} : ∀ (n : Nat) {t : State}, s.Stands t → s.Stands (State.topUp n t).2 := by
  intro n
  induction n with
  | zero =>
    intro t h
    unfold State.topUp
    split
    · exact h
    · split <;> exact h
  | succ n ih =>
    intro t h
    unfold State.topUp
    split
    · exact h
    · split
      · exact h
      · exact ih (h.setListed _)

theorem execArbiterChoice_stands (s : State) : s.StandsBy (execArbiterChoice s) := by
  refine .next (.ite _ ?_ (.refl s))
  split
  · exact (State.Stands.refl s).setCandidate _
  · split
    · exact (State.Stands.refl s).takeRound _
    · have topped := State.Stands.topUp s.topUpBound (State.Stands.refl s)
      split
      case h_1 e => rw [e] at topped; exact topped.takeRound _
      case h_2 e => rw [e] at topped; exact topped

theorem execStreamEnd_stands (s : State) : s.StandsBy (execStreamEnd s) := by
  refine .next ?_
  split
  · exact .refl s
  · refine .ite _ ?_ (.refl s)
    split
    · exact State.Stands.endStream {} .whole
    · exact .refl s

theorem execCorrectedEccError_stands (word : Nat) (s : State) : s.StandsBy (execCorrectedEccError word s) := by
  refine .next ?_
  split
  · exact .refl s
  · split
    · exact .ite _ {} (.refl s)
    · exact .refl s

theorem execFaultClaim_stands (n : Nat) (s : State) : s.StandsBy (execFaultClaim n s) := by
  refine .next ?_
  split
  · exact .refl s
  · exact State.Stands.takeClaim {} _

theorem execSweepTimer_stands (s : State) : s.StandsBy (execSweepTimer s) := by
  refine .next ?_
  split
  · exact .refl s
  · exact .ite _ {} (.refl s)

/-! #### Requests -/

namespace State.Stands
variable {s t : State}

theorem takeRequest (h : s.Stands t) {k : Option RequestKind} {q : Request} {u : State}
    (taken : t.takeRequest k = some (q, u)) : s.Stands u := by
  unfold State.takeRequest at taken
  split at taken
  · split at taken
    · split at taken
      · cases taken
        exact h.trans {}
      · cases taken
    · cases taken
  · cases taken

/-- A request executed in one step moves no frame if its run moves none. -/
theorem request (k : RequestKind) {run : Request → State → State}
    (runs : ∀ q {u : State}, s.Stands u → s.Stands (run q u)) : s.StandsBy (.next (s.request k run)) := by
  refine .next ?_
  unfold State.request
  split
  · exact .refl s
  case h_2 q u taken =>
    have served := (refl s).takeRequest taken
    split
    · exact served.finish _ none
    · exact runs q served

theorem claims {claim : Execution → State → State} (each : ∀ e {u : State}, s.Stands u → s.Stands (claim e u)) :
    ∀ (n : Nat) {t : State}, s.Stands t → s.Stands (State.claims claim n t)
  | 0, _, h => h
  | n + 1, t, h => by
    rw [State.claims]
    split
    · exact h
    · exact claims each n (each _ h)

/-- A request executed claim by claim moves no frame if no claim moves one. -/
theorem claimRequest (k : RequestKind) (fields : Request → State → Option Reason) {claim : Execution → State → State}
    (each : ∀ e {u : State}, s.Stands u → s.Stands (claim e u)) (n : Nat) :
    s.StandsBy (.next (s.claimRequest k fields claim n)) := by
  refine .next ?_
  unfold State.claimRequest
  split
  · exact .ite _ (claims each n (refl s)) (refl s)
  · split
    · exact refl s
    case h_2 q u taken =>
      have served := (refl s).takeRequest taken
      split
      · exact served.finish _ none
      · exact claims each n (served.trans {})

theorem entryClaim (h : s.Stands t) (e : Execution) (entries index : Nat) {result : Except Reason State}
    (effect : ∀ u, result = .ok u → s.Stands u) : s.Stands (t.entryClaim e entries index result) := by
  unfold State.entryClaim
  split
  · exact h.finish _ none
  case h_2 u =>
    have done := effect u rfl
    exact .ite _ (done.finish _ none) (done.trans {})

/-- A FREE record that is programmed has an empty queue before and after (R61). -/
theorem programEntry (h : s.Stands t) (body : List Byte) (k : Nat) :
    ∀ u, t.programEntry body k = .ok u → s.Stands u := by
  intro u effect
  unfold State.programEntry at effect
  split at effect
  · cases effect
  · simp only at effect
    split at effect
    · cases effect
    · cases effect
    case h_3 free =>
      cases effect
      exact h.writeStation _ fun sound => ⟨(sound.empty _ free).symm, fun _ => rfl⟩
    · split at effect <;> cases effect
      exact h.setStation _ rfl id

theorem listForPurge (h : s.Stands t) (i : Nat) (p : Purpose) : s.Stands (t.listForPurge i p) :=
  .ite _ (checkStopped (h.trans {})) (h.trans {})

theorem removeEntry (h : s.Stands t) (i : Nat) : ∀ u, t.removeEntry i = .ok u → s.Stands u := by
  have removed : s.Stands (((t.change i false fun r => { r with admin := .purging }).cancelPoll i).listForPurge i .remove) :=
    listForPurge ((h.change i false).cancelPoll i) i .remove
  intro u effect
  unfold State.removeEntry at effect
  split at effect
  · cases effect
  · split at effect <;> cases effect
    · exact h
    · exact removed
    · exact removed

theorem clearEntry (h : s.Stands t) (i : Nat) : ∀ u, t.clearEntry i = .ok u → s.Stands u := by
  intro u effect
  unfold State.clearEntry at effect
  split at effect
  · cases effect
  · simp only at effect
    split at effect
    · cases effect
    · cases effect
    · split at effect <;> cases effect
      exact h.change i false
    · split at effect <;> cases effect
      exact h.setStation i

theorem positionClaim (h : s.Stands t) (e : Execution) (hold : Bool) : s.Stands (t.positionClaim e hold) := by
  have held : s.Stands (t.holdPosition e.done (mapBit e.request.body e.done) hold) := .ite _ (h.change _ false) h
  exact .ite _ (held.finish _ none) (held.trans {})

theorem readClaim (h : s.Stands t) (e : Execution) : s.Stands (t.readClaim e) := by
  have cleared (c : Prop) [Decidable c] (i : Nat) : s.Stands (if c then t.clearCounters i else t) :=
    .ite c (.ite _ h (h.setStation i)) h
  exact .ite _ ((cleared _ _).finish _ _) ((cleared _ _).trans {})

theorem counterClaim (h : s.Stands t) (e : Execution) : s.Stands (t.counterClaim e) := by
  have cleared (c : Prop) [Decidable c] := ite (u := t) c (h.trans (u := { t with ctr := t.ctr.clear e.done }) {}) h
  exact .ite _ ((cleared _).finish _ none) ((cleared _).trans {})

/-- The clamp of R82 changes deficits alone. -/
theorem commitClasses (h : s.Stands t) : s.Stands t.commitClasses := by
  have free (a b : Table ClassEntry) : Station.free.clamped a b = Station.free := by simp [Station.clamped, Station.free]
  have clamp (r : Station) (a b : Table ClassEntry) : (r.clamped a b).queue = r.queue ∧ (r.clamped a b).admin = r.admin := by
    unfold Station.clamped
    simp only
    split <;> exact ⟨rfl, rfl⟩
  have reads (i : Nat) : t.commitClasses.station i = (t.station i).clamped t.sched.liveClass t.sched.shadowClass :=
    Table.get_map Station.free (f := fun r => r.clamped t.sched.liveClass t.sched.shadowClass) (free _ _) t.stations i
  refine h.trans { records := fun sound => ⟨⟨?_, sound.slots, fun i => ?_⟩, fun i => ?_⟩ }
  · exact Table.wf_map (fun _ ne => Station.clamped_ne_free ne _ _) sound.stations
  · rw [reads, (clamp _ _ _).1, (clamp _ _ _).2]
    exact sound.empty i
  · rw [reads, (clamp _ _ _).1]

end State.Stands

theorem execIdentify_stands (s : State) : s.StandsBy (execIdentify s) := .request _ fun _ _ h => h.finish _ none

theorem execSetOptions_stands (s : State) : s.StandsBy (execSetOptions s) :=
  .request _ fun _ _ h => by
    split
    · exact h.finish _ none
    · exact .ite _ (h.finish _ none)
        (State.Stands.finish (.ite _ (h.trans {}) (State.Stands.checkRetired (h.trans {}))) _ none)

theorem execStart_stands (s : State) : s.StandsBy (execStart s) :=
  .request _ fun _ _ h => by
    split
    · exact h.finish _ none
    · exact .ite _ (h.finish _ none) (State.Stands.finish (.ite _ (h.setSched .running) h.enterFrozen) _ none)

theorem execStop_stands (s : State) : s.StandsBy (execStop s) :=
  .request _ fun _ _ h => State.Stands.finish (State.Stands.checkStopped (h.trans {})) _ none

theorem execFreeze_stands (s : State) : s.StandsBy (execFreeze s) :=
  .request _ fun _ _ h => (h.addCause .host).finish _ none

theorem execThaw_stands (s : State) : s.StandsBy (execThaw s) :=
  .request _ fun _ _ h => (h.removeCause .host).finish _ none

theorem execPartReset_stands (s : State) : s.StandsBy (execPartReset s) :=
  .request _ fun _ _ h => State.Stands.finish (h.trans {}) _ none

theorem execBacklogMap_stands (s : State) : s.StandsBy (execBacklogMap s) := .request _ fun _ _ h => h.finish _ none

theorem execClassWrite_stands (s : State) : s.StandsBy (execClassWrite s) :=
  .request _ fun _ _ h => .ite _ (h.finish _ none) (State.Stands.finish (h.trans {}) _ none)

theorem execRateWrite_stands (s : State) : s.StandsBy (execRateWrite s) :=
  .request _ fun _ _ h => .ite _ (h.finish _ none) (State.Stands.finish (h.trans {}) _ none)

theorem execTableCommit_stands (s : State) : s.StandsBy (execTableCommit s) :=
  .request _ fun _ _ h => by
    split
    · exact h.commitClasses.finish _ none
    · exact State.Stands.finish (h.trans {}) _ none
    · exact State.Stands.finish (h.commitClasses.trans {}) _ none
    · exact h.finish _ none

theorem execTableRead_stands (s : State) : s.StandsBy (execTableRead s) :=
  .request _ fun _ _ h => by
    simp only
    split <;> exact h.finish _ none

theorem execUnknownRequest_stands (s : State) : s.StandsBy (execUnknownRequest s) := by
  refine .next ?_
  split
  · exact .refl s
  case h_2 taken => exact ((State.Stands.refl s).takeRequest taken).finish _ none

theorem execStationProgram_stands (n : Nat) (s : State) : s.StandsBy (execStationProgram n s) :=
  .claimRequest _ _ (fun e _ h => h.entryClaim e _ _ (h.programEntry _ _)) n

theorem execStationRemove_stands (n : Nat) (s : State) : s.StandsBy (execStationRemove n s) :=
  .claimRequest _ _ (fun e _ h => h.entryClaim e _ _ (h.removeEntry _)) n

theorem execStationClearFault_stands (n : Nat) (s : State) : s.StandsBy (execStationClearFault n s) :=
  .claimRequest _ _ (fun e _ h => h.entryClaim e _ _ (h.clearEntry _)) n

theorem execStationHold_stands (n : Nat) (s : State) : s.StandsBy (execStationHold n s) :=
  .claimRequest _ _ (fun e _ h => h.positionClaim e true) n

theorem execStationRelease_stands (n : Nat) (s : State) : s.StandsBy (execStationRelease n s) :=
  .claimRequest _ _ (fun e _ h => h.positionClaim e false) n

theorem execStationRead_stands (n : Nat) (s : State) : s.StandsBy (execStationRead n s) :=
  .claimRequest _ _ (fun e _ h => h.readClaim e) n

theorem execCounterRead_stands (n : Nat) (s : State) : s.StandsBy (execCounterRead n s) :=
  .claimRequest _ _ (fun e _ h => h.counterClaim e) n

/-- The commands that can move a frame or a cell: resets, admission, the return and the end of frames, formation, the
Feeder's mark and the Reclaim Scan. -/
def Instr.MovesFrames : Instr → Prop
  | .powerOnReset _ | .selfTest _ | .softReset | .admissionDecision | .admissionRetry | .append | .disposalMessageSent
  | .done _ | .grantTimeout _ | .grantFormation | .feedFault _ _ | .reclaimScanStart | .reclaimScanVisit
  | .reclaimScanEnd | .sweepVisit | .purgeStep => True
  | _ => False

theorem exec_stands (c : Instr) (s : State) (still : ¬ Instr.MovesFrames c) : s.StandsBy (exec c s) := by
  cases c with
  | ingressSpaceClaim header => exact execIngressSpaceClaim_stands header s
  | downFrameReceived frame => exact execDownFrameReceived_stands frame s
  | requestFrameReceived frame => exact execRequestFrameReceived_stands frame s
  | systemLinkBadFrame frame => exact execSystemLinkBadFrame_stands frame s
  | transmitterChoice => exact execTransmitterChoice_stands s
  | upFrameSent => exact execUpFrameSent_stands s
  | startEventSent => exact execStartEventSent_stands s
  | receiveLockChange lock => exact execReceiveLockChange_stands lock s
  | linkUp => exact execLinkUp_stands s
  | linkDown => exact execLinkDown_stands s
  | radioLinkBadFrame frame => exact execRadioLinkBadFrame_stands frame s
  | uplinkSpaceClaim header => exact execUplinkSpaceClaim_stands header s
  | upMessage frame => exact execUpMessage_stands frame s
  | doze frame => exact execDoze_stands frame s
  | wake frame => exact execWake_stands frame s
  | poll frame => exact execPoll_stands frame s
  | mediumHold frame => exact execMediumHold_stands frame s
  | mediumRelease frame => exact execMediumRelease_stands frame s
  | arbiterChoice => exact execArbiterChoice_stands s
  | streamEnd => exact execStreamEnd_stands s
  | faultClaim n => exact execFaultClaim_stands n s
  | sweepTimer => exact execSweepTimer_stands s
  | identify => exact execIdentify_stands s
  | setOptions => exact execSetOptions_stands s
  | start => exact execStart_stands s
  | stop => exact execStop_stands s
  | freeze => exact execFreeze_stands s
  | thaw => exact execThaw_stands s
  | stationProgram n => exact execStationProgram_stands n s
  | stationRemove n => exact execStationRemove_stands n s
  | stationHold n => exact execStationHold_stands n s
  | stationRelease n => exact execStationRelease_stands n s
  | stationClearFault n => exact execStationClearFault_stands n s
  | stationRead n => exact execStationRead_stands n s
  | backlogMap => exact execBacklogMap_stands s
  | classWrite => exact execClassWrite_stands s
  | rateWrite => exact execRateWrite_stands s
  | tableCommit => exact execTableCommit_stands s
  | tableRead => exact execTableRead_stands s
  | counterRead n => exact execCounterRead_stands n s
  | partReset => exact execPartReset_stands s
  | unknownRequest => exact execUnknownRequest_stands s
  | correctedEccError word => exact execCorrectedEccError_stands word s
  | _ => exact absurd trivial still

/-! ### The Cell Owner Table that the self-test writes (R34) -/

/-- A write lists nothing but what was listed before and its own entry. -/
theorem Table.mem_set {α : Type} [DecidableEq α] {d v : α} {i : Nat} {e : Nat × α} :
    ∀ {t : Table α}, e ∈ Table.set d t i v → e = (i, v) ∨ e ∈ t
  | [], h => by
    rw [Table.set] at h
    split at h
    · cases h
    · exact .inl (List.mem_singleton.1 h)
  | (k, w) :: rest, h => by
    rw [Table.set] at h
    split_ifs at h with below isDefault same isDefault'
    · exact .inr h
    · rcases List.mem_cons.1 h with rfl | h
      · exact .inl rfl
      · exact .inr h
    · exact .inr (List.mem_cons_of_mem _ h)
    · rcases List.mem_cons.1 h with rfl | h
      · exact .inl rfl
      · exact .inr (List.mem_cons_of_mem _ h)
    · rcases List.mem_cons.1 h with rfl | h
      · exact .inr List.mem_cons_self
      · exact (Table.mem_set h).imp_right (List.mem_cons_of_mem _)

theorem get_retiredCells (c : Nat) : ∀ failed : List Nat,
    Table.get Owner.free (retiredCells failed) c = if c < 16384 ∧ c ∈ failed then .retired else .free
  | [] => by simp [retiredCells, Table.get]
  | a :: rest => by
    have ih := get_retiredCells c rest
    rw [retiredCells, Config.cellCount_eq]
    by_cases same : c = a
    · subst same
      split
      case isTrue cell => rw [Table.get_set_same (wf_retiredCells rest), if_pos ⟨cell, List.mem_cons_self⟩]
      case isFalse none => rw [ih, if_neg fun h => none h.1, if_neg fun h => none h.1]
    · have others : Table.get Owner.free (if a < 16384 then Table.set Owner.free (retiredCells rest) a .retired
          else retiredCells rest) c = Table.get Owner.free (retiredCells rest) c := by
        split
        · exact Table.get_set_ne _ _ _ _ _ same
        · rfl
      rw [others, ih]
      simp only [List.mem_cons, same, false_or]

theorem retiredCells_lt : ∀ (failed : List Nat), ∀ e ∈ retiredCells failed, e.1 < 16384
  | [], _, h => by cases h
  | a :: rest, e, h => by
    rw [retiredCells, Config.cellCount_eq] at h
    split at h
    case isTrue cell =>
      rcases Table.mem_set h with same | h
      · subst same
        exact cell
      · exact retiredCells_lt rest e h
    case isFalse => exact retiredCells_lt rest e h

/-- The free cell list after the self-test holds the cells that passed, in ascending order (R34). -/
theorem BufferManager.freeCells_tested (b : BufferManager) (failed : List Nat) (n : Nat) :
    (b.tested failed n).freeCells.toList = (List.range 16384).filter (fun c => decide (c ∉ failed)) := by
  have passed := Runs.toList_gaps Owner.free 16384 (retiredCells failed) 0 (by omega) (wf_retiredCells failed)
    (retiredCells_lt failed)
  show (Runs.gaps Config.cellCount (retiredCells failed) 0).toList = _
  rw [Config.cellCount_eq, passed, List.range_eq_range']
  refine List.filter_congr fun c mem => ?_
  have cell : c < 16384 := by rw [List.mem_range'_1] at mem; omega
  rw [get_retiredCells]
  by_cases fails : c ∈ failed <;> simp [fails, cell]

/-! ### What a step keeps: law L2 of the cells (R23), and law L9 of the retired count (R30) -/

/-- The owner table is canonical and the free cell list is the FREE cells. -/
def BufferManager.CellsSound (b : BufferManager) : Prop := Table.wf Owner.free b.owners = true ∧ b.CellLaw

/-- From `b` to `c` law L2 is kept and no cell ceases to be RETIRED. -/
def BufferManager.KeepsCells (b c : BufferManager) : Prop :=
  b.CellsSound → c.CellsSound ∧ b.retiredCount ≤ c.retiredCount

/-- Cells taken by a descriptor that were not RETIRED leave the retired count as it was. -/
theorem BufferManager.retiredCount_own (d : Nat) : ∀ (cells : List Nat) (b : BufferManager),
    Table.wf Owner.free b.owners = true → (∀ c ∈ cells, b.owner c ≠ .retired) →
    (b.own d cells).retiredCount = b.retiredCount
  | [], _, _, _ => rfl
  | a :: rest, b, wf, live => by
    have live' : ∀ c ∈ rest, (b.setOwner a (.desc d)).owner c ≠ .retired := by
      intro c mem
      rw [owner_setOwner wf]
      split
      · simp
      · exact live c (List.mem_cons_of_mem _ mem)
    rw [own, retiredCount_own d rest _ (Table.wf_set wf _ _) live',
      retiredCount_setOwner wf _ (live a List.mem_cons_self) (by simp)]

namespace BufferManager.KeepsCells
variable {a b c : BufferManager}

theorem refl (b : BufferManager) : b.KeepsCells b := fun sound => ⟨sound, le_refl _⟩

theorem trans (h : a.KeepsCells b) (g : b.KeepsCells c) : a.KeepsCells c := fun sound =>
  have ⟨mid, le⟩ := h sound
  have ⟨last, le'⟩ := g mid
  ⟨last, le.trans le'⟩

/-- The law and the count are about the owner table and the free cell list alone. -/
theorem of_same (owners : c.owners = b.owners := by exact rfl) (freeCells : c.freeCells = b.freeCells := by exact rfl) :
    b.KeepsCells c := by
  intro sound
  unfold BufferManager.CellsSound BufferManager.CellLaw BufferManager.owner BufferManager.retiredCount at *
  rw [owners, freeCells]
  exact ⟨sound, le_refl _⟩

/-- A cell that a descriptor owns is one of the 16,384, and is on no list. -/
theorem owned (sound : b.CellsSound) {cell d : Nat} (owned : b.owner cell = .desc d) :
    cell < 16384 ∧ cell ∉ b.freeCells.toList := by
  obtain ⟨_, _, mem, beyond⟩ := sound
  refine ⟨?_, fun free => ?_⟩
  · by_contra far
    rw [beyond cell (by omega)] at owned
    cases owned
  · rw [((mem cell).1 free).2] at owned
    cases owned

theorem freeCell {cell d : Nat} (own : b.owner cell = .desc d) : b.KeepsCells (b.freeCell cell) := by
  intro sound
  obtain ⟨below, unlisted⟩ := owned sound own
  obtain ⟨wf, nodup, mem, beyond⟩ := sound
  have reads := owner_freeCell wf cell
  refine ⟨⟨Table.wf_set wf _ _, ?_, fun x => ?_, fun x far => ?_⟩, ?_⟩
  · rw [freeCell_freeCells, Runs.toList_push]
    exact List.nodup_append.2 ⟨nodup, by simp, by rintro x listed _ (mem | ⟨_, ⟨⟩⟩) rfl; exact unlisted listed⟩
  · rw [freeCell_freeCells, Runs.toList_push, List.mem_append, List.mem_singleton, mem x, reads]
    by_cases same : x = cell
    · simp [same, below]
    · simp [same]
  · rw [reads]
    split
    · rfl
    · exact beyond x far
  · exact (retiredCount_setOwner wf cell (by rw [own]; simp) (by simp)).ge

theorem retireCell {cell d : Nat} (own : b.owner cell = .desc d) : b.KeepsCells (b.retireCell cell) := by
  intro sound
  obtain ⟨below, unlisted⟩ := owned sound own
  obtain ⟨wf, nodup, mem, beyond⟩ := sound
  have reads := owner_retireCell b cell
  refine ⟨⟨Table.wf_set wf _ _, nodup, fun x => ?_, fun x far => ?_⟩, ?_⟩
  · rw [retireCell_freeCells, mem x, reads]
    by_cases same : x = cell
    · simp [same, own]
    · simp [same]
  · rw [reads, if_neg (by omega)]
    exact beyond x far
  · rw [retiredCount_retireCell b cell (by rw [own]; simp)]
    exact Nat.le_succ _

/-- A release walk frees and retires owned cells alone (R26). -/
theorem releaseWalk (b : BufferManager) (d : Nat) : b.KeepsCells (b.releaseWalk d).2 :=
  BufferManager.releaseWalk_keeps (P := fun c => b.KeepsCells c) d (fun _ _ h _ own => h.trans (freeCell own))
    (fun _ _ h _ own => h.trans (retireCell own)) b (refl b)

/-- A late refusal frees the descriptor's own cells alone (R50). -/
theorem giveBack (d : Nat) : ∀ (segs : List Segment) (b : BufferManager), b.KeepsCells (b.giveBack d segs)
  | [], b => refl b
  | g :: rest, b => by
    rw [BufferManager.giveBack]
    split
    case isTrue own => exact (freeCell own).trans (giveBack d rest _)
    case isFalse => exact giveBack d rest b

/-- A claim to queue takes the head cells of the free list, which were FREE (R21). -/
theorem claimToQueue {n d : Nat} {cells : List Nat} (claimed : b.claimToQueue n = some (d, cells, c)) :
    b.KeepsCells c := by
  rintro ⟨wf, nodup, mem, beyond⟩
  obtain ⟨_, taken, _, left, owner, _, wf', _⟩ := claimToQueue_some claimed
  generalize (n + 255) / 256 = k at taken left
  have parts : b.freeCells.toList = cells ++ c.freeCells.toList := by rw [taken, left, List.take_append_drop]
  rw [parts] at nodup
  obtain ⟨_, rest, apart⟩ := List.nodup_append.1 nodup
  have free (x : Nat) (h : x ∈ cells) : x < 16384 ∧ b.owner x = .free :=
    (mem x).1 (by rw [parts]; exact List.mem_append_left _ h)
  refine ⟨⟨wf' wf, rest, fun x => ?_, fun x far => ?_⟩, ?_⟩
  · rw [owner]
    by_cases h : x ∈ cells
    · simp only [h, if_true, reduceCtorEq, and_false, iff_false]
      exact fun listed => apart x h x listed rfl
    · rw [if_neg h, ← mem x, parts, List.mem_append]
      simp [h]
  · rw [owner, if_neg fun h => absurd (free x h).1 (by omega)]
    exact beyond x far
  · have owners : c.owners = (b.own d cells).owners :=
      Table.ext_get (wf' wf) (wf_own cells b d wf) fun x => (owner x).trans (owner_own cells b d x).symm
    have count : c.retiredCount = (b.own d cells).retiredCount := by
      unfold BufferManager.retiredCount
      rw [owners]
    rw [count, retiredCount_own d cells b wf fun x h => by rw [(free x h).2]; simp]

end BufferManager.KeepsCells

/-- With no cell owned or retired, the free cell list holds all (2.8). -/
theorem BufferManager.cellsSound_afterReset (mem : Memory) (ecc : Table Ecc) :
    (BufferManager.afterReset mem ecc).CellsSound := by
  have free : (BufferManager.afterReset mem ecc).freeCells.toList = List.range 16384 := Runs.toList_upTo 16384
  refine ⟨rfl, ?_, fun c => ?_, fun c _ => rfl⟩
  · rw [free]
    exact List.nodup_range
  · rw [free, List.mem_range]
    exact ⟨fun h => ⟨h, rfl⟩, fun h => h.1⟩

theorem BufferManager.cellsSound_tested (b : BufferManager) (failed : List Nat) (n : Nat) :
    (b.tested failed n).CellsSound := by
  have owner (c : Nat) : (b.tested failed n).owner c = if c < 16384 ∧ c ∈ failed then .retired else .free :=
    get_retiredCells c failed
  refine ⟨wf_retiredCells failed, ?_, fun c => ?_, fun c far => ?_⟩
  · rw [freeCells_tested]
    exact List.nodup_range.filter _
  · rw [freeCells_tested, List.mem_filter, List.mem_range, owner]
    by_cases cell : c < 16384 <;> simp [cell]
  · rw [owner, if_neg (by omega)]

namespace State.Stands

theorem cells {s t : State} (h : s.Stands t) : s.bm.KeepsCells t.bm := by
  have owners := congrArg BufferManager.owners h.pools
  have freeCells := congrArg BufferManager.freeCells h.pools
  exact .of_same owners freeCells

end State.Stands

/-! #### Releases -/

/-- The cells after an operation are those of the Buffer Manager it hands over. -/
theorem State.withPools_cells (s : State) {b : BufferManager} (h : s.bm.KeepsCells b) :
    s.bm.KeepsCells (s.withPools b).bm := h.trans (State.Stands.withPools s b).cells

theorem State.release_cells (s : State) (i d : Nat) (reason : Reason) :
    s.bm.KeepsCells (s.release i d reason).bm := by
  have walked := BufferManager.KeepsCells.releaseWalk s.bm d
  unfold State.release
  simp only
  split
  · exact .of_same (by simp) (by simp)
  · split
    case h_1 b e =>
      rw [e] at walked
      exact (s.withPools_cells walked).trans (.of_same (by simp) (by simp))
    case h_2 f b e =>
      rw [e] at walked
      exact (s.withPools_cells walked).trans (.of_same (by simp) (by simp))

theorem State.releases_cells (i : Nat) : ∀ (l : List (Nat × Reason)) (s : State), s.bm.KeepsCells (s.releases i l).bm
  | [], s => .refl s.bm
  | (d, reason) :: rest, s => (s.release_cells i d reason).trans (releases_cells i rest _)

/-- The head of a queue released. -/
theorem State.popRelease_cells (s : State) (i d : Nat) (reason : Reason) :
    s.bm.KeepsCells ((s.popQueue i).release i d reason).bm := (s.popQueue i).release_cells i d reason

theorem State.formRound_cells (i most : Nat) (limit : Int) (row : RateEntry) : ∀ (queue : List Nat)
    (frames : List GrantFrame) (sum : Nat) (s : State),
    s.bm.KeepsCells (State.formRound i most limit row queue frames sum s).2.2.bm
  | [], _, _, s => .refl s.bm
  | d :: rest, frames, sum, s => by
    rw [State.formRound]
    split
    · exact .refl s.bm
    · split
      · exact (s.popRelease_cells i d _).trans (formRound_cells i most limit row rest _ _ _)
      · simp only
        split
        · exact BufferManager.KeepsCells.trans .of_same (formRound_cells i most limit row rest _ _ (s.place i d))
        · exact .refl s.bm

theorem State.formPoll_cells (i : Nat) (row : RateEntry) : ∀ (queue : List Nat) (s : State),
    s.bm.KeepsCells (State.formPoll i row queue s).2.2.bm
  | [], s => .refl s.bm
  | d :: rest, s => by
    rw [State.formPoll]
    split
    · exact (s.popRelease_cells i d _).trans (formPoll_cells i row rest _)
    · exact .of_same

theorem State.issue_bm (s : State) (k i : Nat) (kind : GrantKind) (frames : List GrantFrame) (estimate : Nat) :
    (s.issue k i kind frames estimate).bm = s.bm := by
  unfold State.issue
  simp only
  split <;> simp

theorem State.form_cells (s : State) (c : Candidate) : s.bm.KeepsCells (s.form c).bm := by
  unfold State.form
  simp only
  split
  · have formed := State.formRound_cells c.station (s.liveClass (s.station c.station)).maxFrames
      (min (s.station c.station).deficit (s.liveClass (s.station c.station)).maxAirtime)
      (s.liveRate (s.station c.station)) (s.station c.station).queue [] 0 s
    split
    case h_1 e => rw [e] at formed; exact formed
    case h_2 e => rw [e] at formed; rw [State.issue_bm]; exact formed
  · rw [State.issue_bm, State.cancelPoll_bm]
    exact State.formPoll_cells c.station _ _ s

theorem State.sweepQueue_cells (i : Nat) : ∀ (queue : List Nat) (s : State),
    s.bm.KeepsCells (State.sweepQueue i queue s).bm
  | [], s => .refl s.bm
  | d :: rest, s => by
    rw [State.sweepQueue]
    split
    · exact (s.popRelease_cells i d .expired).trans (sweepQueue_cells i rest _)
    · exact .refl s.bm

theorem State.purgeHead_cells (s : State) (i : Nat) (reason : Reason) : s.bm.KeepsCells (s.purgeHead i reason).bm := by
  unfold State.purgeHead
  split
  · exact .refl s.bm
  · rw [State.relist_bm]
    exact s.popRelease_cells i _ reason

theorem State.takeDone_cells (s : State) (m : DoneMsg) : s.bm.KeepsCells (s.takeDone m).bm := by
  have valid (k : Nat) (g : Grant) (outcomes : List FrameOutcome) : s.bm.KeepsCells (s.validDone k g m outcomes).bm := by
    unfold State.validDone
    simp only
    rw [State.closeSlot_bm]
    have settled := ((State.Stands.refl s).settleFeedClaims g.station).cells
    exact settled.trans (.trans (.of_same (by simp) (by simp)) (State.releases_cells g.station _ _))
  unfold State.takeDone
  split
  · exact .of_same
  · split
    · exact .of_same
    · split
      · exact .of_same
      · split
        · exact .of_same
        · exact valid _ _ _

theorem State.timeout_cells (s : State) (k : Nat) (g : Grant) : s.bm.KeepsCells (s.timeout k g).bm := by
  unfold State.timeout
  simp only
  rw [State.closeSlot_bm]
  exact BufferManager.KeepsCells.trans .of_same (State.releases_cells g.station _ _)

/-! #### Admission -/

/-- The state after the frame `e` has been written into the cells of descriptor `d` (R47). -/
def State.written (s : State) (d : Nat) (e : IngressEntry) : State :=
  { s with bm := s.bm.store (s.desc d).segs e.bytes }

theorem State.stands_written (s : State) (d : Nat) (e : IngressEntry) : s.Stands (s.written d e) := {}

theorem State.countRefusal_bm (s : State) (e : IngressEntry) : (s.countRefusal e).bm = s.bm := by
  rw [State.countRefusal_eq]

theorem State.refuse_cells (s : State) (e : IngressEntry) (reason : Reason) : s.bm.KeepsCells (s.refuse e reason).bm := by
  unfold State.refuse
  split
  · exact .refl s.bm
  case h_2 d b claimed =>
    obtain ⟨_, form⟩ := BufferManager.claimToRefuse_some claimed
    have taken : s.bm.KeepsCells (b.setDesc d (refusedDesc e reason)) :=
      .of_same (by rw [BufferManager.setDesc_owners, form]) (by rw [BufferManager.setDesc_freeCells, form])
    show s.bm.KeepsCells (State.countRefusal _ e).bm
    rw [State.countRefusal_bm]
    exact s.withPools_cells taken

theorem State.decideAdmission_cells (s : State) (e : IngressEntry) : s.bm.KeepsCells (s.decideAdmission e).bm := by
  unfold State.decideAdmission
  split
  · exact s.refuse_cells e _
  · split
    · exact s.refuse_cells e .noBuffer
    case h_2 d cells b claimed =>
      exact s.withPools_cells (BufferManager.KeepsCells.trans (.claimToQueue claimed) .of_same)

theorem State.enqueue_cells (s : State) (e : IngressEntry) (d : Nat) : s.bm.KeepsCells (s.enqueue e d).bm := by
  unfold State.enqueue
  rw [State.admissionEnds_bm, State.change_bm]
  exact .of_same

theorem State.refuseLate_cells (s : State) (e : IngressEntry) (d : Nat) (reason : Reason) :
    s.bm.KeepsCells (s.refuseLate e d reason).bm := by
  have freed : s.bm.KeepsCells ((s.bm.giveBack d (s.desc d).segs).setDesc d (refusedDesc e reason)) :=
    BufferManager.KeepsCells.trans (.giveBack d _ s.bm) .of_same
  show s.bm.KeepsCells (State.countRefusal _ e).bm
  rw [State.countRefusal_bm]
  exact s.withPools_cells freed

/-! #### Every command, and every step -/

/-- Whatever state the outcome `o` of a command on `s` names, it keeps the cells. -/
def State.CellsBy (s : State) (o : Host.Outcome State Fault Refusal) : Prop := ∀ t, o = .next t → s.bm.KeepsCells t.bm

theorem BufferManager.KeepsCells.next {s t : State} (h : s.bm.KeepsCells t.bm) : s.CellsBy (.next t) := by
  rintro _ ⟨⟩
  exact h

theorem execAdmissionDecision_cells (s : State) : s.CellsBy (execAdmissionDecision s) := by
  refine .next ?_
  split
  · exact s.decideAdmission_cells _
  · exact .refl s.bm

theorem execAdmissionRetry_cells (s : State) : s.CellsBy (execAdmissionRetry s) := by
  refine .next ?_
  split
  · split
    · exact .refl s.bm
    · exact s.decideAdmission_cells _
  · exact .refl s.bm

theorem execAppend_cells (s : State) : s.CellsBy (execAppend s) := by
  refine .next ?_
  split
  case h_1 d e _ _ _ =>
    have written := (s.stands_written d e).cells
    simp only
    split
    · exact written.trans ((s.written d e).enqueue_cells e d)
    · exact written.trans ((s.written d e).refuseLate_cells e d _)
  case h_2 => exact .refl s.bm

theorem execDisposalMessageSent_cells (s : State) : s.CellsBy (execDisposalMessageSent s) := by
  refine .next ?_
  split
  case h_1 records _ =>
    have form := BufferManager.returnDescs_eq (s.disposal.take records.length) s.bm
    have returned : s.bm.KeepsCells (s.bm.returnDescs (s.disposal.take records.length)) :=
      .of_same (by rw [form]) (by rw [form])
    exact State.withPools_cells { s with tx := { s.tx with line := none }, disposal := s.disposal.drop records.length }
      returned
  case h_2 => exact .refl s.bm

theorem execDone_cells (frame : List Byte) (s : State) : s.CellsBy (execDone frame s) := by
  refine .next ?_
  split
  · exact .refl s.bm
  · exact s.takeDone_cells _

theorem execGrantTimeout_cells (k : Nat) (s : State) : s.CellsBy (execGrantTimeout k s) := by
  refine .next ?_
  split
  · exact .refl s.bm
  · split
    · exact .refl s.bm
    · split
      · exact s.timeout_cells k _
      · exact .refl s.bm

theorem execGrantFormation_cells (s : State) : s.CellsBy (execGrantFormation s) := by
  refine .next ?_
  split
  · exact .refl s.bm
  · simp only
    split_ifs
    · exact (s.setCandidate none).form_cells _
    · exact (((State.Stands.refl s).setCandidate none).joinList _ false).cells
    · exact .of_same

theorem execFeedFault_cells (n : Nat) (cell : Option Nat) (s : State) : s.CellsBy (execFeedFault n cell s) := by
  have marked (t : State) (i : Nat) (fr : GrantFrame) (read : Descriptor) (f : WalkFault) :
      t.bm.KeepsCells (t.markFault i fr read f).bm := by
    unfold State.markFault
    simp only
    split <;> exact .of_same
  refine .next ?_
  split
  · exact .refl s.bm
  · split
    · split
      · exact BufferManager.KeepsCells.trans .of_same (marked _ _ _ _ _)
      · exact .refl s.bm
    · exact .refl s.bm

theorem execReclaimScanStart_cells (s : State) : s.CellsBy (execReclaimScanStart s) := by
  refine .next ?_
  split
  · simp only
    split <;> exact .of_same
  · exact .refl s.bm

theorem execReclaimScanVisit_cells (s : State) : s.CellsBy (execReclaimScanVisit s) := by
  refine .next ?_
  split
  · exact .refl s.bm
  case h_2 sc _ =>
    have visited : s.bm.KeepsCells (if s.bm.owner sc.next = .desc sc.desc then s.bm.retireCell sc.next else s.bm) := by
      split
      case isTrue own => exact .retireCell own
      case isFalse => exact .refl s.bm
    split
    · exact s.withPools_cells (visited.trans .of_same)
    · exact .refl s.bm

theorem execReclaimScanEnd_cells (s : State) : s.CellsBy (execReclaimScanEnd s) := by
  refine .next ?_
  split
  · exact .refl s.bm
  · split
    · exact .of_same
    · exact .refl s.bm

theorem execSweepVisit_cells (s : State) : s.CellsBy (execSweepVisit s) := by
  refine .next ?_
  split
  · exact .refl s.bm
  case h_2 i _ =>
    show s.bm.KeepsCells (s.sweepStation i).bm
    rw [State.sweepStation, State.relist_bm]
    exact State.sweepQueue_cells i _ s

theorem execPurgeStep_cells (s : State) : s.CellsBy (execPurgeStep s) := by
  refine .next ?_
  split
  · exact .refl s.bm
  case h_2 e _ _ =>
    have released := s.purgeHead_cells e.station e.purpose.reason
    simp only
    split
    · exact released.trans (State.Stands.purgeEntryLeaves (.refl _) e.station).cells
    · exact released

/-- The commands that end with every cell free that is not RETIRED by the test just made (R34, R188, R189). -/
def Instr.Resets (c : Instr) : Prop := c = .softReset ∨ (∃ b, c = .powerOnReset b) ∨ ∃ l, c = .selfTest l

theorem exec_cells (c : Instr) (s : State) (keeps : ¬ Instr.Resets c) : s.CellsBy (exec c s) := by
  by_cases moves : Instr.MovesFrames c
  · cases c with
    | powerOnReset b => exact absurd (.inr (.inl ⟨b, rfl⟩)) keeps
    | selfTest failed => exact absurd (.inr (.inr ⟨failed, rfl⟩)) keeps
    | softReset => exact absurd (.inl rfl) keeps
    | admissionDecision => exact execAdmissionDecision_cells s
    | admissionRetry => exact execAdmissionRetry_cells s
    | append => exact execAppend_cells s
    | disposalMessageSent => exact execDisposalMessageSent_cells s
    | done frame => exact execDone_cells frame s
    | grantTimeout k => exact execGrantTimeout_cells k s
    | grantFormation => exact execGrantFormation_cells s
    | feedFault n cell => exact execFeedFault_cells n cell s
    | reclaimScanStart => exact execReclaimScanStart_cells s
    | reclaimScanVisit => exact execReclaimScanVisit_cells s
    | reclaimScanEnd => exact execReclaimScanEnd_cells s
    | sweepVisit => exact execSweepVisit_cells s
    | purgeStep => exact execPurgeStep_cells s
    | _ => exact moves.elim
  · exact fun t h => (exec_stands c s moves t h).cells

/-- After a reset that is taken the cells are sound whatever they were, and one that is not taken changes nothing. -/
theorem exec_reset_cells {c : Instr} (resets : Instr.Resets c) {s t : State} (sound : s.bm.CellsSound)
    (h : exec c s = .next t) : t.bm.CellsSound := by
  rcases resets with rfl | ⟨b, rfl⟩ | ⟨failed, rfl⟩
  · cases h
    split
    · exact BufferManager.cellsSound_afterReset _ _
    · exact sound
  · cases h
    split <;> exact BufferManager.cellsSound_afterReset _ _
  · cases h
    split
    · exact BufferManager.cellsSound_tested _ _ _
    · exact sound

theorem State.tick_cells (s : State) : s.bm.KeepsCells s.tick.bm := by
  have damaged (b : BufferManager) (x : Option (Nat × Config.Damage)) : b.KeepsCells (b.damage x) := by
    unfold BufferManager.damage
    split
    · exact .refl b
    · simp only
      split
      · exact .of_same
      · exact .refl b
  have worded (b : BufferManager) (x : Option (Nat × Ecc)) : b.KeepsCells (b.damageWord x) := by
    unfold BufferManager.damageWord
    split
    · exact .refl b
    · split
      · exact .of_same
      · exact .refl b
  unfold State.tick
  split
  · exact .refl s.bm
  · exact (damaged _ _).trans (worded _ _)

/-- Settles O57: a cell is freed or retired only when a descriptor owns it, and taken only from the head of the free cell
list; a reset begins with every cell free. -/
theorem stepKeepsCellLaw : Obligations.StepKeepsCellLaw := by
  rintro s t ⟨_, _, _, wf, _⟩ law h
  have sound : s.bm.CellsSound := ⟨wf, law⟩
  unfold step at h
  split at h
  case h_1 =>
    cases h
    obtain ⟨⟨_, kept⟩, le⟩ := s.tick_cells sound
    exact ⟨kept, fun _ => le⟩
  case h_2 c rest front =>
    by_cases resets : Instr.Resets c
    · refine ⟨(exec_reset_cells (s := { s with pending := rest }) resets sound h).2, fun others => ?_⟩
      obtain ⟨soft, power, test⟩ := others c (by rw [front]; rfl)
      rcases resets with same | ⟨b, same⟩ | ⟨failed, same⟩
      · exact absurd same soft
      · exact absurd same (power b)
      · exact absurd same (test failed)
    · obtain ⟨⟨_, kept⟩, le⟩ := exec_cells c { s with pending := rest } resets t h sound
      exact ⟨kept, fun _ => le⟩

/-! ### What a step keeps: law L1 (R18)

A step takes descriptors from one collection into its hands and puts them into another. `State.Places s closing hand` says
that law L1 holds of `s` but for the descriptors in `hand`, which are in no collection. The collection `closing`, if any,
is one that the step empties at its end: its descriptors are in hand although it still names them. With no collection
closing and nothing in hand it is law L1. -/

/-- The collections that hold descriptors. -/
inductive Holder where
  | free | ingress | queue (i : Nat) | slot (k : Nat) | reclaim | disposal
  deriving DecidableEq

/-- The place of the descriptors that a collection holds (R17). -/
def Holder.place : Holder → Place
  | .free => .free
  | .ingress => .ingress
  | .queue _ => .queued
  | .slot _ => .inGrant
  | .reclaim => .reclaim
  | .disposal => .disposal

/-- The descriptor the Admission Unit is writing. -/
def Admission.held : Admission → List Nat
  | .writing d => [d]
  | .idle | .waiting => []

/-- The descriptors of the frames in a slot; none when it is FREE. -/
def State.slotFrames (s : State) (k : Nat) : List Nat :=
  (((s.slot k).map Grant.frames).getD []).map GrantFrame.desc

/-- The descriptors a collection names. -/
def State.names (s : State) : Holder → List Nat
  | .free => s.bm.freeDescs.toList
  | .ingress => s.adm.held
  | .queue i => (s.station i).queue
  | .slot k => s.slotFrames k
  | .reclaim => s.bm.reclaim
  | .disposal => s.disposal

/-- The descriptors a collection holds: those it names, and none if it is closing. -/
def State.holds (s : State) (closing : Option Holder) (l : Holder) : List Nat :=
  if closing = some l then [] else s.names l

/-- The Reclaim Scan under way is that of the head of the Reclaim Queue (R32). -/
def State.ScansHead (s : State) : Prop := ∀ sc, s.bm.scan = some sc → s.bm.reclaim.head? = some sc.desc

/-- `at_` tells of each descriptor of the pool the one collection that holds it, or none for those in hand. -/
structure State.Located (s : State) (closing : Option Holder) (hand : List Nat) (at_ : Nat → Option Holder) : Prop where
  beyond : ∀ d, 8192 ≤ d → s.desc d = Descriptor.cleared
  place : ∀ d l, d < 8192 → at_ d = some l → (s.desc d).place = l.place
  nodup : ∀ l, (s.holds closing l).Nodup
  held : ∀ l d, d ∈ s.holds closing l ↔ d < 8192 ∧ at_ d = some l
  distinct : hand.Nodup
  hand : ∀ d, d ∈ hand ↔ d < 8192 ∧ at_ d = none

/-- The invariant behind law L1, with `closing` a collection under way to be emptied and `hand` the descriptors on their way
from one collection to another: the records, the scan, and the one collection of each descriptor. -/
structure State.Places (s : State) (closing : Option Holder) (hand : List Nat) : Prop where
  records : s.Records
  descs : Table.wf Descriptor.cleared s.bm.descs = true
  scan : s.ScansHead
  located : ∃ at_, s.Located closing hand at_

/-! #### Law L1 and the collections -/

theorem Admission.mem_held {a : Admission} {d : Nat} : d ∈ a.held ↔ a = .writing d := by
  cases a with
  | writing e =>
    simp only [Admission.held, List.mem_singleton, Admission.writing.injEq]
    exact eq_comm
  | idle => simp [Admission.held]
  | waiting => simp [Admission.held]

theorem State.slotFrames_some {s : State} {k : Nat} {g : Grant} (h : s.slot k = some g) :
    s.slotFrames k = g.frames.map GrantFrame.desc := by simp [State.slotFrames, h]

theorem State.mem_slotFrames {s : State} {k d : Nat} :
    d ∈ s.slotFrames k ↔ ∃ g, s.slot k = some g ∧ d ∈ g.frames.map GrantFrame.desc := by
  cases h : s.slot k with
  | none => simp [State.slotFrames, h]
  | some g => simp [State.slotFrames, h]

/-- Law L1 says of each descriptor which one collection holds it. -/
theorem State.PlaceLaw.places {s : State} (law : s.PlaceLaw) (records : s.Records)
    (descs : Table.wf Descriptor.cleared s.bm.descs = true) : s.Places none [] := by
  obtain ⟨beyond, ⟨freeNodup, free⟩, ingress, queueNodup, queueOnce, queued, slotNodup, slotOnce, inGrant,
    ⟨reclaimNodup, reclaim⟩, ⟨disposalNodup, disposal⟩, scan⟩ := law
  have pool {d : Nat} (h : (s.desc d).place ≠ .free) : d < 8192 := by
    by_contra far
    exact h (by rw [beyond d (by omega)]; rfl)
  have nodup (l : Holder) : (s.holds none l).Nodup := by
    cases l with
    | free => exact freeNodup
    | ingress =>
      show s.adm.held.Nodup
      cases s.adm <;> simp [Admission.held]
    | queue i => exact queueNodup i
    | slot k =>
      show (s.slotFrames k).Nodup
      cases h : s.slot k with
      | none => simp [State.slotFrames, h]
      | some g => rw [State.slotFrames_some h]; exact slotNodup k g h
    | reclaim => exact reclaimNodup
    | disposal => exact disposalNodup
  have place {l : Holder} {d : Nat} (h : d ∈ s.holds none l) : d < 8192 ∧ (s.desc d).place = l.place := by
    cases l with
    | free => exact (free d).1 h
    | ingress =>
      have is := (ingress d).1 (Admission.mem_held.1 h)
      exact ⟨pool (by simp [is]), is⟩
    | queue i =>
      have is := (queued d).1 ⟨i, h⟩
      exact ⟨pool (by simp [is]), is⟩
    | slot k =>
      have is := (inGrant d).1 ⟨k, State.mem_slotFrames.1 h⟩
      exact ⟨pool (by simp [is]), is⟩
    | reclaim =>
      have is := (reclaim d).1 h
      exact ⟨pool (by simp [is]), is⟩
    | disposal =>
      have is := (disposal d).1 h
      exact ⟨pool (by simp [is]), is⟩
  have somewhere (d : Nat) : ∃ l, d < 8192 → d ∈ s.holds none l := by
    cases is : (s.desc d).place with
    | free => exact ⟨.free, fun below => (free d).2 ⟨below, is⟩⟩
    | ingress => exact ⟨.ingress, fun _ => Admission.mem_held.2 ((ingress d).2 is)⟩
    | queued =>
      obtain ⟨i, h⟩ := (queued d).2 is
      exact ⟨.queue i, fun _ => h⟩
    | inGrant =>
      obtain ⟨k, h⟩ := (inGrant d).2 is
      exact ⟨.slot k, fun _ => State.mem_slotFrames.2 h⟩
    | reclaim => exact ⟨.reclaim, fun _ => (reclaim d).2 is⟩
    | disposal => exact ⟨.disposal, fun _ => (disposal d).2 is⟩
  have once {l m : Holder} {d : Nat} (h : d ∈ s.holds none l) (g : d ∈ s.holds none m) : l = m := by
    have same : l.place = m.place := (place h).2.symm.trans (place g).2
    cases l <;> cases m <;> simp only [Holder.place, reduceCtorEq] at same <;> try rfl
    case queue i j => rw [queueOnce i j d h g]
    case slot k l =>
      obtain ⟨a, hk, ha⟩ := State.mem_slotFrames.1 h
      obtain ⟨b, hl, hb⟩ := State.mem_slotFrames.1 g
      rw [slotOnce k l a b d hk hl ha hb]
  choose holder mem using somewhere
  refine ⟨records, descs, scan, fun d => some (holder d), beyond, ?_, nodup, fun l d => ⟨fun h => ?_, ?_⟩, List.nodup_nil, ?_⟩
  · rintro d _ below ⟨⟩
    exact (place (mem d below)).2
  · exact ⟨(place h).1, congrArg some (once (mem d (place h).1) h)⟩
  · rintro ⟨below, ⟨⟩⟩
    exact mem d below
  · simp

theorem State.Places.placeLaw {s : State} (h : s.Places none []) : s.PlaceLaw := by
  obtain ⟨_, _, scan, at_, beyond, place, nodup, held, _, hand⟩ := h
  have once {l m : Holder} {d : Nat} (h : d ∈ s.holds none l) (g : d ∈ s.holds none m) : l = m := by
    have same := ((held l d).1 h).2.symm.trans ((held m d).1 g).2
    exact Option.some.inj same
  have placed {l : Holder} {d : Nat} (h : d ∈ s.holds none l) : (s.desc d).place = l.place :=
    place d l ((held l d).1 h).1 ((held l d).1 h).2
  have pool {d : Nat} (h : (s.desc d).place ≠ .free) : d < 8192 := by
    by_contra far
    exact h (by rw [beyond d (by omega)]; rfl)
  have holder {d : Nat} {p : Place} (is : (s.desc d).place = p) (below : d < 8192) :
      ∃ l, d ∈ s.holds none l ∧ l.place = p := by
    cases loc : at_ d with
    | none => exact absurd ((hand d).2 ⟨below, loc⟩) List.not_mem_nil
    | some l => exact ⟨l, (held l d).2 ⟨below, loc⟩, (place d l below loc).symm.trans is⟩
  have holderOf {d : Nat} {p : Place} (is : (s.desc d).place = p) (busy : p ≠ .free) := holder is (pool (is ▸ busy))
  have slotHolds (k : Nat) : s.holds none (.slot k) = s.slotFrames k := rfl
  have inSlot {k d : Nat} {g : Grant} (h : s.slot k = some g) (mem : d ∈ g.frames.map GrantFrame.desc) :
      d ∈ s.holds none (.slot k) := by
    rw [slotHolds, State.slotFrames_some h]
    exact mem
  refine ⟨beyond, ⟨nodup .free, fun d => ⟨fun h => ⟨((held .free d).1 h).1, placed (l := .free) h⟩, fun ⟨below, is⟩ => ?_⟩⟩,
    fun d => ⟨fun h => placed (l := .ingress) (Admission.mem_held.2 h), fun is => ?_⟩, fun i => nodup (.queue i),
    fun i j d h g => ?_, fun d => ⟨fun ⟨i, h⟩ => placed (l := .queue i) h, fun is => ?_⟩, fun k g h => ?_,
    fun k l g g' d hk hl mem mem' => ?_, fun d => ⟨fun ⟨k, g, hk, mem⟩ => placed (inSlot hk mem), fun is => ?_⟩,
    ⟨nodup .reclaim, fun d => ⟨fun h => placed (l := .reclaim) h, fun is => ?_⟩⟩,
    ⟨nodup .disposal, fun d => ⟨fun h => placed (l := .disposal) h, fun is => ?_⟩⟩, scan⟩
  · obtain ⟨l, mem, same⟩ := holder is below
    cases l <;> cases same
    exact mem
  · obtain ⟨l, mem, same⟩ := holderOf is nofun
    cases l <;> cases same
    exact Admission.mem_held.1 mem
  · cases once (l := .queue i) (m := .queue j) h g
    rfl
  · obtain ⟨l, mem, same⟩ := holderOf is nofun
    cases l <;> cases same
    exact ⟨_, mem⟩
  · have distinct := nodup (.slot k)
    rw [slotHolds, State.slotFrames_some h] at distinct
    exact distinct
  · cases once (inSlot hk mem) (inSlot hl mem')
    rfl
  · obtain ⟨l, mem, same⟩ := holderOf is nofun
    cases l <;> cases same
    rw [slotHolds] at mem
    exact ⟨_, State.mem_slotFrames.1 mem⟩
  · obtain ⟨l, mem, same⟩ := holderOf is nofun
    cases l <;> cases same
    exact mem
  · obtain ⟨l, mem, same⟩ := holderOf is nofun
    cases l <;> cases same
    exact mem

theorem State.holds_congr {s t : State} {c : Option Holder} {l : Holder} (h : t.names l = s.names l) :
    t.holds c l = s.holds c l := by
  unfold State.holds
  rw [h]

/-! #### Taking, putting, and leaving descriptors where they are -/

/-- A record that is FREE only with an empty queue. -/
theorem State.Records.setStation {s : State} (h : s.Records) (i : Nat) {r : Station}
    (empty : r.admin = .free → r.queue = []) : (s.setStation i r).Records := by
  refine ⟨Table.wf_set h.stations i r, h.slots, fun j => ?_⟩
  rw [State.station_setStation h.stations]
  split
  · exact empty
  · exact h.empty j

/-- The Records of a state that reads the same records and slots. -/
theorem State.Records.of_same {s t : State} (h : s.Records) (stations : t.stations = s.stations := by exact rfl)
    (slots : t.sched.slots = s.sched.slots := by exact rfl) : t.Records :=
  ⟨stations ▸ h.stations, slots ▸ h.slots, fun i => by rw [State.station_congr stations]; exact h.empty i⟩

namespace State.Places
variable {s t : State} {c c' : Option Holder} {hand : List Nat}

/-- A descriptor that a collection holds, or that is in hand, is one of the 8,192. -/
theorem lt_of_holds (h : s.Places c hand) {l : Holder} {d : Nat} (mem : d ∈ s.holds c l) : d < 8192 := by
  obtain ⟨at_, located⟩ := h.located
  exact ((located.held l d).1 mem).1

theorem place_of_holds (h : s.Places c hand) {l : Holder} {d : Nat} (mem : d ∈ s.holds c l) :
    (s.desc d).place = l.place := by
  obtain ⟨at_, located⟩ := h.located
  obtain ⟨below, is⟩ := (located.held l d).1 mem
  exact located.place d l below is

theorem lt_of_hand (h : s.Places c hand) {d : Nat} (mem : d ∈ hand) : d < 8192 := by
  obtain ⟨at_, located⟩ := h.located
  exact ((located.hand d).1 mem).1

theorem hand_nodup (h : s.Places c hand) : hand.Nodup := by
  obtain ⟨at_, located⟩ := h.located
  exact located.distinct

theorem holds_nodup (h : s.Places c hand) (l : Holder) : (s.holds c l).Nodup := by
  obtain ⟨at_, located⟩ := h.located
  exact located.nodup l

theorem perm (h : s.Places c hand) {hand' : List Nat} (same : hand.Perm hand') : s.Places c hand' := by
  obtain ⟨records, descs, scan, at_, located⟩ := h
  exact ⟨records, descs, scan, at_,
    { located with
      distinct := same.nodup_iff.1 located.distinct
      hand := fun d => same.mem_iff.symm.trans (located.hand d) }⟩

/-- Nothing moves: the places of the descriptors in hand alone may change, and so may the slot that is being freed. -/
theorem same (h : s.Places c hand) (records : t.Records) (descs : Table.wf Descriptor.cleared t.bm.descs = true)
    (scan : t.ScansHead) (holds : ∀ l, t.holds c' l = s.holds c l)
    (place : ∀ d, d ∉ hand → (t.desc d).place = (s.desc d).place) (beyond : ∀ d, 8192 ≤ d → t.desc d = s.desc d) :
    t.Places c' hand := by
  obtain ⟨at_, located⟩ := h.located
  refine ⟨records, descs, scan, at_, ?_, ?_, ?_, ?_, located.distinct, located.hand⟩
  · exact fun d far => (beyond d far).trans (located.beyond d far)
  · intro d l below is
    have out : d ∉ hand := fun mem => by
      rw [((located.hand d).1 mem).2] at is
      cases is
    exact (place d out).trans (located.place d l below is)
  · exact fun l => (holds l).symm ▸ located.nodup l
  · exact fun l d => (holds l).symm ▸ located.held l d

theorem stands (h : s.Places c hand) (g : s.Stands t) : t.Places c hand := by
  have ⟨records, queue⟩ := g.records h.records
  have descs : t.bm.descs = s.bm.descs := by
    have e := congrArg BufferManager.descs g.pools
    exact e
  have freeDescs : t.bm.freeDescs = s.bm.freeDescs := by
    have e := congrArg BufferManager.freeDescs g.pools
    exact e
  have reclaim : t.bm.reclaim = s.bm.reclaim := by
    have e := congrArg BufferManager.reclaim g.pools
    exact e
  have scan : t.bm.scan = s.bm.scan := by
    have e := congrArg BufferManager.scan g.pools
    exact e
  refine h.same records (descs ▸ h.descs) ?_ (fun l => ?_) (fun d _ => by rw [State.desc_congr descs])
    fun d _ => State.desc_congr descs d
  · unfold State.ScansHead
    rw [scan, reclaim]
    exact h.scan
  · refine State.holds_congr ?_
    cases l with
    | free => exact congrArg Runs.toList freeDescs
    | ingress => exact congrArg Admission.held g.adm
    | queue i => exact queue i
    | slot k => simp only [State.names, State.slotFrames, g.frames k]
    | reclaim => exact reclaim
    | disposal => exact g.disposal

/-- Descriptors leave a collection for the hand, by what each collection holds. -/
theorem take_holds (h : s.Places c hand) (l : Holder) {ds : List Nat} (records : t.Records) (descs : t.bm.descs = s.bm.descs)
    (scan : t.ScansHead) (parts : (s.holds c l).Perm (ds ++ t.holds c' l))
    (others : ∀ m, m ≠ l → t.holds c' m = s.holds c m) : t.Places c' (ds ++ hand) := by
  obtain ⟨at_, located⟩ := h.located
  obtain ⟨taken, left, apart⟩ := List.nodup_append.1 (parts.nodup_iff.1 (located.nodup l))
  have was {d : Nat} (mem : d ∈ ds) : d < 8192 ∧ at_ d = some l :=
    (located.held l d).1 (parts.mem_iff.2 (List.mem_append_left _ mem))
  refine ⟨records, descs ▸ h.descs, scan, fun d => if d ∈ ds then none else at_ d, ?_, ?_, ?_, ?_, ?_, ?_⟩
  · exact fun d far => (State.desc_congr descs d).trans (located.beyond d far)
  · intro d m below is
    split_ifs at is
    rw [State.desc_congr descs]
    exact located.place d m below is
  · intro m
    by_cases same : m = l
    · rw [same]; exact left
    · rw [others m same]; exact located.nodup m
  · intro m d
    by_cases same : m = l
    · have split : d ∈ ds ∨ d ∈ t.holds c' l ↔ d < 8192 ∧ at_ d = some l := by
        rw [← List.mem_append, ← parts.mem_iff]
        exact located.held l d
      rw [same]
      by_cases mem : d ∈ ds
      · simp only [mem, if_true, reduceCtorEq, and_false, iff_false]
        exact fun stays => apart d mem d stays rfl
      · simpa [mem] using split
    · rw [others m same, located.held m d]
      by_cases mem : d ∈ ds
      · simp [mem, (was mem).2, Ne.symm same]
      · simp [mem]
  · refine List.nodup_append.2 ⟨taken, located.distinct, ?_⟩
    rintro d mem _ inHand rfl
    have := (was mem).2.symm.trans ((located.hand d).1 inHand).2
    cases this
  · intro d
    rw [List.mem_append, located.hand d]
    by_cases mem : d ∈ ds
    · simp [mem, (was mem).1]
    · simp [mem]

theorem holds_open {l : Holder} (isOpen : c ≠ some l) : s.holds c l = s.names l := if_neg isOpen

/-- Descriptors are taken from a collection into hand. -/
theorem take (h : s.Places c hand) (l : Holder) {ds : List Nat} (isOpen : c ≠ some l) (records : t.Records)
    (descs : t.bm.descs = s.bm.descs) (scan : t.ScansHead) (parts : (s.names l).Perm (ds ++ t.names l))
    (others : ∀ m, m ≠ l → t.names m = s.names m) : t.Places c (ds ++ hand) :=
  h.take_holds l records descs scan (by rw [holds_open isOpen, holds_open isOpen]; exact parts)
    fun m ne => State.holds_congr (others m ne)

/-- All that a collection names is taken into hand; it is emptied at the end of the step. -/
theorem empty (h : s.Places none hand) (l : Holder) : s.Places (some l) (s.names l ++ hand) :=
  h.take_holds l h.records rfl h.scan (by simp [State.holds]) fun m ne => by simp [State.holds, Ne.symm ne]

/-- The closing collection names nothing at the end of the step. -/
theorem close {l : Holder} (h : s.Places (some l) hand) (records : t.Records) (descs : t.bm.descs = s.bm.descs)
    (scan : t.ScansHead) (emptied : t.names l = []) (others : ∀ m, m ≠ l → t.names m = s.names m) :
    t.Places none hand := by
  refine h.same records (descs ▸ h.descs) scan (fun m => ?_) (fun d _ => by rw [State.desc_congr descs])
    fun d _ => State.desc_congr descs d
  by_cases ne : m = l
  · simp [State.holds, ne, emptied]
  · simp [State.holds, others m ne, Ne.symm ne]

/-- Descriptors in hand are put into a collection, whose place they take. -/
theorem put (h : s.Places c hand) (l : Holder) {ds rest : List Nat} (isOpen : c ≠ some l)
    (parts : hand.Perm (ds ++ rest)) (records : t.Records) (descs : Table.wf Descriptor.cleared t.bm.descs = true)
    (scan : t.ScansHead) (names : (t.names l).Perm (ds ++ s.names l)) (rests : ∀ m, m ≠ l → t.names m = s.names m)
    (place : ∀ d ∈ ds, (t.desc d).place = l.place) (keep : ∀ d, d ∉ ds → t.desc d = s.desc d) : t.Places c rest := by
  have into : (t.holds c l).Perm (ds ++ s.holds c l) := by
    rw [holds_open isOpen, holds_open isOpen]
    exact names
  have others (m : Holder) (ne : m ≠ l) : t.holds c m = s.holds c m := State.holds_congr (rests m ne)
  obtain ⟨at_, located⟩ := h.located
  obtain ⟨given, left, apart⟩ := List.nodup_append.1 (parts.nodup_iff.1 located.distinct)
  have was {d : Nat} (mem : d ∈ ds) : d < 8192 ∧ at_ d = none :=
    (located.hand d).1 (parts.mem_iff.2 (List.mem_append_left _ mem))
  refine ⟨records, descs, scan, fun d => if d ∈ ds then some l else at_ d, ?_, ?_, ?_, ?_, left, ?_⟩
  · intro d far
    rw [keep d fun mem => absurd (was mem).1 (by omega)]
    exact located.beyond d far
  · intro d m below is
    split_ifs at is with mem
    · cases is
      exact place d mem
    · rw [keep d mem]
      exact located.place d m below is
  · intro m
    by_cases same : m = l
    · rw [same]
      refine into.nodup_iff.2 (List.nodup_append.2 ⟨given, located.nodup l, ?_⟩)
      rintro d mem _ held rfl
      have := (was mem).2.symm.trans ((located.held l d).1 held).2
      cases this
    · rw [others m same]; exact located.nodup m
  · intro m d
    by_cases same : m = l
    · rw [same, into.mem_iff, List.mem_append, located.held l d]
      by_cases mem : d ∈ ds
      · simp [mem, (was mem).1]
      · simp [mem]
    · rw [others m same, located.held m d]
      by_cases mem : d ∈ ds
      · simp [mem, (was mem).2, Ne.symm same]
      · simp [mem]
  · intro d
    have split : d ∈ ds ∨ d ∈ rest ↔ d < 8192 ∧ at_ d = none := by
      rw [← List.mem_append, ← parts.mem_iff]
      exact located.hand d
    by_cases mem : d ∈ ds
    · simp only [mem, if_true, reduceCtorEq, and_false, iff_false]
      exact fun stays => apart d mem d stays rfl
    · simpa [mem] using split

end State.Places

/-! #### The operations that move descriptors -/

theorem State.slotFrames_congr {s t : State} (h : t.sched.slots = s.sched.slots) (k : Nat) :
    t.slotFrames k = s.slotFrames k := by
  unfold State.slotFrames
  rw [State.slot_congr h]

/-- A release changes neither the queue nor the admin state of a record. -/
theorem State.record_release (s : State) (i d : Nat) (reason : Reason) (j : Nat) :
    ((s.release i d reason).station j).queue = (s.station j).queue
      ∧ ((s.release i d reason).station j).admin = (s.station j).admin := by
  by_cases same : j = i
  · rw [same, State.station_release]
    exact ⟨rfl, rfl⟩
  · rw [State.station_release_ne _ _ _ same]
    exact ⟨rfl, rfl⟩

namespace State.Places
variable {s t : State} {c : Option Holder} {hand : List Nat} {i d : Nat} {rest : List Nat}

/-- A descriptor in hand may be written. -/
theorem setDesc (h : s.Places c hand) (mem : d ∈ hand) (x : Descriptor) : (s.setDesc d x).Places c hand := by
  have ne {e : Nat} (out : e ∉ hand) : e ≠ d := fun same => out (same ▸ mem)
  refine h.same (h.records.of_same) (Table.wf_set h.descs d x) h.scan (fun l => State.holds_congr ?_)
    (fun e out => by rw [State.desc_setDesc_ne _ _ (ne out)]) fun e far => ?_
  · cases l <;> rfl
  · have below := h.lt_of_hand mem
    exact State.desc_setDesc_ne _ _ (by omega)

/-- The head of a queue is taken. -/
theorem popQueue (h : s.Places c hand) (isOpen : c ≠ some (.queue i)) (queue : (s.station i).queue = d :: rest) :
    (s.popQueue i).Places c (d :: hand) := by
  have records : (s.popQueue i).Records := h.records.setStation i fun free => by
    show (s.station i).queue.drop 1 = []
    rw [h.records.empty i free]
    rfl
  have reads := State.station_setStation h.records.stations i
  refine h.take (.queue i) (ds := [d]) isOpen records rfl h.scan ?_ fun m ne => ?_
  · show (s.station i).queue.Perm ([d] ++ ((s.popQueue i).station i).queue)
    rw [State.popQueue, reads, if_pos rfl, queue]
    rfl
  · cases m with
    | queue j =>
      show ((s.popQueue i).station j).queue = (s.station j).queue
      rw [State.popQueue, reads, if_neg fun same => ne (by rw [same])]
    | _ => rfl

theorem station_popQueue (h : s.Places c hand) (queue : (s.station i).queue = d :: rest) :
    ((s.popQueue i).station i).queue = rest := by
  rw [State.popQueue, State.station_setStation h.records.stations, if_pos rfl]
  show (s.station i).queue.drop 1 = rest
  rw [queue]
  rfl

/-- What a release of a descriptor in hand does: it puts it at the tail of the Disposal List or of the Reclaim Queue. -/
theorem release (h : s.Places c (d :: hand)) (reclaimOpen : c ≠ some .reclaim) (disposalOpen : c ≠ some .disposal)
    (i : Nat) (reason : Reason) : (s.release i d reason).Places c hand := by
  have records : (s.release i d reason).Records := by
    refine ⟨State.wf_release s i d reason h.records.stations, ?_, fun j free => ?_⟩
    · rw [State.release_sched_slots]
      exact h.records.slots
    · have ⟨queue, admin⟩ := s.record_release i d reason j
      rw [queue]
      exact h.records.empty j (admin ▸ free)
  have others (m : Holder) (ne : m ≠ .reclaim) (ne' : m ≠ .disposal) : (s.release i d reason).names m = s.names m := by
    cases m with
    | free => exact congrArg Runs.toList (State.release_bm_freeDescs s i d reason)
    | ingress => exact congrArg Admission.held (State.release_adm s i d reason)
    | queue j => exact (s.record_release i d reason j).1
    | slot k => exact State.slotFrames_congr (State.release_sched_slots s i d reason) k
    | reclaim => exact absurd rfl ne
    | disposal => exact absurd rfl ne'
  have descs := State.wf_descs_release s i d reason h.descs
  obtain ⟨⟨desc, disposal, reclaim⟩ | ⟨desc, disposal, reclaim⟩, keep⟩ := s.release_ends i d reason
  · refine h.put .disposal (ds := [d]) disposalOpen (List.Perm.refl _) records descs ?_ ?_ (fun m ne => ?_) ?_ keep
    · unfold State.ScansHead
      rw [State.release_bm_scan, reclaim]
      exact h.scan
    · show (s.release i d reason).disposal.Perm ([d] ++ s.disposal)
      rw [disposal]
      exact List.perm_append_comm
    · by_cases queue : m = .reclaim
      · rw [queue]; exact reclaim
      · exact others m queue ne
    · simp [desc, Holder.place]
  · refine h.put .reclaim (ds := [d]) reclaimOpen (List.Perm.refl _) records descs ?_ ?_ (fun m ne => ?_) ?_ keep
    · intro sc scanning
      rw [State.release_bm_scan] at scanning
      rw [reclaim, List.head?_append, h.scan sc scanning]
      rfl
    · show (s.release i d reason).bm.reclaim.Perm ([d] ++ s.bm.reclaim)
      rw [reclaim]
      exact List.perm_append_comm
    · by_cases list : m = .disposal
      · rw [list]; exact disposal
      · exact others m ne list
    · simp [desc, Holder.place]

theorem releases (reclaimOpen : c ≠ some .reclaim) (disposalOpen : c ≠ some .disposal) (i : Nat) :
    ∀ (l : List (Nat × Reason)) {s : State}, s.Places c (l.map Prod.fst ++ hand) → (s.releases i l).Places c hand
  | [], _, h => h
  | (_, reason) :: rest, _, h =>
    releases reclaimOpen disposalOpen i rest (State.Places.release h reclaimOpen disposalOpen i reason)

/-- The head of a queue is released. -/
theorem popRelease (h : s.Places none hand) (queue : (s.station i).queue = d :: rest) (reason : Reason) :
    ((s.popQueue i).release i d reason).Places none hand
      ∧ (((s.popQueue i).release i d reason).station i).queue = rest := by
  refine ⟨(h.popQueue nofun queue).release nofun nofun i reason, ?_⟩
  rw [((s.popQueue i).record_release i d reason i).1]
  exact h.station_popQueue queue

/-! #### Ageing and purge -/

theorem sweepQueue : ∀ (queue : List Nat) {s : State}, s.Places none hand → (s.station i).queue = queue →
    (State.sweepQueue i queue s).Places none hand
  | [], _, h, _ => h
  | d :: rest, s, h, queue => by
    rw [State.sweepQueue]
    split
    · have ⟨released, left⟩ := h.popRelease queue .expired
      exact sweepQueue rest released left
    · exact h

theorem purgeHead (h : s.Places none hand) (i : Nat) (reason : Reason) : (s.purgeHead i reason).Places none hand := by
  unfold State.purgeHead
  split
  · exact h
  case h_2 d rest queue => exact (h.popRelease queue reason).1.stands ((State.Stands.refl _).relist i _ false)

end State.Places

/-! #### Formation -/

/-- The frames gathered for a grant are in hand, their descriptors in place IN_GRANT (R105). -/
def State.Gathers (s : State) (frames : List GrantFrame) : Prop :=
  s.Places none (frames.map GrantFrame.desc) ∧ ∀ d ∈ frames.map GrantFrame.desc, (s.desc d).place = .inGrant

namespace State.Gathers
variable {s : State} {frames : List GrantFrame} {i d : Nat} {rest : List Nat}

/-- A frame that may not be sent is released (R104). -/
theorem pass (h : s.Gathers frames) (queue : (s.station i).queue = d :: rest) (reason : Reason) :
    ((s.popQueue i).release i d reason).Gathers frames
      ∧ (((s.popQueue i).release i d reason).station i).queue = rest := by
  obtain ⟨places, gathered⟩ := h
  have ⟨released, left⟩ := places.popRelease queue reason
  have taken : d ∉ frames.map GrantFrame.desc := (List.nodup_cons.1 (places.popQueue nofun queue).hand_nodup).1
  refine ⟨⟨released, fun e mem => ?_⟩, left⟩
  have ne : e ≠ d := fun same => taken (same ▸ mem)
  rw [State.desc_release_ne _ _ ne]
  exact gathered e mem

/-- A frame enters the grant (R105). -/
theorem place (h : s.Gathers frames) (queue : (s.station i).queue = d :: rest) :
    (s.place i d).Gathers (frames ++ [s.grantFrame d]) ∧ ((s.place i d).station i).queue = rest := by
  obtain ⟨places, gathered⟩ := h
  have popped := places.popQueue nofun queue
  have added : (frames ++ [s.grantFrame d]).map GrantFrame.desc = frames.map GrantFrame.desc ++ [d] := by
    rw [List.map_append]
    rfl
  refine ⟨⟨?_, fun e mem => ?_⟩, places.station_popQueue queue⟩
  · rw [added]
    exact (popped.setDesc List.mem_cons_self _).perm (List.perm_append_comm (l₁ := [d]))
  · rw [State.place, State.desc_setDesc popped.descs]
    split
    · rfl
    case isFalse ne =>
      rw [added, List.mem_append, List.mem_singleton] at mem
      exact gathered e (mem.resolve_right ne)

theorem formRound (i most : Nat) (limit : Int) (row : RateEntry) : ∀ (queue : List Nat) (frames : List GrantFrame)
    (sum : Nat) {s : State}, s.Gathers frames → (s.station i).queue = queue →
    (State.formRound i most limit row queue frames sum s).2.2.Gathers
      (State.formRound i most limit row queue frames sum s).1
  | [], _, _, _, h, _ => h
  | d :: rest, frames, sum, s, h, queue => by
    rw [State.formRound]
    split
    · exact h
    · split
      case h_1 reason _ =>
        have ⟨passed, left⟩ := h.pass queue reason
        exact formRound i most limit row rest _ _ passed left
      case h_2 =>
        simp only
        split
        · have ⟨placed, left⟩ := h.place queue
          exact formRound i most limit row rest _ _ placed left
        · exact h

theorem formPoll (i : Nat) (row : RateEntry) : ∀ (queue : List Nat) {s : State}, s.Gathers [] →
    (s.station i).queue = queue → (State.formPoll i row queue s).2.2.Gathers (State.formPoll i row queue s).1
  | [], _, h, _ => h
  | d :: rest, s, h, queue => by
    rw [State.formPoll]
    split
    case h_1 reason _ =>
      have ⟨passed, left⟩ := h.pass queue reason
      exact formPoll i row rest passed left
    case h_2 => exact (h.place queue).1

theorem stands {t : State} (h : s.Gathers frames) (g : s.Stands t) (desc : ∀ d, t.desc d = s.desc d) : t.Gathers frames :=
  ⟨h.1.stands g, fun d mem => by rw [desc]; exact h.2 d mem⟩

/-- Issue in a FREE slot puts the frames gathered into it (R107). -/
theorem issue (h : s.Gathers frames) {k : Nat} (free : s.slot k = none) (i : Nat) (kind : GrantKind) (estimate : Nat) :
    (s.issue k i kind frames estimate).Places none [] := by
  obtain ⟨places, gathered⟩ := h
  have filled (g : Grant) (same : g.frames = frames) : (s.setSlot k (some g)).Places none [] := by
    have records : (s.setSlot k (some g)).Records :=
      ⟨places.records.stations, Table.wf_set places.records.slots k _, places.records.empty⟩
    refine places.put (.slot k) nofun (by simp) records places.descs places.scan ?_ (fun m ne => ?_) gathered
      fun _ _ => rfl
    · show ((s.setSlot k (some g)).slotFrames k).Perm (frames.map GrantFrame.desc ++ s.slotFrames k)
      rw [State.slotFrames_some (s.slot_setSlot_some k g), same, State.slotFrames, free]
      simp
    · cases m with
      | slot l =>
        show (s.setSlot k (some g)).slotFrames l = s.slotFrames l
        unfold State.slotFrames
        rw [State.slot_setSlot_ne _ _ fun same => ne (by rw [same])]
      | _ => rfl
  have begun (g : Grant) : (s.setSlot k (some g)).Stands (((s.setSlot k (some g)).setStation i
      { s.station i with slot := some k }).count i fun c => { c with grants := addTo c.grants 1 }) :=
    ((State.Stands.refl _).setStation i (by exact rfl) (by exact id)).count i _
  have streamed (u : State) (serial : BitVec 8) (ctr : PartCounters) (feeder : Option Feed) (radio : RadioLink) :
      u.Stands { u with sched := { u.sched with serial := serial }, ctr := ctr, feeder := feeder, radio := radio } := {}
  unfold State.issue
  simp only
  refine State.Places.stands (filled _ ?_)
    (.ite _ ((begun _).trans (streamed _ _ _ _ _)) (((begun _).trans (streamed _ _ _ _ _)).endStream .cut))
  rfl

end State.Gathers

/-- Formation opens and frees no slot before issue. -/
theorem State.formRound_slots (i most : Nat) (limit : Int) (row : RateEntry) : ∀ (queue : List Nat)
    (frames : List GrantFrame) (sum : Nat) (s : State),
    (State.formRound i most limit row queue frames sum s).2.2.sched.slots = s.sched.slots
  | [], _, _, _ => rfl
  | d :: rest, frames, sum, s => by
    rw [State.formRound]
    split
    · rfl
    · split
      · rw [formRound_slots, State.release_sched_slots]
        rfl
      · simp only
        split
        · rw [formRound_slots]
          rfl
        · rfl

theorem State.formPoll_slots (i : Nat) (row : RateEntry) : ∀ (queue : List Nat) (s : State),
    (State.formPoll i row queue s).2.2.sched.slots = s.sched.slots
  | [], _ => rfl
  | d :: rest, s => by
    rw [State.formPoll]
    split
    · rw [formPoll_slots, State.release_sched_slots]
      rfl
    · rfl

/-- The slot that formation uses is FREE (R99). -/
theorem State.slot_freeSlot {s : State} (h : s.freeSlot.isSome = true) : s.slot (s.freeSlot.getD 0) = none := by
  obtain ⟨k, found⟩ := Option.isSome_iff_exists.1 h
  have free := List.find?_some found
  simp only [Bool.and_eq_true, Option.isNone_iff_eq_none] at free
  rw [found]
  exact free.2

theorem State.freeSlot_of_grantable {s : State} {c : Candidate} (h : s.grantable c = true) :
    s.freeSlot.isSome = true := by
  unfold State.grantable at h
  simp only [Bool.and_eq_true] at h
  obtain ⟨⟨⟨_, free⟩, _⟩, _⟩ := h
  exact free

theorem State.Places.form {s : State} (h : s.Places none []) (c : Candidate) (free : s.freeSlot.isSome = true) :
    (s.form c).Places none [] := by
  have empty : s.Gathers [] := ⟨h, by simp⟩
  have open_ := State.slot_freeSlot free
  unfold State.form
  simp only
  split
  · have gathers := empty.formRound c.station (s.liveClass (s.station c.station)).maxFrames
      (min (s.station c.station).deficit (s.liveClass (s.station c.station)).maxAirtime)
      (s.liveRate (s.station c.station)) (s.station c.station).queue [] 0 rfl
    have slots := State.formRound_slots c.station (s.liveClass (s.station c.station)).maxFrames
      (min (s.station c.station).deficit (s.liveClass (s.station c.station)).maxAirtime)
      (s.liveRate (s.station c.station)) (s.station c.station).queue [] 0 s
    split
    case h_1 e => rw [e] at gathers; exact gathers.1
    case h_2 e =>
      rw [e] at gathers slots
      exact gathers.issue ((State.slot_congr slots _).trans open_) _ _ _
  · have gathers := State.Gathers.formPoll c.station (s.liveRate (s.station c.station))
      (s.station c.station).queue empty rfl
    have slots := State.formPoll_slots c.station (s.liveRate (s.station c.station)) (s.station c.station).queue s
    refine State.Gathers.issue (gathers.stands ((State.Stands.refl _).cancelPoll _) fun d => ?_) ?_ _ _ _
    · exact State.desc_congr (by rw [State.cancelPoll_bm]) d
    · rw [State.slot_congr (State.cancelPoll_sched_slots _ _), State.slot_congr slots]
      exact open_

/-! #### The end of a grant -/

/-- What a DONE requeues and what it releases are together the frames of the grant (R114, R115). -/
theorem perm_requeued_released : ∀ l : List (Nat × Option Reason),
    (l.map Prod.fst).Perm (requeued l ++ (released l).map Prod.fst)
  | [] => .nil
  | (d, none) :: rest => (perm_requeued_released rest).cons d
  | (_, some _) :: rest => ((perm_requeued_released rest).cons _).trans List.perm_middle.symm

theorem length_outcomesOf : ∀ {bytes : List Byte} {outcomes : List FrameOutcome}, outcomesOf bytes = some outcomes →
    outcomes.length = bytes.length
  | [], _, h => by cases h; rfl
  | b :: rest, outcomes, h => by
    rw [outcomesOf] at h
    split at h
    case h_1 later => cases h; rw [List.length_cons, List.length_cons, length_outcomesOf later]
    case h_2 => cases h

/-- Each frame of the grant has one ending. -/
theorem State.endings_descs (s : State) (r : Station) : ∀ (frames : List GrantFrame) (outcomes : List FrameOutcome),
    outcomes.length = frames.length → (s.endings r frames outcomes).map Prod.fst = frames.map GrantFrame.desc
  | [], _, _ => by simp [State.endings]
  | fr :: frames, [], h => by cases h
  | fr :: frames, o :: outcomes, h => congrArg (fr.desc :: ·) (endings_descs s r frames outcomes (Nat.succ.inj h))

/-- Only an ACTIVE station has frames requeued (R115). -/
theorem State.requeued_endings (s : State) {r : Station} (idle : r.admin ≠ .active) : ∀ (frames : List GrantFrame)
    (outcomes : List FrameOutcome), requeued (s.endings r frames outcomes) = []
  | [], _ => by simp [State.endings, requeued]
  | fr :: frames, [] => by simp [State.endings, requeued]
  | fr :: frames, o :: outcomes => by
    have ended : ∃ reason, s.endReason r fr.desc o = some reason := by
      unfold State.endReason
      split
      · exact ⟨_, rfl⟩
      · cases o with
        | notSent =>
          simp only [State.notSentReason, idle, false_and, if_false]
          split_ifs <;> exact ⟨_, rfl⟩
        | acked => exact ⟨_, rfl⟩
        | notAcked => exact ⟨_, rfl⟩
        | discarded => exact ⟨_, rfl⟩
    obtain ⟨reason, is⟩ := ended
    have rest := requeued_endings s idle frames outcomes
    simp only [State.endings, requeued, List.zipWith_cons_cons, is] at rest ⊢
    simpa using rest

theorem State.place_queueAgain {e : Nat} : ∀ (ds : List Nat) (s : State), e ∈ ds ∨ (s.desc e).place = .queued →
    ((s.queueAgain ds).desc e).place = .queued
  | [], _, h => h.resolve_left List.not_mem_nil
  | d :: rest, s, h => by
    refine place_queueAgain rest _ ?_
    by_cases same : e = d
    · refine .inr ?_
      rw [same, State.desc_setDesc_same _ _ (Descriptor.ne_cleared (by simp))]
    · rw [State.desc_setDesc_ne _ _ same]
      exact h.imp_left fun mem => (List.mem_cons.1 mem).resolve_left same

namespace State.Places
variable {s t : State} {hand : List Nat}

theorem queueAgain {c : Option Holder} : ∀ (ds : List Nat) {s : State}, s.Places c hand → (∀ d ∈ ds, d ∈ hand) →
    (s.queueAgain ds).Places c hand
  | [], _, h, _ => h
  | d :: rest, _, h, inHand =>
    queueAgain rest (h.setDesc (inHand d List.mem_cons_self) _) fun e mem => inHand e (List.mem_cons_of_mem _ mem)

/-- Frames in hand go back ahead of the queue of a station that is not FREE, with other fields of its record (R115). -/
theorem requeue {c : Option Holder} {i : Nat} {r : Station} {back rest : List Nat} (h : s.Places c (back ++ rest))
    (isOpen : c ≠ some (.queue i)) (queued : ∀ d ∈ back, (s.desc d).place = .queued)
    (queue : r.queue.Perm (back ++ (s.station i).queue)) (empty : r.admin = .free → r.queue = []) :
    (s.setStation i r).Places c rest := by
  have reads := State.station_setStation h.records.stations i
  refine h.put (.queue i) isOpen (List.Perm.refl _) (h.records.setStation i empty) h.descs h.scan ?_ (fun m ne => ?_)
    queued fun _ _ => rfl
  · show (((s.setStation i r).station i).queue).Perm (back ++ (s.station i).queue)
    rw [reads, if_pos rfl]
    exact queue
  · cases m with
    | queue j =>
      show ((s.setStation i r).station j).queue = (s.station j).queue
      rw [reads, if_neg fun same => ne (by rw [same])]
    | _ => rfl

/-- The slot that was closing is freed (R117). -/
theorem closeSlot {k : Nat} (h : s.Places (some (.slot k)) []) (i : Nat) : (s.closeSlot k i).Places none [] := by
  have reads := State.slot_setSlot h.records.slots k
  have freed : (s.setSlot k none).Places none [] := by
    refine h.close ⟨h.records.stations, Table.wf_set h.records.slots k none, h.records.empty⟩ rfl h.scan ?_ fun m ne => ?_
    · show (s.setSlot k none).slotFrames k = []
      simp [State.slotFrames, reads]
    · cases m with
      | slot l =>
        show (s.setSlot k none).slotFrames l = s.slotFrames l
        unfold State.slotFrames
        rw [reads, if_neg fun same => ne (by rw [same])]
      | _ => rfl
  exact freed.stands ((((State.Stands.refl _).change i true).checkTeardown i).slotFreed)

/-- The frames of a slot taken into hand. -/
theorem emptySlot (h : s.Places none []) {k : Nat} {frames : List GrantFrame}
    (open_ : (s.slot k).map Grant.frames = some frames) : s.Places (some (.slot k)) (frames.map GrantFrame.desc) := by
  have emptied := h.empty (.slot k)
  have names : s.names (.slot k) = frames.map GrantFrame.desc := by
    show s.slotFrames k = _
    simp [State.slotFrames, open_]
  rw [names, List.append_nil] at emptied
  exact emptied

theorem validDone (h : s.Places none []) {k : Nat} {g : Grant} (open_ : s.slot k = some g) (m : DoneMsg)
    {outcomes : List FrameOutcome} (length : outcomes.length = g.frames.length) :
    (s.validDone k g m outcomes).Places none [] := by
  have settles := (State.Stands.refl s).settleFeedClaims g.station
  unfold State.validDone
  simp only
  generalize s.settleFeedClaims g.station = u at settles
  have inHand : u.Places (some (.slot k)) (g.frames.map GrantFrame.desc) :=
    (h.stands settles).emptySlot ((settles.frames k).trans (by rw [open_]; rfl))
  rw [← u.endings_descs (u.station g.station) g.frames outcomes length] at inHand
  have idle : (u.station g.station).admin ≠ .active →
      requeued (u.endings (u.station g.station) g.frames outcomes) = [] := fun idle => u.requeued_endings idle _ _
  generalize u.endings (u.station g.station) g.frames outcomes = endings at inHand idle
  have parted := inHand.perm (perm_requeued_released endings)
  have again := parted.queueAgain (requeued endings) fun d mem => List.mem_append_left _ mem
  have back := again.requeue (i := g.station) (r := (u.station g.station).atDone (requeued endings) m (u.chainMarked g.frames))
    nofun (fun d mem => State.place_queueAgain _ _ (.inl mem)) ?_ ?_
  · exact (State.Places.releases (c := some (.slot k)) nofun nofun g.station (released endings) (by rw [List.append_nil]; exact back)).closeSlot _
  · rw [State.station_congr (State.queueAgain_stations _ _)]
    exact List.Perm.refl _
  · intro free
    have none_ : (u.station g.station).admin = .free := free
    show requeued endings ++ (u.station g.station).queue = []
    rw [idle (by rw [none_]; nofun), inHand.records.empty _ none_]
    rfl

theorem takeDone (h : s.Places none []) (m : DoneMsg) : (s.takeDone m).Places none [] := by
  have late : s.Stands (s.lateDone m) := (State.Stands.trans (u := { s with ctr := _ }) (.refl s) {}).record _
  unfold State.takeDone
  split
  · exact h.stands late
  case h_2 g slot =>
    split
    · exact h.stands late
    · split
      · exact h.stands ((State.Stands.refl s).protocolError _ _ _ _ _)
      · split
        · exact h.stands ((State.Stands.refl s).protocolError _ _ _ _ _)
        case h_2 outcomes valid =>
          split_ifs at slot with known
          split_ifs at valid with counted
          exact h.validDone slot m ((length_outcomesOf valid).trans counted)

theorem timeout (h : s.Places none []) {k : Nat} {g : Grant} (open_ : s.slot k = some g) :
    (s.timeout k g).Places none [] := by
  have charged : s.Stands (s.setStation g.station { s.station g.station with
      deficit := chargedDeficit (s.station g.station).deficit g.estimate }) := (State.Stands.refl s).setStation _
  have counted : s.Stands { s.setStation g.station { s.station g.station with
      deficit := chargedDeficit (s.station g.station).deficit g.estimate } with
      ctr := { s.ctr with grantTimeouts := addTo s.ctr.grantTimeouts 1 } } := charged.trans {}
  have inHand := (h.stands counted).emptySlot (k := k) (frames := g.frames) (congrArg (Option.map Grant.frames) open_)
  have reasons : (s.timeoutReasons g.frames).map Prod.fst = g.frames.map GrantFrame.desc := by
    simp [State.timeoutReasons]
  exact (State.Places.releases (c := some (.slot k)) nofun nofun g.station (s.timeoutReasons g.frames)
    (by rw [reasons, List.append_nil]; exact inHand)).closeSlot _

end State.Places

/-! #### Admission -/

theorem State.withPools_descs (s : State) (b : BufferManager) : (s.withPools b).bm.descs = b.descs := by
  rw [State.withPools_bm]
  rfl

/-- The descriptor written in an operation of the Buffer Manager. -/
theorem State.desc_withPools_setDesc (s : State) {b : BufferManager} (wf : Table.wf Descriptor.cleared b.descs = true)
    (d : Nat) (x : Descriptor) : (s.withPools (b.setDesc d x)).desc d = x := by
  rw [State.desc, BufferManager.desc, State.withPools_descs]
  exact Table.get_set_same wf d x

theorem State.admin_of_appendFault_none {s : State} {e : IngressEntry} (h : s.appendFault e = none) :
    (s.station e.station.toNat).admin ≠ .free := by
  unfold State.appendFault at h
  cases state : s.sched.state.admissionFault with
  | some reason => simp [state] at h
  | none =>
    have fits : s.stationFault e = none := by simpa [state] using h
    unfold State.stationFault at fits
    intro free
    rw [if_pos (.inr free)] at fits
    cases fits

namespace State.Places
variable {s t : State} {c : Option Holder} {hand : List Nat}

/-- The pools handed over by an operation of the Buffer Manager. -/
theorem withPools {b : BufferManager} (h : State.Places { s with bm := b } c hand) : (s.withPools b).Places c hand :=
  h.stands (State.Stands.withPools s b)

/-- A record joins the Disposal List tail (R45, R158). -/
theorem toDisposal {d : Nat} (h : s.Places c (d :: hand)) (isOpen : c ≠ some .disposal)
    (place : (s.desc d).place = .disposal) : State.Places { s with disposal := s.disposal ++ [d] } c hand := by
  refine h.put .disposal (ds := [d]) isOpen (List.Perm.refl _) (h.records.of_same) h.descs h.scan ?_ (fun m ne => ?_) ?_
    fun _ _ => rfl
  · exact List.perm_append_comm
  · cases m with
    | disposal => exact absurd rfl ne
    | _ => rfl
  · intro e mem
    rw [List.mem_singleton.1 mem]
    exact place

/-- The Admission Unit becomes IDLE (R37). -/
theorem admissionEnds (h : s.Places (some .ingress) hand) : s.admissionEnds.Places none hand := by
  refine h.close (h.records.of_same) rfl h.scan rfl fun m ne => ?_
  cases m with
  | ingress => exact absurd rfl ne
  | _ => rfl

/-- A descriptor claimed from the head of the free list, with what cells the claim takes and the fields it is given. -/
theorem claim {b : BufferManager} {d : Nat} (h : s.Places c hand) (isOpen : c ≠ some .free)
    (head : s.bm.freeDescs.toList = d :: b.freeDescs.toList)
    (form : b = { s.bm with owners := b.owners, freeDescs := b.freeDescs, freeCells := b.freeCells }) (x : Descriptor) :
    (s.withPools (b.setDesc d x)).Places c (d :: hand) := by
  have descs : b.descs = s.bm.descs := by rw [form]
  have claimed : State.Places { s with bm := b } c (d :: hand) := by
    refine h.take .free (ds := [d]) isOpen (h.records.of_same) descs ?_ ?_ fun m ne => ?_
    · intro sc scanning
      rw [form] at scanning ⊢
      exact h.scan sc scanning
    · show s.bm.freeDescs.toList.Perm ([d] ++ b.freeDescs.toList)
      rw [head]
      rfl
    · cases m with
      | free => exact absurd rfl ne
      | reclaim =>
        show b.reclaim = s.bm.reclaim
        rw [form]
      | _ => rfl
  exact withPools (claimed.setDesc List.mem_cons_self x)

theorem refuse (h : s.Places none []) (idle : s.adm.held = []) (e : IngressEntry) (reason : Reason) :
    (s.refuse e reason).Places none [] := by
  unfold State.refuse
  split
  · refine h.same (h.records.of_same) h.descs h.scan (fun l => State.holds_congr ?_) (fun _ _ => rfl) fun _ _ => rfl
    cases l with
    | ingress => exact idle.symm
    | _ => rfl
  case h_2 d b taken =>
    obtain ⟨head, form⟩ := BufferManager.claimToRefuse_some taken
    have emptied := h.empty .ingress
    rw [show s.names .ingress = [] from idle] at emptied
    have claimed := emptied.claim nofun head (by rw [form]) (refusedDesc e reason)
    have wf : Table.wf Descriptor.cleared b.descs = true := by rw [form]; exact h.descs
    have listed := claimed.toDisposal nofun (by rw [State.desc_withPools_setDesc s wf]; rfl)
    exact (listed.stands ((State.Stands.refl _).countRefusal e)).admissionEnds

theorem decideAdmission (h : s.Places none []) (idle : s.adm.held = []) (e : IngressEntry) :
    (s.decideAdmission e).Places none [] := by
  unfold State.decideAdmission
  split
  · exact h.refuse idle e _
  · split
    · exact h.refuse idle e .noBuffer
    case h_2 d cells b taken =>
      obtain ⟨head, _, _, _, _, form, _⟩ := BufferManager.claimToQueue_some taken
      have claimed := h.claim nofun head form (acceptedDesc e cells)
      have wf : Table.wf Descriptor.cleared b.descs = true := by rw [form]; exact h.descs
      refine claimed.put .ingress (ds := [d]) nofun (List.Perm.refl _) (claimed.records.of_same) claimed.descs claimed.scan
        ?_ (fun m ne => ?_) ?_ fun _ _ => rfl
      · show [d].Perm ([d] ++ (s.withPools (b.setDesc d (acceptedDesc e cells))).adm.held)
        rw [State.withPools_adm, idle]
        rfl
      · cases m with
        | ingress => exact absurd rfl ne
        | _ => rfl
      · intro x mem
        rw [List.mem_singleton.1 mem]
        show ((s.withPools (b.setDesc d (acceptedDesc e cells))).desc d).place = _
        rw [State.desc_withPools_setDesc s wf]
        rfl

/-- The frame that has been written leaves the Admission Unit. -/
theorem emptyIngress (h : s.Places none []) {d : Nat} (writing : s.adm = .writing d) : s.Places (some .ingress) [d] := by
  have emptied := h.empty .ingress
  rw [show s.names .ingress = [d] by show s.adm.held = [d]; rw [writing]; rfl] at emptied
  exact emptied

theorem enqueue (h : s.Places none []) {d : Nat} (writing : s.adm = .writing d) {e : IngressEntry}
    (fits : s.appendFault e = none) : (s.enqueue e d).Places none [] := by
  have inHand := (h.emptyIngress writing).setDesc (d := d) List.mem_cons_self
    { s.desc d with stamp := s.timeBase, place := .queued, parityOk := true }
  have busy := State.admin_of_appendFault_none fits
  have joined := inHand.requeue (i := e.station.toNat) (back := [d]) (rest := [])
    (r := { s.station e.station.toNat with queue := (s.station e.station.toNat).queue ++ [d] }) nofun ?_
    List.perm_append_comm fun free => absurd free busy
  · exact (joined.stands ((State.Stands.refl _).relist e.station.toNat
      (s.station e.station.toNat).eligible false)).admissionEnds
  · intro x mem
    rw [List.mem_singleton.1 mem, State.desc_setDesc_same _ _ (Descriptor.ne_cleared (by simp))]

theorem refuseLate (h : s.Places none []) {d : Nat} (writing : s.adm = .writing d) (e : IngressEntry) (reason : Reason) :
    (s.refuseLate e d reason).Places none [] := by
  have form := BufferManager.giveBack_eq d (s.desc d).segs s.bm
  have descs : (s.bm.giveBack d (s.desc d).segs).descs = s.bm.descs := by rw [form]
  have given : State.Places { s with bm := s.bm.giveBack d (s.desc d).segs } (some .ingress) [d] := by
    have inHand := h.emptyIngress writing
    refine inHand.same (h.records.of_same) (descs ▸ h.descs) ?_ (fun l => State.holds_congr ?_)
      (fun x _ => by rw [State.desc_congr descs]) fun x _ => State.desc_congr descs x
    · intro sc scanning
      rw [form] at scanning ⊢
      exact h.scan sc scanning
    · cases l with
      | free =>
        show (s.bm.giveBack d (s.desc d).segs).freeDescs.toList = s.bm.freeDescs.toList
        rw [form]
      | reclaim =>
        show (s.bm.giveBack d (s.desc d).segs).reclaim = s.bm.reclaim
        rw [form]
      | _ => rfl
  have refused : (s.withPools ((s.bm.giveBack d (s.desc d).segs).setDesc d (refusedDesc e reason))).Places
      (some .ingress) [d] := withPools (given.setDesc List.mem_cons_self (refusedDesc e reason))
  have listed := refused.toDisposal nofun (by rw [State.desc_withPools_setDesc s given.descs]; rfl)
  exact (listed.stands ((State.Stands.refl _).countRefusal e)).admissionEnds

end State.Places

/-- Law L1 holds after a command on a state of which it holds. -/
def State.PlacesBy (s : State) (o : Host.Outcome State Fault Refusal) : Prop :=
  s.Places none [] → ∀ t, o = .next t → t.Places none []

theorem State.Places.next {s t : State} (h : s.Places none [] → t.Places none []) : s.PlacesBy (.next t) := by
  rintro places _ ⟨⟩
  exact h places

theorem execAdmissionDecision_places (s : State) : s.PlacesBy (execAdmissionDecision s) := by
  refine .next fun h => ?_
  split
  case h_1 adm _ => exact h.decideAdmission (by rw [adm]; rfl) _
  case h_2 => exact h

theorem execAdmissionRetry_places (s : State) : s.PlacesBy (execAdmissionRetry s) := by
  refine .next fun h => ?_
  split
  case h_1 adm _ =>
    split
    · exact h
    · exact h.decideAdmission (by rw [adm]; rfl) _
  case h_2 => exact h

theorem execAppend_places (s : State) : s.PlacesBy (execAppend s) := by
  refine .next fun h => ?_
  split
  case h_1 d e _ adm _ =>
    have written := h.stands (s.stands_written d e)
    simp only
    split
    case h_1 fits => exact written.enqueue adm fits
    case h_2 => exact written.refuseLate adm e _
  case h_2 => exact h

theorem execDisposalMessageSent_places (s : State) : s.PlacesBy (execDisposalMessageSent s) := by
  refine .next fun h => ?_
  split
  case h_1 records _ =>
    refine State.Places.withPools ?_
    have taken : State.Places { s with tx := { s.tx with line := none }, disposal := s.disposal.drop records.length } none
        (s.disposal.take records.length ++ []) := by
      refine h.take .disposal nofun (h.records.of_same) rfl h.scan ?_ fun m ne => ?_
      · show s.disposal.Perm (s.disposal.take records.length ++ s.disposal.drop records.length)
        rw [List.take_append_drop]
      · cases m with
        | disposal => exact absurd rfl ne
        | _ => rfl
    have form := BufferManager.returnDescs_eq (s.disposal.take records.length) s.bm
    have reads := fun d => BufferManager.desc_returnDescs (s.disposal.take records.length) s.bm d h.descs
    refine taken.put .free nofun (List.Perm.refl _) (h.records.of_same) (BufferManager.wf_returnDescs _ _ h.descs) ?_ ?_
      (fun m ne => ?_) (fun d mem => ?_) fun d out => ?_
    · intro sc scanning
      simp only at scanning ⊢
      rw [form] at scanning ⊢
      exact h.scan sc scanning
    · show (s.bm.returnDescs (s.disposal.take records.length)).freeDescs.toList.Perm _
      rw [BufferManager.freeDescs_returnDescs]
      exact List.perm_append_comm
    · cases m with
      | free => exact absurd rfl ne
      | reclaim =>
        show (s.bm.returnDescs (s.disposal.take records.length)).reclaim = s.bm.reclaim
        rw [form]
      | _ => rfl
    · show ((s.bm.returnDescs (s.disposal.take records.length)).desc d).place = .free
      rw [reads, if_pos mem]
      rfl
    · show (s.bm.returnDescs (s.disposal.take records.length)).desc d = s.bm.desc d
      rw [reads, if_neg out]
  case h_2 => exact h

theorem execDone_places (frame : List Byte) (s : State) : s.PlacesBy (execDone frame s) := by
  refine .next fun h => ?_
  split
  · exact h
  · exact h.takeDone _

theorem execGrantTimeout_places (k : Nat) (s : State) : s.PlacesBy (execGrantTimeout k s) := by
  refine .next fun h => ?_
  split
  · exact h
  case h_2 g open_ =>
    split
    · exact h
    · split
      · exact h.timeout open_
      · exact h

theorem execGrantFormation_places (s : State) : s.PlacesBy (execGrantFormation s) := by
  refine .next fun h => ?_
  have ended : s.Stands (s.setCandidate none) := (State.Stands.refl s).setCandidate none
  split
  · exact h
  case h_2 c _ =>
    simp only
    split
    case isTrue granted => exact (h.stands ended).form c (State.freeSlot_of_grantable granted)
    case isFalse => exact h.stands (.ite _ (ended.joinList _ false) ended)

/-- The frame whose walk fails is one of the frames fed (R110). -/
theorem BufferManager.mem_of_feedFrames_fault (b : BufferManager) {n : Nat} {fr : GrantFrame} {read : Descriptor}
    {f : WalkFault} {bytes : List Byte} : ∀ (frames : List GrantFrame) (m : Nat) (begun : Option (Nat × FeedWalk)),
    (b.feedFrames frames m begun).2 = .fault n fr read f bytes → fr ∈ frames
  | [], _, _, h => by cases h
  | x :: rest, m, begun, h => by
    rw [BufferManager.feedFrames] at h
    simp only at h
    split at h
    · exact List.mem_cons_of_mem _ (mem_of_feedFrames_fault b rest _ _ h)
    · cases h
      exact List.mem_cons_self
    · cases h

/-- The mark of the Feeder leaves the descriptor in its place (R110). -/
theorem State.Places.markFault {s : State} (h : s.Places none []) (i : Nat) {fr : GrantFrame} {k : Nat}
    (mem : fr.desc ∈ s.slotFrames k) (read : Descriptor) (f : WalkFault) : (s.markFault i fr read f).Places none [] := by
  have below : fr.desc < 8192 := h.lt_of_holds (l := .slot k) mem
  have marked (x : Descriptor) (place : x.place = (s.desc fr.desc).place) : (s.setDesc fr.desc x).Places none [] := by
    refine h.same (h.records.of_same) (Table.wf_set h.descs _ x) h.scan (fun l => State.holds_congr ?_) (fun d _ => ?_)
      fun d far => State.desc_setDesc_ne _ _ (by omega)
    · cases l <;> rfl
    · rw [State.desc_setDesc h.descs]
      split
      case isTrue same => rw [place, same]
      case isFalse => rfl
  unfold State.markFault
  simp only
  split
  · refine State.Places.stands (marked _ ?_) ((State.Stands.refl _).reportFault _ _ _ _)
    rfl
  · refine State.Places.stands (marked _ ?_) (((State.Stands.refl _).reportFault _ _ _ _).claimFault _ _)
    rfl

theorem execFeedFault_places (n : Nat) (cell : Option Nat) (s : State) : s.PlacesBy (execFeedFault n cell s) := by
  refine .next fun h => ?_
  split
  · exact h
  case h_2 f g fed =>
    have open_ : s.slot f.slot = some g := by
      unfold State.fed at fed
      split at fed
      · cases fed
      · split at fed
        · cases fed
        · cases fed
          assumption
    split
    case h_1 sections m fr read fault bytes next =>
      split
      · have listed : fr ∈ g.frames.drop f.frame :=
          s.bm.mem_of_feedFrames_fault _ _ _ (congrArg Prod.snd next)
        have mem : fr.desc ∈ s.slotFrames f.slot := by
          rw [State.slotFrames_some open_]
          exact List.mem_map_of_mem (List.mem_of_mem_drop listed)
        have sent : s.Stands { s.sendSections (sections ++ [sectionOf fr.length bytes .abort]) with
            feeder := some { f with frame := m + 1, segment := 1, walk := none } } := {}
        exact (h.stands sent).markFault g.station (k := f.slot) mem read fault
      · exact h
    case h_2 => exact h

/-! #### The Reclaim Scan, ageing and purge -/

/-- A change of the owner table and of the scan that leaves the descriptors where they are. -/
theorem State.Places.rescan {s : State} (h : s.Places none []) (owners : Table Owner) {scan : Option Scan}
    (head : ∀ sc, scan = some sc → s.bm.reclaim.head? = some sc.desc) :
    State.Places { s with bm := { s.bm with owners := owners, scan := scan } } none [] := by
  refine h.same (h.records.of_same) h.descs head (fun l => State.holds_congr ?_) (fun _ _ => rfl) fun _ _ => rfl
  cases l <;> rfl

theorem execReclaimScanStart_places (s : State) : s.PlacesBy (execReclaimScanStart s) := by
  refine .next fun h => ?_
  split
  case h_1 d rest _ queue =>
    have begun := h.rescan s.bm.owners (scan := some { desc := d, next := 0 }) (by rintro _ ⟨⟩; rw [queue]; rfl)
    simp only
    split
    · exact begun
    · exact begun.stands ((State.Stands.refl _).reportFault _ _ _ _)
  case h_2 => exact h

theorem execReclaimScanVisit_places (s : State) : s.PlacesBy (execReclaimScanVisit s) := by
  refine .next fun h => ?_
  split
  · exact h
  case h_2 sc scanning =>
    have visited (owners : Table Owner) := h.rescan owners (scan := some { sc with next := sc.next + 1 })
      (by rintro _ ⟨⟩; exact h.scan sc scanning)
    split
    · simp only
      split
      · exact State.Places.withPools (visited _)
      · exact State.Places.withPools (visited _)
    · exact h

theorem execReclaimScanEnd_places (s : State) : s.PlacesBy (execReclaimScanEnd s) := by
  refine .next fun h => ?_
  split
  · exact h
  case h_2 sc scanning =>
    split
    · have taken : State.Places { s with bm := { s.bm with scan := none, reclaim := s.bm.reclaim.drop 1 } } none
          (sc.desc :: []) := by
        refine h.take .reclaim (ds := [sc.desc]) nofun (h.records.of_same) rfl (fun _ none_ => by cases none_) ?_
          fun m ne => ?_
        · show s.bm.reclaim.Perm ([sc.desc] ++ s.bm.reclaim.drop 1)
          have head := h.scan sc scanning
          cases queue : s.bm.reclaim with
          | nil => rw [queue] at head; cases head
          | cons d rest => rw [queue] at head; cases head; rfl
        · cases m with
          | reclaim => exact absurd rfl ne
          | _ => rfl
      refine (taken.setDesc List.mem_cons_self _).toDisposal nofun ?_
      rw [State.desc_setDesc taken.descs, if_pos rfl]
    · exact h

theorem execSweepVisit_places (s : State) : s.PlacesBy (execSweepVisit s) := by
  refine .next fun h => ?_
  split
  · exact h
  case h_2 i _ =>
    have swept : s.sweepStation i |>.Places none [] :=
      (h.sweepQueue _ rfl).stands ((State.Stands.refl _).relist i _ false)
    have advanced : (s.sweepStation i).Stands { s.sweepStation i with sweep := (s.sweepStation i).sweep.advance i } := {}
    exact swept.stands advanced

theorem execPurgeStep_places (s : State) : s.PlacesBy (execPurgeStep s) := by
  refine .next fun h => ?_
  split
  · exact h
  case h_2 e _ _ =>
    have released := h.purgeHead e.station e.purpose.reason
    exact released.stands (.ite _ ((State.Stands.refl _).purgeEntryLeaves e.station) (.refl _))

/-! #### Resets and the passing of time -/

/-- After a reset every descriptor is FREE (2.8). -/
theorem State.places_blocksReset (pending : List Instr) (lock up : Bool) (mem : Memory) (ecc : Table Ecc) (n : Nat) :
    (State.blocksReset pending lock up mem ecc n).Places none [] := by
  have free : Runs.toList (Runs.upTo 8192) = List.range 8192 := Runs.toList_upTo 8192
  refine ⟨⟨rfl, rfl, fun _ _ => rfl⟩, rfl, nofun, fun _ => some .free, fun _ _ => rfl, ?_, fun l => ?_, fun l d => ?_,
    List.nodup_nil, by simp⟩
  · rintro d _ _ ⟨⟩
    rfl
  · cases l with
    | free =>
      show (Runs.toList (Runs.upTo 8192)).Nodup
      rw [free]
      exact List.nodup_range
    | _ => exact List.nodup_nil
  · cases l with
    | free =>
      show d ∈ Runs.toList (Runs.upTo 8192) ↔ _
      rw [free]
      simp
    | _ => exact ⟨fun none_ => absurd none_ List.not_mem_nil, nofun⟩

theorem State.stands_endReset (s : State) (power : Bool) : s.Stands (s.endReset power) := {}

theorem execPowerOnReset_places (test : Bool) (s : State) : s.PlacesBy (execPowerOnReset test s) := by
  refine .next fun _ => ?_
  have blocks := State.places_blocksReset s.pending s.radio.lock false s.bm.mem s.bm.ecc s.freeCtr
  exact blocks.stands (.ite _ (.refl _) (State.stands_endReset _ true))

theorem execSoftReset_places (s : State) : s.PlacesBy (execSoftReset s) := by
  refine .next fun h => ?_
  split
  · exact (State.places_blocksReset s.pending s.radio.lock s.radio.up s.bm.mem s.bm.ecc s.freeCtr).stands
      (State.stands_endReset _ false)
  · exact h

theorem execSelfTest_places (failed : List Nat) (s : State) : s.PlacesBy (execSelfTest failed s) := by
  refine .next fun h => ?_
  split
  · refine State.Places.stands ?_ (State.stands_endReset _ true)
    refine h.same (h.records.of_same) h.descs h.scan (fun l => State.holds_congr ?_) (fun _ _ => rfl) fun _ _ => rfl
    cases l <;> rfl
  · exact h

/-- Damage strikes descriptors that are not FREE and leaves them in their places (log 9). -/
theorem State.Places.damage {s : State} (h : s.Places none []) (x : Option (Nat × Config.Damage)) :
    State.Places { s with bm := s.bm.damage x } none [] := by
  unfold BufferManager.damage
  split
  · exact h
  case h_2 d x =>
    simp only
    split
    case isTrue struck =>
      obtain ⟨busy, _⟩ := struck
      have below : d < 8192 := by
        obtain ⟨at_, located⟩ := h.located
        by_contra far
        have cleared : s.bm.desc d = Descriptor.cleared := located.beyond d (by omega)
        rw [cleared] at busy
        simp [Descriptor.cleared] at busy
      refine h.same (h.records.of_same) (Table.wf_set h.descs _ _) h.scan (fun l => State.holds_congr ?_) (fun e _ => ?_)
        fun e far => BufferManager.desc_setDesc_ne _ _ (by omega)
      · cases l <;> rfl
      · show ((s.bm.setDesc d _).desc e).place = (s.bm.desc e).place
        rw [BufferManager.desc_setDesc h.descs]
        split
        case isTrue same => rw [same]
        case isFalse => rfl
    case isFalse => exact h

theorem State.Places.tick {s : State} (h : s.Places none []) : s.tick.Places none [] := by
  unfold State.tick
  split
  · exact h
  · have ticked (k : Nat) (t : Table (Option Grant)) :
        (Table.get none (t.map fun e => (e.1, e.2.map Grant.tick)) k).map Grant.frames
          = (Table.get none t k).map Grant.frames := by
      rw [Table.get_map none (f := Option.map Grant.tick) rfl]
      cases Table.get none t k with
      | none => rfl
      | some g =>
        simp only [Option.map_some, Grant.tick]
        split <;> rfl
    have word (b : BufferManager) (w : Option (Nat × Ecc)) : (b.damageWord w).pools = b.pools := by
      unfold BufferManager.damageWord
      split
      · rfl
      · split <;> rfl
    refine (h.damage (Config.descriptorDamage s.freeCtr)).stands ?_
    exact
      { pools := word _ _
        records := fun sound => ⟨⟨sound.stations, Grant.wf_tick sound.slots, sound.empty⟩, fun _ => rfl⟩
        frames := fun k => ticked k _ }

/-! #### Every command, and every step -/

theorem exec_places (c : Instr) (s : State) : s.PlacesBy (exec c s) := by
  by_cases moves : Instr.MovesFrames c
  · cases c with
    | powerOnReset test => exact execPowerOnReset_places test s
    | selfTest failed => exact execSelfTest_places failed s
    | softReset => exact execSoftReset_places s
    | admissionDecision => exact execAdmissionDecision_places s
    | admissionRetry => exact execAdmissionRetry_places s
    | append => exact execAppend_places s
    | disposalMessageSent => exact execDisposalMessageSent_places s
    | done frame => exact execDone_places frame s
    | grantTimeout k => exact execGrantTimeout_places k s
    | grantFormation => exact execGrantFormation_places s
    | feedFault n cell => exact execFeedFault_places n cell s
    | reclaimScanStart => exact execReclaimScanStart_places s
    | reclaimScanVisit => exact execReclaimScanVisit_places s
    | reclaimScanEnd => exact execReclaimScanEnd_places s
    | sweepVisit => exact execSweepVisit_places s
    | purgeStep => exact execPurgeStep_places s
    | _ => exact moves.elim
  · exact fun h t next => h.stands (exec_stands c s moves t next)

theorem step_places (s : State) : s.PlacesBy (step s) := by
  unfold step
  split
  · exact .next fun h => h.tick
  case h_2 c rest _ =>
    intro h
    have taken : s.Stands { s with pending := rest } := {}
    exact exec_places c { s with pending := rest } (h.stands taken)

/-- Distinct descriptors of the pool are at most 8,192. -/
theorem State.Places.length_le {s : State} (h : s.Places none []) (l : Holder) : (s.names l).length ≤ 8192 := by
  have within : s.names l ⊆ List.range 8192 := fun d mem => List.mem_range.2 (h.lt_of_holds (l := l) mem)
  have fits := ((h.holds_nodup l).subperm within).length_le
  rwa [List.length_range] at fits

/-- Settles O60: every command takes descriptors from their collections into hand and puts each into another, with the
place of that one; at the end of the step none is in hand. -/
theorem stepKeepsPlaceLaw : Obligations.StepKeepsPlaceLaw := by
  rintro s t ⟨_, _, descs, _, stations, _, _, _, _, slots⟩ ⟨⟨free, _⟩, _⟩ law h
  have records : s.Records := ⟨stations, slots, fun i is => by rw [free i is]; rfl⟩
  have places := step_places s (law.places records descs) t h
  exact ⟨places.placeLaw, places.length_le .reclaim, places.length_le .disposal, places.length_le .free⟩

/-! ### SELF_TEST (R34, R35) -/

/-- An index is listed in a canonical table exactly if its entry is not the default. -/
theorem Table.mem_indices {α : Type} [DecidableEq α] {d : α} {i : Nat} : ∀ {t : Table α} {lo : Nat},
    Table.wfFrom d lo t = true → (i ∈ t.map Prod.fst ↔ Table.get d t i ≠ d)
  | [], _, _ => by simp [Table.get]
  | (k, v) :: rest, lo, h => by
    simp only [Table.wfFrom, Bool.and_eq_true, decide_eq_true_eq] at h
    obtain ⟨⟨_, ne⟩, wf⟩ := h
    rw [List.map_cons, List.mem_cons, Table.mem_indices wf, Table.get]
    by_cases same : k = i
    · simp [same, ne]
    · simp [same, Ne.symm same]

theorem Table.nodup_indices {α : Type} [DecidableEq α] {d : α} : ∀ {t : Table α} {lo : Nat},
    Table.wfFrom d lo t = true → (t.map Prod.fst).Nodup
  | [], _, _ => List.nodup_nil
  | (k, v) :: rest, lo, h => by
    simp only [Table.wfFrom, Bool.and_eq_true, decide_eq_true_eq] at h
    obtain ⟨_, wf⟩ := h
    refine List.nodup_cons.2 ⟨fun mem => ?_, Table.nodup_indices wf⟩
    exact (Table.mem_indices wf).1 mem (Table.get_of_lt wf (Nat.lt_succ_self k))

/-- The self-test lists every failed cell of the part once, and no other (R34). -/
theorem length_retiredCells (failed : List Nat) :
    (retiredCells failed).length = (List.range 16384).countP fun c => decide (c ∈ failed) := by
  have wf := wf_retiredCells failed
  have same : ((retiredCells failed).map Prod.fst).Perm ((List.range 16384).filter fun c => decide (c ∈ failed)) := by
    refine (List.perm_ext_iff_of_nodup (Table.nodup_indices wf) (List.nodup_range.filter _)).2 fun c => ?_
    rw [Table.mem_indices wf, get_retiredCells, List.mem_filter, List.mem_range]
    simp
  rw [List.countP_eq_length_filter, ← same.length_eq, List.length_map]

/-- Every entry it lists is RETIRED. -/
theorem retiredCells_retired : ∀ (failed : List Nat), ∀ e ∈ retiredCells failed, e.2 = .retired
  | [], _, mem => absurd mem List.not_mem_nil
  | c :: rest, e, mem => by
    rw [retiredCells] at mem
    split at mem
    · rcases Table.mem_set mem with rfl | mem
      · rfl
      · exact retiredCells_retired rest e mem
    · exact retiredCells_retired rest e mem

/-- The test writes the tables, the memory and the result, and nothing else of the Buffer Manager (R34). -/
theorem BufferManager.tested_eq (b : BufferManager) (failed : List Nat) (n : Nat) :
    b.tested failed n = { b with
      owners := (b.tested failed n).owners, freeCells := (b.tested failed n).freeCells
      mem := (b.tested failed n).mem, ecc := (b.tested failed n).ecc
      selfTestResult := BitVec.ofNat 16 ((List.range 16384).countP fun c => decide (c ∈ failed)) } := by
  rw [← length_retiredCells]
  simp only [BufferManager.tested]

theorem BufferManager.retiredCount_tested (b : BufferManager) (failed : List Nat) (n : Nat) :
    (b.tested failed n).retiredCount = (List.range 16384).countP fun c => decide (c ∈ failed) := by
  rw [← length_retiredCells]
  exact List.countP_eq_length.2 fun e mem => by rw [retiredCells_retired failed e mem]; rfl

theorem BufferManager.read_tested (b : BufferManager) (failed : List Nat) (n : Nat) {c k : Nat} (cell : c < 16384)
    (byte : k < 256) : (b.tested failed n).mem.read (256 * c + k) =
      if c ∈ failed then Config.failedByte n (256 * c + k) else ~~~ Config.selfTestPattern (256 * c + k) := by
  simp only [BufferManager.tested, Memory.read, Config.cellCount_eq, Config.cellBytes_eq]
  rw [Table.get_tabulate, if_pos (by omega), testedByte, Config.cellBytes_eq, show (256 * c + k) / 256 = c by omega]

theorem BufferManager.wordEcc_tested (b : BufferManager) (failed : List Nat) (n : Nat) {c w : Nat} (cell : c < 16384)
    (word : w < 32) : (b.tested failed n).wordEcc c w =
      if c ∈ failed then Config.failedWord n (32 * c + w) else .sound := by
  have of_index : (32 * c + w) / 32 = c := by omega
  simp only [BufferManager.tested, BufferManager.wordEcc, Config.cellCount_eq, Config.cellWords]
  rw [Table.get_tabulate, if_pos (by omega), testedWord, of_index]

/-- Settles O5: the tables that the test writes, read entry by entry. -/
theorem selfTestRetiresFailedCells : Obligations.SelfTestRetiresFailedCells := by
  intro failed s inReset
  refine ⟨State.endReset { s with bm := s.bm.tested failed s.freeCtr, freeCtr := s.freeCtr + 1 } true, ?_, ?_,
    ?_, ?_, ?_, ?_, ?_⟩
  · show execSelfTest failed s = _
    rw [execSelfTest, if_pos inReset]
  · have pools := s.bm.tested_eq failed s.freeCtr
    generalize s.bm.tested failed s.freeCtr = b at pools
    refine State.ext_fields rfl rfl rfl rfl rfl rfl rfl pools rfl rfl rfl rfl rfl rfl rfl rfl ?_ rfl rfl rfl
    simp only [State.endReset, congrArg BufferManager.selfTestResult pools]
  · exact fun c => get_retiredCells c failed
  · exact s.bm.freeCells_tested failed s.freeCtr
  · exact s.bm.retiredCount_tested failed s.freeCtr
  · exact fun _ _ => s.bm.read_tested failed s.freeCtr
  · exact fun _ _ => s.bm.wordEcc_tested failed s.freeCtr

/-! ### The Reclaim Scan (R32) -/

/-- Pools whose two free counts are as they were leave the PAUSE state as it was (R36). -/
theorem BufferManager.evaluateFrom_same (held : Bool) {old b : BufferManager} (freeDescs : b.freeDescs = old.freeDescs)
    (freeCells : b.freeCells = old.freeCells) : BufferManager.evaluateFrom held old b = b := by
  have same : b.freeGeneral = old.freeGeneral ∧ b.freeCellCount = old.freeCellCount := by
    unfold BufferManager.freeGeneral BufferManager.freeCellCount
    rw [freeDescs, freeCells]
    exact ⟨rfl, rfl⟩
  rw [BufferManager.evaluateFrom, if_pos (.inr same)]

/-- Pools with the counts as they were are all that changes. -/
theorem State.withPools_same {s : State} {b : BufferManager} (retired : b.retiredCount = s.bm.retiredCount)
    (freeDescs : b.freeDescs = s.bm.freeDescs) (freeCells : b.freeCells = s.bm.freeCells) :
    s.withPools b = { s with bm := b } := by
  rw [State.withPools_of_le s b retired.le, BufferManager.evaluateFrom_same _ freeDescs freeCells]

/-- A cell retired with the free lists as they were: the count rises and is handed to the scheduler (R30, R145). -/
theorem State.withPools_retired {s : State} {b : BufferManager} (rise : s.bm.retiredCount < b.retiredCount)
    (freeDescs : b.freeDescs = s.bm.freeDescs) (freeCells : b.freeCells = s.bm.freeCells) :
    s.withPools b = State.haltedIfDue { s with bm := b } := by
  rw [State.withPools, BufferManager.evaluateFrom_same _ freeDescs freeCells]
  exact (if_pos rise).trans (State.checkRetired_eq _)

/-- Settles O40: each command of the scan by where the scan stands. -/
theorem reclaimScanRetiresOwnedCells : Obligations.ReclaimScanRetiresOwnedCells := by
  refine fun s => ⟨fun d rest idle queue => ?_, fun d c scanning cell => ⟨fun other => ?_, fun own => ?_⟩,
    fun d c scanning done => ?_⟩
  · show execReclaimScanStart s = _
    simp only [execReclaimScanStart, idle, queue]
    split <;> rfl
  · show execReclaimScanVisit s = _
    simp only [execReclaimScanVisit, scanning, Config.cellCount_eq, if_pos cell, if_neg other]
    rw [State.withPools_same (b := { s.bm with scan := some { desc := d, next := c + 1 } }) rfl rfl rfl]
  · have retired := s.bm.retiredCount_retireCell c (by rw [own]; nofun)
    refine ⟨{ s with bm := { s.bm.retireCell c with scan := some { desc := d, next := c + 1 } } }, ?_, rfl, ?_, ?_, retired⟩
    · show execReclaimScanVisit s = _
      simp only [execReclaimScanVisit, scanning, Config.cellCount_eq, if_pos cell, if_pos own]
      rw [State.withPools_retired (b := { s.bm.retireCell c with scan := some { desc := d, next := c + 1 } }) ?_ rfl rfl]
      show s.bm.retiredCount < (s.bm.retireCell c).retiredCount
      omega
    · exact (s.bm.owner_retireCell c c).trans (if_pos rfl)
    · exact fun c' ne => (s.bm.owner_retireCell c c').trans (if_neg ne)
  · refine ⟨{ s with bm := { s.bm with scan := none, reclaim := s.bm.reclaim.drop 1 } }.dispose d .chainFault,
      ?_, ?_, ?_, ?_⟩
    · show execReclaimScanEnd s = _
      simp only [execReclaimScanEnd, scanning, Config.cellCount_eq, if_pos done]
    · rw [List.drop_one]
      rfl
    · exact State.desc_setDesc_same _ d (Descriptor.ne_cleared (by simp))
    · exact fun e out => State.desc_setDesc_ne _ _ (by simpa using out)

/-! ### The walks of the Chain Walker (R24 to R29) -/

/-- Checks 1 to 3 of an entry ask the Cell Owner Table of its own cell only (R24). -/
theorem BufferManager.entryFault_congr {b b' : BufferManager} {g : Segment}
    (owner : b'.owner g.cell.toNat = b.owner g.cell.toNat) (d k : Nat) : b'.entryFault d k g = b.entryFault d k g := by
  rw [BufferManager.entryFault, owner, BufferManager.entryFault]

/-- A present cell of another owner fails FOREIGN (R24). -/
theorem BufferManager.entryFault_foreign {b : BufferManager} {d : Nat} {g : Segment} (present : g.cell.toNat < 16384)
    (owner : b.owner g.cell.toNat ≠ .desc d) (k : Nat) :
    b.entryFault d k g = some { cause := .foreign, segment := k, cell := some g.cell.toNat } := by
  rw [BufferManager.entryFault, Config.cellCount_eq, if_neg (by omega), if_pos owner]

/-- A release walk stops at the first entry that fails (R26). -/
theorem BufferManager.releaseEntries_fault {b : BufferManager} {d k : Nat} {g : Segment} {f : WalkFault}
    (fails : b.entryFault d k g = some f) (bad : Option Nat) (length : Nat) (after : List Segment) (sum : Nat) :
    BufferManager.releaseEntries d bad length (g :: after) k sum b = (some f, b) := by
  rw [BufferManager.releaseEntries, fails]

theorem BufferManager.releaseWalk_of_parity {b : BufferManager} {d : Nat} (parity : (b.desc d).parityOk = true) :
    b.releaseWalk d =
      BufferManager.releaseEntries d (b.desc d).badCell (b.desc d).length.toNat (b.desc d).segs 1 0 b := by
  rw [BufferManager.releaseWalk, if_pos parity]

theorem BufferManager.feedWalk_of_parity {b : BufferManager} {d : Nat} (parity : (b.desc d).parityOk = true) :
    b.feedWalk d = b.feedEntries d (b.desc d) (b.desc d).segs 1 0 (b.desc d).length.toNat 0 [] := by
  rw [BufferManager.feedWalk, BufferManager.feedOn]
  exact if_pos parity

/-- Wrong parity stops either walk before its first entry. -/
theorem BufferManager.walks_of_wrong_parity {b : BufferManager} {d : Nat} (parity : (b.desc d).parityOk = false) :
    b.releaseWalk d = (some { cause := .descParity, segment := 0, cell := none }, b)
      ∧ b.feedWalk d = .fault { cause := .descParity, segment := 0, cell := none } [] := by
  constructor
  · simp [BufferManager.releaseWalk, parity]
  · simp [BufferManager.feedWalk, BufferManager.feedOn, Descriptor.openWalk, parity]

/-- An entry whose cell the walk has passed is FREE or RETIRED by now; any other reads as at the start (R26). -/
theorem BufferManager.entryFault_passed {b b' : BufferManager} {d : Nat} {bad : Option Nat} {before : List Segment}
    {g : Segment} (owner : ∀ c, b'.owner c =
      if c ∈ segmentCells before then (if bad = some c then .retired else .free) else b.owner c)
    (sound : ∀ h ∈ before, b.Sound d h) (fails : ¬ b.Sound d g ∨ g.cell.toNat ∈ segmentCells before) (k : Nat) :
    b'.entryFault d k g = some
      { cause := if g.cell.toNat ∈ segmentCells before then .foreign else (b.entryCause d g).1
        segment := k
        cell := if g.cell.toNat ∈ segmentCells before then some g.cell.toNat else (b.entryCause d g).2 } := by
  by_cases again : g.cell.toNat ∈ segmentCells before
  · obtain ⟨h, mem, same⟩ := List.mem_map.1 again
    have present : g.cell.toNat < 16384 := same ▸ (sound h mem).1
    have given : b'.owner g.cell.toNat ≠ .desc d := by
      rw [owner, if_pos again]
      split <;> nofun
    rw [BufferManager.entryFault_foreign present given, if_pos again, if_pos again]
  · have first : b'.owner g.cell.toNat = b.owner g.cell.toNat := (owner _).trans (if_neg again)
    rw [BufferManager.entryFault_congr first, BufferManager.entryFault_unsound (fails.resolve_right again),
      if_neg again, if_neg again]

section
variable {b : BufferManager} {d : Nat}

/-- A release walk of sound entries passes them all; then the sum is checked. -/
theorem BufferManager.releaseWalk_of_sound (wf : Table.wf Owner.free b.owners = true)
    (parity : (b.desc d).parityOk = true) (sound : ∀ g ∈ (b.desc d).segs, b.Sound d g)
    (nodup : (segmentCells (b.desc d).segs).Nodup) : ∃ b',
      b.releaseWalk d = (sumFault (segmentTotal (b.desc d).segs) (b.desc d).length.toNat (b.desc d).segs.length, b')
        ∧ b' = { b with owners := b'.owners, freeCells := b'.freeCells }
        ∧ b'.freeCells.toList = b.freeCells.toList
            ++ (segmentCells (b.desc d).segs).filter (fun c => decide ((b.desc d).badCell ≠ some c))
        ∧ ∀ c, b'.owner c = if c ∈ segmentCells (b.desc d).segs then
            (if (b.desc d).badCell = some c then .retired else .free) else b.owner c := by
  obtain ⟨b', run, -, pools, freeCells, owner⟩ := BufferManager.releaseEntries_sound d (b.desc d).badCell
    (b.desc d).length.toNat [] (b.desc d).segs 1 0 b wf sound nodup
  rw [List.append_nil, ← BufferManager.releaseWalk_of_parity parity, BufferManager.releaseEntries, Nat.zero_add,
    Nat.add_sub_cancel_left] at run
  exact ⟨b', run, pools, freeCells, owner⟩

/-- A feed walk of sound entries with no word in error comes to the check of the sum. -/
theorem BufferManager.feedWalk_of_sound (parity : (b.desc d).parityOk = true)
    (sound : ∀ g ∈ (b.desc d).segs, b.Sound d g)
    (words : ∀ g ∈ (b.desc d).segs, ∀ w, w < 32 → b.wordEcc g.cell.toNat w = .sound) :
    b.feedWalk d = b.feedEntries d (b.desc d) [] (1 + (b.desc d).segs.length) (segmentTotal (b.desc d).segs)
      ((b.desc d).length.toNat - segmentTotal (b.desc d).segs) 0
      (((b.desc d).segs.flatMap fun g => b.mem.readBytes (256 * g.cell.toNat) g.count.toNat).take
        (b.desc d).length.toNat) := by
  have run := b.feedEntries_sound d (b.desc d) [] (b.desc d).segs 1 0 (b.desc d).length.toNat [] sound words
  rwa [List.append_nil, ← BufferManager.feedWalk_of_parity parity, Nat.zero_add, List.nil_append] at run

variable {before after : List Segment} {g : Segment}

/-- A release walk stops at the first entry that fails, with the cells before it given back. -/
theorem BufferManager.releaseWalk_of_fault (wf : Table.wf Owner.free b.owners = true)
    (parity : (b.desc d).parityOk = true) (segs : (b.desc d).segs = before ++ g :: after)
    (sound : ∀ h ∈ before, b.Sound d h) (nodup : (segmentCells before).Nodup)
    (fails : ¬ b.Sound d g ∨ g.cell.toNat ∈ segmentCells before) : ∃ b',
      b.releaseWalk d = (some
          { cause := if g.cell.toNat ∈ segmentCells before then .foreign else (b.entryCause d g).1
            segment := before.length + 1
            cell := if g.cell.toNat ∈ segmentCells before then some g.cell.toNat else (b.entryCause d g).2 }, b')
        ∧ b' = { b with owners := b'.owners, freeCells := b'.freeCells }
        ∧ b'.freeCells.toList = b.freeCells.toList
            ++ (segmentCells before).filter (fun c => decide ((b.desc d).badCell ≠ some c))
        ∧ ∀ c, b'.owner c = if c ∈ segmentCells before then
            (if (b.desc d).badCell = some c then .retired else .free) else b.owner c := by
  obtain ⟨b', run, -, pools, freeCells, owner⟩ := BufferManager.releaseEntries_sound d (b.desc d).badCell
    (b.desc d).length.toNat (g :: after) before 1 0 b wf sound nodup
  rw [← segs, ← BufferManager.releaseWalk_of_parity parity, Nat.add_comm 1, BufferManager.releaseEntries_fault
    (BufferManager.entryFault_passed owner sound fails _)] at run
  exact ⟨b', run, pools, freeCells, owner⟩

/-- A feed walk stops at the first entry that is not sound, with the bytes before it passed on. -/
theorem BufferManager.feedWalk_of_unsound (parity : (b.desc d).parityOk = true)
    (segs : (b.desc d).segs = before ++ g :: after) (sound : ∀ h ∈ before, b.Sound d h)
    (words : ∀ h ∈ before, ∀ w, w < 32 → b.wordEcc h.cell.toNat w = .sound) (unsound : ¬ b.Sound d g) :
    b.feedWalk d = .fault
      { cause := (b.entryCause d g).1, segment := before.length + 1, cell := (b.entryCause d g).2 }
      ((before.flatMap fun h => b.mem.readBytes (256 * h.cell.toNat) h.count.toNat).take
        (b.desc d).length.toNat) := by
  have run := b.feedEntries_sound d (b.desc d) (g :: after) before 1 0 (b.desc d).length.toNat [] sound words
  rw [← segs, ← BufferManager.feedWalk_of_parity parity, BufferManager.feedEntries, if_pos rfl,
    BufferManager.entryFault_unsound unsound] at run
  rw [run, Nat.add_comm, List.nil_append]

end

/-! ### A feed walk that stands at a segment (R27, R28) -/

theorem lt_ceilDiv_eight {j n : Nat} : j < ceilDiv n 8 ↔ 8 * j < n := by
  unfold ceilDiv
  omega

section
variable {b : BufferManager} {d k : Nat} {w : FeedWalk}

/-- After the last entry the sum is checked. -/
theorem BufferManager.feedOn_end (parity : w.read.parityOk = true) (no_rest : w.rest = []) : b.feedOn d k w =
    if w.sum = w.read.length.toNat then .clean w.bytes
    else .fault { cause := .lengthMismatch, segment := k - 1, cell := none } w.bytes := by
  rw [BufferManager.feedOn, if_pos parity, no_rest, BufferManager.feedEntries, sumFault]
  split_ifs <;> rfl

variable {g : Segment} {rest : List Segment}

/-- An entry of which no word has been read is checked first. -/
theorem BufferManager.feedOn_unsound (parity : w.read.parityOk = true) (at_entry : w.rest = g :: rest)
    (unread : w.word = 0) (unsound : ¬ b.Sound d g) : b.feedOn d k w =
      .fault { cause := (b.entryCause d g).1, segment := k, cell := (b.entryCause d g).2 } w.bytes := by
  rw [BufferManager.feedOn, if_pos parity, at_entry, BufferManager.feedEntries, if_pos unread,
    BufferManager.entryFault_unsound unsound]

/-- The check of an entry does not stop a walk that has read words of it. -/
theorem BufferManager.entry_checked (sound : w.word = 0 → b.Sound d g) :
    (if w.word = 0 then b.entryFault d k g else none) = none := by
  split_ifs with unread
  · exact BufferManager.entryFault_sound (sound unread)
  · rfl

/-- With no error in the words to come their bytes are passed on and the next entry is taken. -/
theorem BufferManager.feedOn_segment (parity : w.read.parityOk = true) (at_entry : w.rest = g :: rest)
    (sound : w.word = 0 → b.Sound d g)
    (clean : ∀ j, w.word ≤ j → 8 * j < min g.count.toNat w.left → b.wordEcc g.cell.toNat j = .sound) :
    b.feedOn d k w = b.feedOn d (k + 1)
      { w with
        rest := rest
        sum := w.sum + g.count.toNat
        left := w.left - min g.count.toNat w.left
        word := 0
        bytes := w.bytes ++ b.mem.readBytes (256 * g.cell.toNat + 8 * w.word)
          (min g.count.toNat w.left - 8 * w.word) } := by
  have no_error := BufferManager.firstError_none fun j from_ below => clean j from_ (lt_ceilDiv_eight.1 below)
  rw [BufferManager.feedOn, if_pos parity, at_entry, BufferManager.feedEntries, BufferManager.entry_checked sound]
  simp only [no_error, BufferManager.feedOn, parity, if_true, Memory.cellAddress, Config.cellBytes_eq]

variable {e : Nat}

/-- An uncorrectable word ends the walk before its bytes (R28, R29). -/
theorem BufferManager.feedOn_uncorrectable (parity : w.read.parityOk = true) (at_entry : w.rest = g :: rest)
    (sound : w.word = 0 → b.Sound d g) (from_ : w.word ≤ e) (below : 8 * e < min g.count.toNat w.left)
    (first : ∀ j, w.word ≤ j → j < e → b.wordEcc g.cell.toNat j = .sound)
    (error : b.wordEcc g.cell.toNat e = .uncorrectable) :
    b.feedOn d k w = .fault { cause := .uncorrectable, segment := k, cell := some g.cell.toNat }
      (w.bytes ++ b.mem.readBytes (256 * g.cell.toNat + 8 * w.word) (8 * e - 8 * w.word)) := by
  have found := BufferManager.firstError_some from_ (lt_ceilDiv_eight.2 below) first (by rw [error]; nofun)
  rw [BufferManager.feedOn, if_pos parity, at_entry, BufferManager.feedEntries, BufferManager.entry_checked sound]
  simp only [found, error, if_true, Memory.cellAddress, Config.cellBytes_eq]

/-- A word with a single-bit error is passed on, and the walk stands behind it (R28). -/
theorem BufferManager.feedOn_single (parity : w.read.parityOk = true) (at_entry : w.rest = g :: rest)
    (sound : w.word = 0 → b.Sound d g) (from_ : w.word ≤ e) (below : 8 * e < min g.count.toNat w.left)
    (first : ∀ j, w.word ≤ j → j < e → b.wordEcc g.cell.toNat j = .sound)
    (error : b.wordEcc g.cell.toNat e = .single) :
    b.feedOn d k w = .corrected k
      { w with
        word := e + 1
        bytes := w.bytes ++ b.mem.readBytes (256 * g.cell.toNat + 8 * w.word)
          (min (8 * (e + 1)) (min g.count.toNat w.left) - 8 * w.word) } := by
  have found := BufferManager.firstError_some from_ (lt_ceilDiv_eight.2 below) first (by rw [error]; nofun)
  rw [BufferManager.feedOn, if_pos parity, at_entry, BufferManager.feedEntries, BufferManager.entry_checked sound]
  simp only [found, error, reduceCtorEq, if_false, Memory.cellAddress, Config.cellBytes_eq]

end

/-! ### A release (R26, R158 to R160, R163, R164) -/

/-- What a release raises, by the reason it ends with (R72). -/
theorem Reason.counts_eq (reason : Reason) (length : Nat) :
    reason.counts length = fun c => c.afterRelease reason length := by
  funext c
  cases reason <;> rfl

/-- A frame that ends with CHAIN_FAULT raises no byte count. -/
theorem Reason.counts_chainFault (length : Nat) :
    Reason.counts .chainFault 0 = fun c => c.afterRelease .chainFault length := rfl

/-- The record of the station whose counters a release raises, when nothing else of the release touches the records. -/
theorem State.station_count_eq {s t : State} (same : t.stations = s.stations) (i : Nat)
    (f : StationCounters → StationCounters) : (t.count i f).station i =
      if (s.station i).admin = .free then s.station i
      else { s.station i with counters := f (s.station i).counters } := by
  have record : t.station i = s.station i := State.station_congr same i
  split_ifs with free
  · rw [State.count, record, if_pos free, record]
  · rw [t.station_count_same i f (record ▸ free), record]

/-- The descriptor, the Disposal List and the counters are all that a disposal changes. -/
theorem State.count_dispose_eq (v : State) (i d : Nat) (reason : Reason) (f : StationCounters → StationCounters) :
    (v.dispose d reason).count i f = { v with
      bm := { v.bm with descs := ((v.dispose d reason).count i f).bm.descs }
      disposal := v.disposal ++ [d]
      stations := ((v.dispose d reason).count i f).stations } := by
  apply State.ext_fields <;> simp [BufferManager.setDesc]

theorem State.count_toReclaim_eq (v : State) (i d : Nat) (f : StationCounters → StationCounters) :
    (v.toReclaim d).count i f = { v with
      bm := { v.bm with descs := ((v.toReclaim d).count i f).bm.descs, reclaim := v.bm.reclaim ++ [d] }
      stations := ((v.toReclaim d).count i f).stations } := by
  apply State.ext_fields <;> simp [BufferManager.setDesc]

theorem State.desc_count_dispose (v : State) (i d : Nat) (reason : Reason) (f : StationCounters → StationCounters) :
    ((v.dispose d reason).count i f).desc d = { v.desc d with reason := some reason, place := .disposal } := by
  rw [State.desc_congr (s := v.dispose d reason) (by simp)]
  exact v.desc_setDesc_same d (Descriptor.ne_cleared (by simp))

theorem State.desc_count_toReclaim (v : State) (i d : Nat) (f : StationCounters → StationCounters) :
    ((v.toReclaim d).count i f).desc d = { v.desc d with reason := some .chainFault, place := .reclaim } := by
  rw [State.desc_congr (s := v.toReclaim d) (by simp)]
  exact v.desc_setDesc_same d (Descriptor.ne_cleared (by simp))

theorem State.release_marked {s : State} {d : Nat} (marked : (s.desc d).reason = some .chainFault) (i : Nat)
    (reason : Reason) : s.release i d reason = (s.toReclaim d).count i (Reason.counts .chainFault 0) :=
  if_pos marked

theorem State.release_clean {s : State} {d : Nat} (unmarked : (s.desc d).reason ≠ some .chainFault)
    (clean : (s.bm.releaseWalk d).1 = none) (i : Nat) (reason : Reason) : s.release i d reason =
      ((s.withPools (s.bm.releaseWalk d).2).dispose d reason).count i
        (reason.counts (s.desc d).length.toNat) := by
  rw [State.release, if_neg unmarked, ← Prod.eta (s.bm.releaseWalk d), clean]

theorem State.release_faulty {s : State} {d : Nat} {f : WalkFault}
    (unmarked : (s.desc d).reason ≠ some .chainFault) (fault : (s.bm.releaseWalk d).1 = some f) (i : Nat)
    (reason : Reason) : s.release i d reason =
      ((((s.withPools (s.bm.releaseWalk d).2).reportFault .release i (s.desc d).cookie f).claimFault .release i).toReclaim
        d).count i (Reason.counts .chainFault 0) := by
  rw [State.release, if_neg unmarked, ← Prod.eta (s.bm.releaseWalk d), fault]

/-- A walk that changes the owners and the free cells leaves the PAUSE state to be evaluated, and nothing else (R36). -/
theorem BufferManager.evaluateFrom_eq {old b : BufferManager} (held : Bool)
    (pools : b = { old with owners := b.owners, freeCells := b.freeCells }) :
    BufferManager.evaluateFrom held old b = { old with
      owners := b.owners, freeCells := b.freeCells
      pauseWanted := (BufferManager.evaluateFrom held old b).pauseWanted } := by
  cases b
  cases old
  simp only [BufferManager.mk.injEq, true_and] at pools
  obtain ⟨rfl, rfl, rfl, rfl, rfl, -, rfl, rfl⟩ := pools
  rfl

/-- The state right after a walk has given pools `b`: PAUSE evaluated, HALTED entered if a retirement makes it due. -/
theorem State.withPools_halted (s : State) (b : BufferManager) : s.withPools b =
    if s.bm.retiredCount < (BufferManager.evaluateFrom s.startUnsent s.bm b).retiredCount then
      State.haltedIfDue { s with bm := BufferManager.evaluateFrom s.startUnsent s.bm b }
    else { s with bm := BufferManager.evaluateFrom s.startUnsent s.bm b } := by
  rw [State.withPools, State.checkRetired_eq]
  rfl

/-- A fault of a release is a chain fault: counted as one, reported and handed on (R160, R163, R164). -/
theorem State.claimFault_reportFault {f : WalkFault} (cause : f.cause ≠ .uncorrectable) (s : State) (phase : Phase) (i : Nat)
    (cookie : BitVec 32) : (s.reportFault phase i cookie f).claimFault phase i = { s with
      ctr := { s.ctr with chainFaults := s.ctr.chainFaults + 1 }
      events := s.events.put s.timeBase (.fault f.cause phase i cookie f.cell f.segment)
      faultClaims := s.faultClaims ++ [{ station := i, admin := (s.station i).admin, phase := phase }] } := by
  rw [State.reportFault, if_neg cause]
  rfl

/-- Settles O36: the entries by the laws of the two walks, a release by the three ends it can come to. -/
theorem walksCheckInOrder : Obligations.WalksCheckInOrder := by
  refine ⟨fun b d => ⟨BufferManager.walks_of_wrong_parity, fun parity sound => ⟨fun wf nodup => ?_, fun words => ?_⟩,
      fun before g after wf parity segs sound nodup fails => ?_,
      fun _ _ _ => BufferManager.feedWalk_of_unsound⟩,
    fun b d k w parity => ⟨BufferManager.feedOn_end parity, fun g rest => BufferManager.feedOn_unsound parity,
      fun g rest at_entry sound => ⟨BufferManager.feedOn_segment parity at_entry sound,
        fun e from_ below first => ⟨BufferManager.feedOn_uncorrectable parity at_entry sound from_ below first,
          BufferManager.feedOn_single parity at_entry sound from_ below first⟩⟩⟩,
    fun s i d reason => ?_, fun _ _ _ _ _ => ⟨rfl, rfl⟩⟩
  · obtain ⟨b', run, pools, freeCells, owner⟩ := BufferManager.releaseWalk_of_sound wf parity sound nodup
    rw [run]
    exact ⟨rfl, freeCells, owner, pools⟩
  · rw [BufferManager.feedWalk_of_sound parity sound words]
    by_cases sums : segmentTotal (b.desc d).segs = (b.desc d).length.toNat <;>
      simp [BufferManager.feedEntries, sumFault, sums]
  · obtain ⟨b', run, pools, freeCells, owner⟩ := BufferManager.releaseWalk_of_fault wf parity segs sound nodup fails
    rw [run]
    exact ⟨rfl, freeCells, owner, pools⟩
  · have others := (s.release_ends i d reason).2
    have stations := fun j (ne : j ≠ i) => s.station_release_ne d reason ne
    by_cases marked : (s.desc d).reason = some .chainFault
    · have final := State.release_marked marked i reason
      rw [final] at others stations
      refine ⟨s, _, final, by simp [marked], by simp [PauseFollows], ?_, ?_, others, ?_, stations⟩
      · simpa [marked] using s.count_toReclaim_eq i d _
      · simpa [marked] using s.desc_count_toReclaim i d _
      · simpa [marked, Reason.counts_chainFault (s.desc d).length.toNat] using
          State.station_count_eq (State.toReclaim_stations s d) i _
    obtain ⟨b, walked⟩ : ∃ b, (s.bm.releaseWalk d).2 = b := ⟨_, rfl⟩
    have pools := s.bm.releaseWalk_eq d
    rw [walked] at pools
    have pause : PauseFollows s { s with bm := BufferManager.evaluateFrom s.startUnsent s.bm b } :=
      pauseFollows_evaluateFrom rfl (by rw [pools])
    have written := BufferManager.evaluateFrom_eq s.startUnsent pools
    have reclaim := congrArg BufferManager.reclaim written
    have desc : (s.withPools b).desc d = s.desc d := State.desc_withPools (by rw [pools]) d
    cases fault : (s.bm.releaseWalk d).1 with
    | none =>
      have final := State.release_clean marked fault i reason
      rw [final] at others stations
      rw [walked] at final others stations
      refine ⟨{ s with bm := BufferManager.evaluateFrom s.startUnsent s.bm b }, _, final,
        ?_, pause, ?_, ?_, others, ?_, stations⟩
      · simpa [marked, fault, walked] using written
      · simp only [marked, fault, ← State.withPools_halted, false_or, ne_eq, not_true, if_false, if_true]
        refine (State.count_dispose_eq _ i d reason _).trans ?_
        simp [State.withPools_bm, reclaim]
      · simpa [marked, fault, desc] using (s.withPools b).desc_count_dispose i d reason _
      · simpa [marked, fault, Reason.counts_eq] using
          State.station_count_eq (t := (s.withPools b).dispose d reason) (s := s) (by simp) i _
    | some f =>
      have final := State.release_faulty marked fault i reason
      rw [final] at others stations
      rw [walked] at final others stations
      have admin : ((s.withPools b).station i).admin = (s.station i).admin :=
        congrArg Station.admin (State.station_congr (State.withPools_stations s b) i)
      have handedOn := State.claimFault_reportFault (BufferManager.releaseWalk_cause fault) (s.withPools b) .release i
        (s.desc d).cookie
      have faultDesc : (((s.withPools b).reportFault .release i (s.desc d).cookie f).claimFault .release i).desc d =
          s.desc d := (State.desc_congr (by simp) d).trans desc
      refine ⟨{ s with bm := BufferManager.evaluateFrom s.startUnsent s.bm b }, _, final,
        ?_, pause, ?_, ?_, others, ?_, stations⟩
      · simpa [marked, fault, walked] using written
      · simp only [marked, fault, ← State.withPools_halted, false_or, ne_eq, reduceCtorEq, not_false_eq_true,
          if_false, if_true]
        refine (State.count_toReclaim_eq _ i d _).trans ?_
        simp [State.withPools_bm, reclaim, handedOn, admin]
      · simpa [marked, fault, faultDesc] using State.desc_count_toReclaim
          (((s.withPools b).reportFault .release i (s.desc d).cookie f).claimFault .release i) i d _
      · simpa [marked, fault, Reason.counts_chainFault (s.desc d).length.toNat] using
          State.station_count_eq (by simp) i _

end Sys2Proof.Machine
end

section
/-! PROOFS. The statements about downlink admission: the decision, refusals, waiting, acceptance and the append. -/

set_option Elab.async false

namespace Sys2Proof.Machine

/-! ### What the three commands come to -/

section
variable {s : State} {e : IngressEntry} {rest : List IngressEntry}

theorem exec_admissionDecision (idle : s.adm = .idle) (head : s.rx.ingress = e :: rest) :
    exec .admissionDecision s = .next (s.decideAdmission e) := by
  simp only [exec, execAdmissionDecision, idle, head]

theorem exec_admissionRetry_of_none_free (empty : s.bm.freeDescs.toList = []) : exec .admissionRetry s = .next s := by
  have count : s.bm.freeDescs.count = 0 := by rw [Runs.count_eq, empty]; rfl
  simp only [exec, execAdmissionRetry, count, if_true]
  split <;> rfl

theorem exec_admissionRetry_of_free (waiting : s.adm = .waiting) (head : s.rx.ingress = e :: rest)
    (free : s.bm.freeDescs.toList ≠ []) : exec .admissionRetry s = .next (s.decideAdmission e) := by
  have count : s.bm.freeDescs.count ≠ 0 := by rw [Runs.count_eq]; exact fun h => free (List.length_eq_zero_iff.1 h)
  simp only [exec, execAdmissionRetry, waiting, head, if_neg count]

/-- APPEND on the state in which the frame has been written (R47, R49): the rechecks read nothing the write changes. -/
theorem exec_append {d : Nat} (writing : s.adm = .writing d) (head : s.rx.ingress = e :: rest) :
    exec .append s = .next
      ((s.appendFault e).elim ((s.written d e).enqueue e d) ((s.written d e).refuseLate e d)) := by
  have again : (s.written d e).appendFault e = s.appendFault e := rfl
  simp only [State.written, writing] at again
  simp only [exec, execAppend, State.written, writing, head, again]
  cases s.appendFault e <;> rfl

end

/-- Writing one descriptor leaves every other as it reads. -/
theorem otherDescsKeep_of_set {s t : State} {d : Nat} {x : Descriptor}
    (written : t.bm.descs = Table.set Descriptor.cleared s.bm.descs d x) : OtherDescsKeep s t [d] := by
  intro other absent
  have ne : other ≠ d := by simpa using absent
  rw [State.desc, BufferManager.desc, written]
  exact Table.get_set_ne _ _ _ _ _ ne

/-! ### The answer to a refused frame (R45)

A refusal at the decision and one at the append end alike: the descriptor is written over the pools `b` that the claim,
or the cells given back, have left, and joins the Disposal List. -/

/-- The state after the frame `e` has been answered on descriptor `d`, over pools `b`. -/
def State.afterRefusal (s : State) (b : BufferManager) (d : Nat) (e : IngressEntry) (reason : Reason) : State :=
  { s with
    adm := .idle
    rx := { s.rx with ingress := s.rx.ingress.drop 1 }
    disposal := s.disposal ++ [d]
    bm := BufferManager.evaluateFrom s.startUnsent s.bm (b.setDesc d (refusedDesc e reason))
    stations := (s.countRefusal e).stations }

/-- The count of a refusal depends on the Station Table alone. -/
theorem State.countRefusal_stations_congr {s t : State} (h : t.stations = s.stations) (e : IngressEntry) :
    (t.countRefusal e).stations = (s.countRefusal e).stations := by
  unfold State.countRefusal State.count
  rw [State.station_congr h]
  split
  · split
    · exact h
    · rw [State.setStation, State.setStation, h]
  · exact h

/-- Counting a refusal changes the Station Table alone, and depends on nothing else. -/
theorem State.countRefusal_over {s t : State} (h : t.stations = s.stations) (e : IngressEntry) :
    t.countRefusal e = { t with stations := (s.countRefusal e).stations } := by
  rw [← State.countRefusal_stations_congr h e]
  exact t.countRefusal_eq e

/-- With no cell retired the model's answer is `State.afterRefusal`. -/
theorem State.afterRefusal_eq {s : State} {b : BufferManager} (retired : b.retiredCount ≤ s.bm.retiredCount) (d : Nat)
    (e : IngressEntry) (reason : Reason) :
    (({ s.withPools (b.setDesc d (refusedDesc e reason)) with
          disposal := (s.withPools (b.setDesc d (refusedDesc e reason))).disposal ++ [d] } : State).countRefusal
        e).admissionEnds = s.afterRefusal b d e reason := by
  rw [s.withPools_of_le (b.setDesc d _) retired]
  exact congrArg State.admissionEnds (State.countRefusal_over (by rfl) e)

/-- The answer does not depend on the state of the Admission Unit. -/
theorem State.afterRefusal_withAdm (s : State) (a : Admission) (b : BufferManager) (d : Nat) (e : IngressEntry)
    (reason : Reason) : ({ s with adm := a } : State).afterRefusal b d e reason = s.afterRefusal b d e reason := by
  rw [State.afterRefusal, State.countRefusal_stations_congr (s := s) (t := { s with adm := a }) rfl]
  rfl

section
variable (s : State) {b : BufferManager} (d : Nat) (e : IngressEntry) (reason : Reason)

theorem State.afterRefusal_desc : (s.afterRefusal b d e reason).desc d = refusalDescriptor e reason :=
  b.desc_setDesc_same d (Descriptor.ne_cleared (by simp [refusedDesc]))

theorem State.afterRefusal_station_ne : OtherStationsKeep s (s.afterRefusal b d e reason) e.station.toNat :=
  fun j ne => s.station_countRefusal_ne e j ne

theorem State.afterRefusal_desc_ne (descs : b.descs = s.bm.descs) :
    OtherDescsKeep s (s.afterRefusal b d e reason) [d] :=
  otherDescsKeep_of_set (by rw [← descs]; rfl)

theorem State.afterRefusal_pause (pause : b.pauseWanted = s.bm.pauseWanted) :
    PauseFollows s (s.afterRefusal b d e reason) :=
  pauseFollows_evaluateFrom rfl pause

end

/-! ### Refusals at the decision (R38, R45) -/

/-- With a descriptor free a refusal takes the head of the free list and nothing else of the pools. -/
theorem State.refuse_of_free {s : State} {d : Nat} {descs : Runs} (head : s.bm.freeDescs.pop = some (d, descs))
    (e : IngressEntry) (reason : Reason) :
    s.refuse e reason = s.afterRefusal { s.bm with freeDescs := descs } d e reason := by
  have claimed : s.bm.claimToRefuse = some (d, { s.bm with freeDescs := descs }) := by
    rw [BufferManager.claimToRefuse, head]
  rw [State.refuse, claimed]
  exact State.afterRefusal_eq (b := { s.bm with freeDescs := descs }) (le_refl _) d e reason

/-- Settles O16: the first failing check is the verdict, and a refusal is the answer on the head free descriptor. -/
theorem admissionRefusesByFirstFailingCheck : Obligations.AdmissionRefusesByFirstFailingCheck := by
  unfold Obligations.AdmissionRefusesByFirstFailingCheck
  intro s e rest reason d free idle head fails freeHead
  obtain ⟨descs, popped, left⟩ := Runs.exists_pop freeHead
  refine ⟨s.afterRefusal { s.bm with freeDescs := descs } d e reason, ?_, ?_, left, s.afterRefusal_desc d e reason,
    s.afterRefusal_desc_ne d e reason rfl, s.afterRefusal_pause d e reason rfl, s.afterRefusal_station_ne d e reason,
    s.station_countRefusal e⟩
  · rw [exec_admissionDecision idle head, State.decideAdmission_refuses fails, State.refuse_of_free popped]
  · simp only [State.afterRefusal, head, List.drop_one, List.tail_cons, ← idle]
    rfl

/-! ### Acceptance (R38, R44, R48) -/

/-- An accepted frame's state: the claim changes the pools alone, as no cell is retired by it. -/
theorem State.decideAdmission_accepted {s : State} {e : IngressEntry} (passes : s.admissionVerdict e = none) :
    ∃ d cells b, s.bm.claimToQueue e.declared.toNat = some (d, cells, b) ∧ s.decideAdmission e =
      { s with
        adm := .writing d
        bm := BufferManager.evaluateFrom s.startUnsent s.bm (b.setDesc d (acceptedDesc e cells)) } := by
  obtain ⟨d, cells, b, claimed, decided⟩ := State.decideAdmission_accepts passes
  obtain ⟨-, -, -, -, -, -, -, retired⟩ := BufferManager.claimToQueue_some claimed
  exact ⟨d, cells, b, claimed, by rw [decided, s.withPools_of_le (b.setDesc d _) retired]⟩

/-- Settles O18: the claim to queue takes the head descriptor and the cells, and PAUSE is evaluated after it. -/
theorem admissionAcceptsIntoWriting : Obligations.AdmissionAcceptsIntoWriting := by
  unfold Obligations.AdmissionAcceptsIntoWriting
  intro s e rest d free idle head passes freeHead n cells
  obtain ⟨d', cells', b, claimed, decided⟩ := State.decideAdmission_accepted passes
  obtain ⟨descHead, taken, enough, left, owners, form, -, -⟩ := BufferManager.claimToQueue_some claimed
  obtain ⟨rfl, rfl⟩ : d = d' ∧ free = b.freeDescs.toList := by simpa using freeHead.symm.trans descHead
  have cells_eq : cells' = cells := taken
  subst cells_eq
  refine ⟨s.decideAdmission e, exec_admissionDecision idle head, ?_, List.length_take_of_le enough, ?_, ?_, ?_, ?_, ?_,
    ?_⟩
  all_goals rw [decided]
  · rw [form]
    rfl
  · rfl
  · exact left
  · exact owners
  · refine (b.desc_setDesc_same d (Descriptor.ne_cleared (by simp [acceptedDesc]))).trans ?_
    rw [acceptedDesc, segmentsOver_eq]
    rfl
  · exact otherDescsKeep_of_set (by rw [form]; rfl)
  · exact pauseFollows_evaluateFrom rfl (by rw [BufferManager.setDesc_pauseWanted, form])

/-! ### Waiting for a descriptor (R46) -/

/-- With none free the unit waits (R46). -/
theorem State.refuse_of_none_free {s : State} (empty : s.bm.freeDescs.toList = []) (e : IngressEntry)
    (reason : Reason) : s.refuse e reason = { s with adm := .waiting } := by
  rw [State.refuse, (BufferManager.claimToRefuse_none s.bm).2 empty]

/-- Check 8 fails when no descriptor is free (R44), so no frame is accepted. -/
theorem State.admissionVerdict_of_none_free {s : State} (empty : s.bm.freeDescs.toList = []) (e : IngressEntry) :
    ∃ reason, s.admissionVerdict e = some reason := by
  unfold State.admissionVerdict
  split
  case h_1 reason _ => exact ⟨reason, rfl⟩
  case h_2 => exact ⟨.noBuffer, if_neg (by simp [empty])⟩

/-- The decision does not read the state of the Admission Unit: made afresh in WAITING it is the decision made in IDLE
(R46). -/
theorem State.decideAdmission_idle {s : State} (e : IngressEntry) (free : s.bm.freeDescs.toList ≠ []) :
    ({ s with adm := .idle } : State).decideAdmission e = s.decideAdmission e
      ∧ (s.decideAdmission e).adm ≠ .waiting := by
  have same : ({ s with adm := .idle } : State).admissionVerdict e = s.admissionVerdict e := rfl
  cases verdict : s.admissionVerdict e with
  | none =>
    obtain ⟨d, cells, b, claimed, decided⟩ := State.decideAdmission_accepted verdict
    obtain ⟨d', cells', b', claimed', decided'⟩ := State.decideAdmission_accepted (same.trans verdict)
    obtain ⟨rfl, rfl, rfl⟩ : d = d' ∧ cells = cells' ∧ b = b' := by simpa using claimed.symm.trans claimed'
    rw [decided, decided']
    exact ⟨rfl, nofun⟩
  | some reason =>
    obtain ⟨d, others, head⟩ := List.exists_cons_of_ne_nil free
    obtain ⟨descs, popped, -⟩ := Runs.exists_pop head
    rw [State.decideAdmission_refuses verdict, State.refuse_of_free popped,
      State.decideAdmission_refuses (same.trans verdict), State.refuse_of_free (s := { s with adm := .idle }) popped]
    exact ⟨s.afterRefusal_withAdm .idle _ d e reason, nofun⟩

/-- Settles O17: with no descriptor free every verdict is a failure, whose refusal waits. -/
theorem admissionWaitsForDescriptor : Obligations.AdmissionWaitsForDescriptor := by
  unfold Obligations.AdmissionWaitsForDescriptor
  intro s e rest head
  refine ⟨fun idle empty => ?_, fun _ empty => exec_admissionRetry_of_none_free empty, fun waiting free => ?_⟩
  · obtain ⟨reason, fails⟩ := State.admissionVerdict_of_none_free empty e
    rw [exec_admissionDecision idle head, State.decideAdmission_refuses fails, State.refuse_of_none_free empty]
  · obtain ⟨afresh, ended⟩ := State.decideAdmission_idle e free
    exact ⟨s.decideAdmission e, exec_admissionRetry_of_free waiting head free,
      by rw [exec_admissionDecision (s := { s with adm := .idle }) rfl head, afresh], ended⟩

/-! ### The append: the frame queued (R47, R49, R51) -/

/-- Descriptor `d` as it is queued: stamped and written whole (R49). -/
def State.queuedDesc (s : State) (d : Nat) : Descriptor :=
  { s.desc d with stamp := s.timeBase, place := .queued, parityOk := true }

/-- A record with `d` at the tail of its queue. -/
def Station.queueing (d : Nat) (r : Station) : Station := { r with queue := r.queue ++ [d] }

/-- The frame joins its station's queue in one claim on the record. -/
theorem State.enqueue_eq_change (s : State) (e : IngressEntry) (d : Nat) : s.enqueue e d =
    ((s.setDesc d (s.queuedDesc d)).change e.station.toNat false (Station.queueing d)).admissionEnds := rfl

/-- The claim can move the station on the lists and does nothing else. -/
theorem State.enqueue_eq (s : State) (e : IngressEntry) (d : Nat) : s.enqueue e d =
    { s with
      adm := .idle
      rx := { s.rx with ingress := s.rx.ingress.drop 1 }
      bm := s.bm.setDesc d (s.queuedDesc d)
      stations := (s.enqueue e d).stations
      sched := { s.sched with
        entryList := (s.enqueue e d).sched.entryList
        roundList := (s.enqueue e d).sched.roundList } } :=
  (s.enqueue_eq_change e d).trans (congrArg State.admissionEnds (State.change_eq _ _ _ _))

theorem State.station_enqueue_ne (s : State) (e : IngressEntry) (d : Nat) :
    OtherStationsKeep s (s.enqueue e d) e.station.toNat := fun _ ne =>
  State.station_change_ne (s.setDesc d (s.queuedDesc d)) false (Station.queueing d) ne

section
variable (s : State) {e : IngressEntry} (d : Nat) (inUse : (s.station e.station.toNat).admin ≠ .free)
include inUse

theorem State.station_enqueue : (s.enqueue e d).station e.station.toNat =
    { s.station e.station.toNat with
      queue := (s.station e.station.toNat).queue ++ [d]
      list := ((s.enqueue e d).station e.station.toNat).list } :=
  State.station_change (s := s.setDesc d (s.queuedDesc d)) (f := Station.queueing d) false inUse

theorem State.listsFollow_enqueue : ListsFollow s (s.enqueue e d) e.station.toNat false :=
  State.listsFollow_change (s := s.setDesc d (s.queuedDesc d)) (f := Station.queueing d) false inUse rfl

end

/-- Settles O19: the append writes the descriptor and makes one claim on the record of the station. -/
theorem appendQueuesFrame : Obligations.AppendQueuesFrame := by
  unfold Obligations.AppendQueuesFrame
  intro s d e rest writing head passed i
  rw [firstFailure_append] at passed
  have inUse : (s.station i).admin ≠ .free := State.admin_of_appendFault_none passed
  have queued := (s.written d e).enqueue_eq e d
  refine ⟨(s.written d e).enqueue e d, by rw [exec_append writing head, passed]; rfl, ?_, ?_, ?_, ?_, ?_, ?_⟩
  · rw [queued, State.written, head]
    rfl
  · rw [queued]
    exact BufferManager.desc_setDesc_same _ d (Descriptor.ne_cleared (by simp [State.queuedDesc]))
  · exact otherDescsKeep_of_set (by rw [queued]; rfl)
  · exact (s.written d e).station_enqueue d inUse
  · exact (s.written d e).station_enqueue_ne e d
  · exact (s.written d e).listsFollow_enqueue d inUse

/-! ### The append: the frame refused late (R50) -/

theorem State.refuseLate_eq (s : State) (e : IngressEntry) (d : Nat) (reason : Reason) :
    s.refuseLate e d reason = s.afterRefusal (s.bm.giveBack d (s.desc d).segs) d e reason :=
  State.afterRefusal_eq (BufferManager.retiredCount_giveBack_le d _ s.bm) d e reason

/-- Settles O20: the cells are given back in order, and the refusal is the answer on the descriptor held. -/
theorem appendRefusesLate : Obligations.AppendRefusesLate := by
  unfold Obligations.AppendRefusesLate
  rintro s d e rest reason ⟨-, -, -, wfOwners, -⟩ writing head failed distinct own cells
  rw [firstFailure_append] at failed
  obtain ⟨freed, owners⟩ := BufferManager.giveBack_own d (s.desc d).segs (s.written d e).bm wfOwners distinct own
  have form := (s.written d e).bm.giveBack_eq d (s.desc d).segs
  have late := (s.written d e).refuseLate_eq e d reason
  rw [show ((s.written d e).desc d).segs = (s.desc d).segs from rfl] at late
  generalize (s.written d e).bm.giveBack d (s.desc d).segs = b at freed owners form late
  refine ⟨(s.written d e).refuseLate e d reason, by rw [exec_append writing head, failed]; rfl, ?_⟩
  rw [late]
  refine ⟨?_, State.afterRefusal_desc _ d e reason, State.afterRefusal_desc_ne _ d e reason (by rw [form]), freed,
    owners, State.afterRefusal_pause _ d e reason (by rw [form]), State.afterRefusal_station_ne _ d e reason,
    (s.written d e).station_countRefusal e⟩
  rw [form, State.afterRefusal, State.written, head]
  rfl

/-! ### The bytes of the frame (R47, R21, R28) -/

/-- The cells that a segment list names are those it was made over (R21). -/
theorem mem_segmentList {cells : List Nat} (fit : ∀ c ∈ cells, c < 16384) (n c : Nat) :
    (∃ g ∈ segmentList cells n, g.cell.toNat = c) ↔ c ∈ cells := by
  have names : (segmentList cells n).map (fun g => g.cell.toNat) = cells := by
    refine List.ext_getElem (by simp [segmentList]) fun k _ listed => ?_
    have small := fit cells[k] (List.getElem_mem listed)
    simp only [segmentList, List.getElem_map, List.getElem_mapIdx, BitVec.toNat_ofNat]
    omega
  rw [← List.mem_map, names]

/-- Whichever way the append ends, packet memory is what the write has left. -/
theorem exec_append_memory {s : State} {e : IngressEntry} {rest : List IngressEntry} {d : Nat}
    (writing : s.adm = .writing d) (head : s.rx.ingress = e :: rest) : ∃ t, exec .append s = .next t
      ∧ t.bm.mem = s.bm.mem.writeFrame (s.desc d).segs e.bytes
      ∧ t.bm.ecc = eccAfterWrite s.bm.ecc (s.desc d).segs := by
  refine ⟨_, exec_append writing head, ?_⟩
  cases s.appendFault e with
  | none =>
    rw [Option.elim_none, State.enqueue_eq]
    exact ⟨rfl, rfl⟩
  | some reason =>
    rw [Option.elim_some, State.refuseLate_eq, BufferManager.giveBack_eq]
    exact ⟨rfl, rfl⟩

/-- Settles O21: a byte of the frame, or of the zeros after it, is found by the cell and the offset of its number. -/
theorem appendStoresFrameBytes : Obligations.AppendStoresFrameBytes := by
  unfold Obligations.AppendStoresFrameBytes
  rintro s d e rest cells ⟨wfMem, wfEcc, -⟩ writing head - filled most count distinct fit segs
  obtain ⟨t, final, mem, ecc⟩ := exec_append_memory writing head
  rw [segs] at mem ecc
  obtain ⟨inside, outside⟩ := Memory.read_writeFrame cells e.bytes s.bm.mem wfMem filled count distinct
    (fun c listed => (fit c listed).trans (by decide)) most
  have stored (k : Nat) (within : k < 256 * cells.length) :
      t.bm.mem.read (256 * cells.getD (k / 256) 0 + k % 256) = e.bytes.getD k 0 := by
    rw [mem, inside (k / 256) (by omega) (k % 256) (by omega), Nat.div_add_mod]
  refine ⟨t, final, fun k short => stored k (by omega), fun k past within => ?_, fun a other => ?_, fun c w low => ?_⟩
  · rw [stored k within]
    exact List.getD_eq_default _ _ past
  · rw [mem, outside a other]
  · have cell : (Config.cellWords * c + w) / 32 = c := by simp only [Config.cellWords]; omega
    rw [BufferManager.wordEcc, ecc, get_eccAfterWrite wfEcc, cell]
    simp only [mem_segmentList fit]
    rfl

end Sys2Proof.Machine
end

section
/-! PROOFS. The notes DOZE, WAKE and POLL by the admin state of the record they name (04 §4.5, O24). -/
set_option Elab.async false

namespace Sys2Proof.Machine

/-! ### The record a note names -/

/-- An index by its record: none or a FREE one, and the three other admin states. -/
theorem State.admin_cases (s : State) (i : Nat) :
    (512 ≤ i ∨ (s.station i).admin = .free) ∨ (i < 512 ∧ (s.station i).admin = .purging)
      ∨ (i < 512 ∧ (s.station i).admin = .faulted) ∨ (i < 512 ∧ (s.station i).admin = .active) := by
  rcases Nat.lt_or_ge i 512 with known | far
  · cases admin : (s.station i).admin <;> simp [known]
  · exact .inl (.inl far)

theorem State.noteAdmin_ignored {s : State} {i : Nat}
    (h : 512 ≤ i ∨ (s.station i).admin = .free ∨ (s.station i).admin = .purging) :
    s.noteAdmin i = .free ∨ s.noteAdmin i = .purging := by
  unfold State.noteAdmin
  split_ifs with known
  · rcases h with far | kept
    · exact absurd known (Nat.not_lt.2 far)
    · exact kept
  · exact .inl rfl

theorem State.noteAdmin_known {s : State} {i : Nat} (known : i < 512) : s.noteAdmin i = (s.station i).admin :=
  if_pos known

/-- A note on a record that is FREE or PURGING, or on none, is counted. -/
theorem State.doze_ignored {s : State} {i : Nat}
    (h : 512 ≤ i ∨ (s.station i).admin = .free ∨ (s.station i).admin = .purging) : s.doze i = s.ignoreNote := by
  unfold State.doze
  rcases State.noteAdmin_ignored h with e | e <;> rw [e]

theorem State.wake_ignored {s : State} {i : Nat}
    (h : 512 ≤ i ∨ (s.station i).admin = .free ∨ (s.station i).admin = .purging) : s.wake i = s.ignoreNote := by
  unfold State.wake
  rcases State.noteAdmin_ignored h with e | e <;> rw [e]

/-- A note on a FAULTED record moves its power alone; one on an ACTIVE record moves the lists with it. -/
theorem State.doze_faulted {s : State} {i : Nat} (known : i < 512) (faulted : (s.station i).admin = .faulted) :
    s.doze i = s.setStation i { s.station i with power := .dozing } := by
  simp only [State.doze, State.noteAdmin_known known, faulted]

theorem State.doze_active {s : State} {i : Nat} (known : i < 512) (active : (s.station i).admin = .active) :
    s.doze i = s.change i false fun r => { r with power := .dozing } := by
  simp only [State.doze, State.noteAdmin_known known, active]

theorem State.wake_faulted {s : State} {i : Nat} (known : i < 512) (faulted : (s.station i).admin = .faulted) :
    s.wake i = s.setStation i { s.station i with power := .awake } := by
  simp only [State.wake, State.noteAdmin_known known, faulted]

theorem State.wake_awake {s : State} {i : Nat} (known : i < 512) (active : (s.station i).admin = .active)
    (awake : (s.station i).power = .awake) : s.wake i = s := by
  simp [State.wake, State.noteAdmin_known known, active, awake]

theorem State.wake_dozing {s : State} {i : Nat} (known : i < 512) (active : (s.station i).admin = .active)
    (dozing : (s.station i).power = .dozing) :
    s.wake i = (s.cancelPoll i).change i false fun r => { r with power := .awake } := by
  simp [State.wake, State.noteAdmin_known known, active, dozing]

/-- A POLL is taken for an ACTIVE, DOZING record with no poll pending, and only for one. -/
theorem State.takePoll_eq (s : State) (i : Nat) :
    s.takePoll i =
      if i < 512 ∧ (s.station i).admin = .active ∧ (s.station i).power = .dozing ∧ (s.station i).poll = false then
        { s.setStation i { s.station i with poll := true } with
          sched := { s.sched with pollQueue := s.sched.pollQueue ++ [i] } }
      else s.ignoreNote := by
  unfold State.takePoll
  by_cases known : i < 512
  · rw [State.noteAdmin_known known]
    cases (s.station i).admin <;> simp [known]
  · have : s.noteAdmin i = .free := if_neg known
    simp [this, known]

/-! ### The write of a power state -/

/-- The power of a record outside place FREE written alone. -/
theorem State.setPower_only {s : State} {i : Nat} (p : Power) (live : (s.station i).admin ≠ .free) :
    let t := s.setStation i { s.station i with power := p }
    t = { s with stations := t.stations } ∧ OtherStationsKeep s t i ∧ t.station i = { s.station i with power := p } :=
  ⟨rfl, fun _ other => s.station_setStation_ne _ other, s.station_setStation_same i (Station.ne_free live)⟩

/-- A WAKE of a DOZING station: the poll goes first, then the lists follow the power (R69). -/
theorem State.change_power_of_cancelPoll {s : State} {i : Nat} (live : (s.station i).admin ≠ .free) :
    let t := (s.cancelPoll i).change i false fun r => { r with power := .awake }
    t = { s with
        stations := t.stations
        sched := { s.sched with
          entryList := t.sched.entryList, roundList := t.sched.roundList
          pollQueue := if (s.station i).poll = true then s.sched.pollQueue.filter (· ≠ i) else s.sched.pollQueue } }
      ∧ OtherStationsKeep s t i
      ∧ t.station i = { s.station i with power := .awake, poll := false, list := (t.station i).list }
      ∧ ListsFollow s t i false := by
  intro t
  have polled := State.station_cancelPoll_same live
  have live' : ((s.cancelPoll i).station i).admin ≠ .free := by rw [polled]; exact live
  have written := State.station_change (s := s.cancelPoll i) (i := i) false
    (f := fun r => { r with power := .awake }) live'
  have follows := State.listsFollow_change (s := s.cancelPoll i) (i := i) false
    (f := fun r => { r with power := .awake }) live' rfl
  refine ⟨?_, fun j other => ?_, ?_, ?_⟩
  · apply State.ext_fields <;> simp [t]
    apply Scheduler.ext_fields <;> simp [State.pollQueue_cancelPoll]
  · rw [State.station_change_ne _ _ _ other, State.station_cancelPoll_ne _ other]
  · exact written.trans (by rw [polled])
  · have eligible : ((s.cancelPoll i).station i).eligible = (s.station i).eligible := by rw [polled]; rfl
    have list : ((s.cancelPoll i).station i).list = (s.station i).list := by rw [polled]
    simpa [ListsFollow, eligible, list] using follows

/-- Settles O24: DOZE, WAKE and POLL by cases on the admin state of the record they name. -/
theorem notesMovePowerAndPolls : Obligations.NotesMovePowerAndPolls := by
  intro frame s reset
  refine ⟨fun sound => ⟨s.doze (noteStation frame), by simp [exec, execDoze, reset, sound],
      State.doze_ignored (i := noteStation frame), fun known faulted => ?_, fun known active => ?_⟩,
    fun sound => ⟨s.wake (noteStation frame), by simp [exec, execWake, reset, sound],
      State.wake_ignored (i := noteStation frame), fun known faulted => ?_, fun known active awake => ?_,
      fun known active dozing => ?_⟩,
    fun sound => ⟨s.takePoll (noteStation frame), by simp [exec, execPoll, reset, sound], fun taken => ?_,
      fun ignored => (s.takePoll_eq (noteStation frame)).trans (if_neg ignored)⟩⟩
  · rw [State.doze_faulted (i := noteStation frame) known faulted]
    exact State.setPower_only .dozing (by simp [noteStation, faulted])
  · have live : (s.station (noteStation frame)).admin ≠ .free := by simp [noteStation, active]
    rw [State.doze_active (i := noteStation frame) known active]
    exact ⟨State.change_eq .., fun _ other => State.station_change_ne _ _ _ other, State.station_change _ live,
      State.listsFollow_change _ live rfl⟩
  · rw [State.wake_faulted (i := noteStation frame) known faulted]
    exact State.setPower_only .awake (by simp [noteStation, faulted])
  · exact State.wake_awake (i := noteStation frame) known active awake
  · rw [State.wake_dozing (i := noteStation frame) known active dozing]
    exact State.change_power_of_cancelPoll (by simp [noteStation, active])
  · have live : (s.station (noteStation frame)).admin ≠ .free := by simp [noteStation, taken.2.1]
    rw [(s.takePoll_eq (noteStation frame)).trans (if_pos taken)]
    exact ⟨rfl, fun _ other => s.station_setStation_ne _ other, s.station_setStation_same _ (Station.ne_free live)⟩

end Sys2Proof.Machine
end

section
/-! PROOFS. The requests that act on station records, entry by entry (04 §4.3): STATION PROGRAM, STATION REMOVE, STATION
CLEAR FAULT, STATION HOLD and STATION RELEASE (O50 to O52). -/
set_option Elab.async false

namespace Sys2Proof.Machine

/-! ### STATION PROGRAM -/

/-- The fields of the entry at index `k`, as the manual numbers its bytes. -/
def programByte (body : List Byte) (k j : Nat) : Nat := (byteAt body (4 + 12 * k + j)).toNat

/-- Checks 1 to 3 of R60 in the words of the manual. -/
def ProgramEntrySound (body : List Byte) (k : Nat) : Prop :=
  programIndex body k < 512 ∧ fieldAt body (4 + 12 * k + 2) 6 ≠ 0 ∧ programByte body k 8 < 8
    ∧ programByte body k 9 < 64 ∧ programByte body k 10 ≤ 1 ∧ programByte body k 11 ∈ [0, 25, 50, 100]

theorem rateLockOf_eq_some {n : Nat} {lock : RateLock} :
    rateLockOf n = some lock ↔ n ≤ 1 ∧ lock = if n = 0 then .follow else .locked := by
  match n with
  | 0 => simp [rateLockOf, eq_comm]
  | 1 => simp [rateLockOf, eq_comm]
  | n + 2 => simp [rateLockOf]

theorem shareOf_eq_some {n : Nat} {share : Share} : shareOf n = some share ↔ share.percent = n := by
  constructor
  · intro h
    unfold shareOf at h
    split at h <;> cases h <;> rfl
  · rintro rfl
    cases share <;> rfl

theorem shareOf_isSome {n : Nat} : (shareOf n).isSome ↔ n ∈ [0, 25, 50, 100] := by
  unfold shareOf
  split <;> simp_all

theorem rateLockOf_isSome {n : Nat} : (rateLockOf n).isSome ↔ n ≤ 1 := by
  match n with
  | 0 => simp [rateLockOf]
  | 1 => simp [rateLockOf]
  | n + 2 => simp [rateLockOf]

/-- An entry that passes its checks carries the fields of its bytes. -/
theorem programEntryOf_eq_some {body : List Byte} {k : Nat} {p : ProgramEntry} (h : programEntryOf body k = some p) :
    ProgramEntrySound body k ∧ p.index = programIndex body k ∧ p.address.toNat = fieldAt body (4 + 12 * k + 2) 6
      ∧ p.cls.val = programByte body k 8 ∧ p.rate.val = programByte body k 9
      ∧ p.rateLock = (if programByte body k 10 = 0 then .follow else .locked)
      ∧ p.share.percent = programByte body k 11 := by
  unfold programEntryOf at h
  simp only at h
  split_ifs at h with known hc hr
  split at h
  next lock share locked shared =>
    cases h
    obtain ⟨index, address⟩ := known
    obtain ⟨low, locked⟩ := rateLockOf_eq_some.1 locked
    have fits : fieldAt body (4 + 12 * k + 2) 6 < 2 ^ 48 := fieldAt_lt body _ 6
    exact ⟨⟨index, address, hc, hr, low, shareOf_isSome.1 (Option.isSome_iff_exists.2 ⟨share, shared⟩)⟩, rfl,
      by simpa using Nat.mod_eq_of_lt fits, rfl, rfl, locked, shareOf_eq_some.1 shared⟩
  next => cases h

theorem programEntryOf_isSome {body : List Byte} {k : Nat} (h : ProgramEntrySound body k) :
    ∃ p, programEntryOf body k = some p := by
  obtain ⟨index, address, cls, rate, lock, share⟩ := h
  obtain ⟨l, locked⟩ := Option.isSome_iff_exists.1 (rateLockOf_isSome.2 lock)
  obtain ⟨x, shared⟩ := Option.isSome_iff_exists.1 (shareOf_isSome.2 share)
  have known : programIndex body k < Config.stationCount ∧ fieldAt body (4 + 12 * k + 2) 6 ≠ 0 := ⟨index, address⟩
  simp only [programByte] at locked shared cls rate
  simp [programEntryOf, known, cls, rate, locked, shared]

theorem programEntryOf_eq_none {body : List Byte} {k : Nat} (h : ¬ ProgramEntrySound body k) :
    programEntryOf body k = none :=
  Option.eq_none_iff_forall_ne_some.2 fun _ e => h (programEntryOf_eq_some e).1

/-- What a sound STATION PROGRAM entry does to the record it names, by its admin state (R60). -/
theorem State.programEntry_purging {s : State} {body : List Byte} {k : Nat} {p : ProgramEntry}
    (h : programEntryOf body k = some p) (a : (s.station p.index).admin = .purging) :
    s.programEntry body k = .error .stationBusy := by
  simp only [State.programEntry, h, a]

theorem State.programEntry_faulted {s : State} {body : List Byte} {k : Nat} {p : ProgramEntry}
    (h : programEntryOf body k = some p) (a : (s.station p.index).admin = .faulted) :
    s.programEntry body k = .error .stationFaulted := by
  simp only [State.programEntry, h, a]

theorem State.programEntry_free {s : State} {body : List Byte} {k : Nat} {p : ProgramEntry}
    (h : programEntryOf body k = some p) (a : (s.station p.index).admin = .free) :
    s.programEntry body k = .ok (s.setStation p.index p.fresh) := by
  simp only [State.programEntry, h, a]

theorem State.programEntry_active {s : State} {body : List Byte} {k : Nat} {p : ProgramEntry}
    (h : programEntryOf body k = some p) (a : (s.station p.index).admin = .active) :
    s.programEntry body k =
      if (s.station p.index).address = p.address then
        .ok (s.setStation p.index (s.reprogrammed (s.station p.index) p))
      else .error .addressLocked := by
  simp only [State.programEntry, h, a]

theorem State.programEntry_of_none {s : State} {body : List Byte} {k : Nat} (h : programEntryOf body k = none) :
    s.programEntry body k = .error .badField := by
  unfold State.programEntry
  rw [h]

theorem exec_stationProgram_one {s : State} {e : Execution} (h : s.Executes .stationProgram e) :
    exec (.stationProgram 1) s = .next (s.entryClaim e (byteAt e.request.body 0).toNat
      (programIndex e.request.body e.done) (s.programEntry e.request.body e.done)) :=
  congrArg Host.Outcome.next (State.claimRequest_one h _ _)

/-- Settles O50, by the checks of the entry and the admin state of the record it names. -/
theorem stationProgramEntry : Obligations.StationProgramEntry := by
  intro s e running
  have ran := exec_stationProgram_one running
  by_cases sound : ProgramEntrySound e.request.body e.done
  case neg =>
    rw [State.programEntry_of_none (programEntryOf_eq_none sound), State.entryClaim_error] at ran
    exact ⟨fun _ => ran, fun good => absurd good sound, fun good => absurd good sound, fun good => absurd good sound,
      fun good => absurd good sound⟩
  obtain ⟨p, entry⟩ := programEntryOf_isSome sound
  obtain ⟨-, index, address, cls, rate, lock, share⟩ := programEntryOf_eq_some entry
  have index : fieldAt e.request.body (4 + 12 * e.done) 2 = p.index := index.symm
  have sameAddress : (s.station p.index).address = p.address ↔
      (s.station p.index).address.toNat = fieldAt e.request.body (4 + 12 * e.done + 2) 6 := by
    rw [← address, BitVec.toNat_inj]
  have sameClass : programByte e.request.body e.done 8 = (s.station p.index).cls.val ↔
      p.cls = (s.station p.index).cls := by
    rw [← cls, Fin.val_inj]
  simp only [programIndex, index] at ran
  dsimp only
  rw [index]
  refine ⟨fun bad => absurd ⟨index ▸ sound.1, sound.2⟩ bad, fun _ purging => ?_, fun _ faulted => ?_, fun _ active other => ?_,
    fun _ taken => ?_⟩
  · rw [ran, State.programEntry_purging entry purging, State.entryClaim_error]
  · rw [ran, State.programEntry_faulted entry faulted, State.entryClaim_error]
  · rw [ran, State.programEntry_active entry active, if_neg (mt sameAddress.1 other), State.entryClaim_error]
  · rcases taken with free | ⟨active, same⟩
    · have live : p.fresh ≠ Station.free := Station.ne_free (by simp [ProgramEntry.fresh])
      rw [State.programEntry_free entry free, State.entryClaim_ok] at ran
      refine ⟨_, ran, rfl, fun _ other => s.station_setStation_ne _ other, ?_⟩
      rw [s.station_setStation_same _ live, if_pos free, if_pos free]
      exact ⟨rfl, address, cls, rate, lock, share, rfl, rfl⟩
    · have live : s.reprogrammed (s.station p.index) p ≠ Station.free :=
        Station.ne_free (by simp [State.reprogrammed, active])
      have kept : ¬ (s.station p.index).admin = .free := by simp [active]
      rw [State.programEntry_active entry active, if_pos (sameAddress.2 same), State.entryClaim_ok] at ran
      refine ⟨_, ran, rfl, fun _ other => s.station_setStation_ne _ other, ?_⟩
      rw [s.station_setStation_same _ live, if_neg kept, if_neg kept]
      refine ⟨active, same, cls, rate, lock, share, ?_, rfl⟩
      simp only [State.reprogrammed, cls, ne_eq, ite_not]
      exact if_congr sameClass.symm rfl rfl

/-! ### STATION REMOVE -/

/-- An index the two list requests do not know. -/
theorem State.removeEntry_unknown {s : State} {i : Nat} (h : 512 ≤ i ∨ (s.station i).admin = .free) :
    s.removeEntry i = .error .unknownStation := by
  by_cases known : i < 512
  · simp [State.removeEntry, known, h.resolve_left (by omega)]
  · simp [State.removeEntry, known]

theorem State.removeEntry_purging {s : State} {i : Nat} (known : i < 512) (h : (s.station i).admin = .purging) :
    s.removeEntry i = .ok s := by
  simp [State.removeEntry, known, h]

theorem State.removeEntry_live {s : State} {i : Nat} (known : i < 512)
    (h : (s.station i).admin = .active ∨ (s.station i).admin = .faulted) :
    s.removeEntry i =
      .ok (((s.change i false fun r => { r with admin := .purging }).cancelPoll i).listForPurge i .remove) := by
  rcases h with h | h <;> simp [State.removeEntry, known, h]

/-- Asking for a REMOVE purge entry, an upgrade from STOP handed to the scheduler (R144, R154). -/
theorem State.listForPurge_remove (s : State) (i : Nat) :
    s.listForPurge i .remove =
      if ∃ x ∈ s.purge, x.station = i ∧ x.purpose = .stop then
        { s with purge := askPurge s.purge i .remove }.offIfDrained
      else { s with purge := askPurge s.purge i .remove } := by
  unfold State.listForPurge
  simp only [upgradesStop_iff _ _ _ (show Purpose.remove ≠ .stop by decide), State.checkStopped_eq]

theorem exec_stationRemove_one {s : State} {e : Execution} (h : s.Executes .stationRemove e) :
    exec (.stationRemove 1) s = .next (s.entryClaim e (byteAt e.request.body 0).toNat
      (fieldAt e.request.body (2 + 2 * e.done) 2) (s.removeEntry (fieldAt e.request.body (2 + 2 * e.done) 2))) :=
  congrArg Host.Outcome.next (State.claimRequest_one h _ _)

/-- One STATION REMOVE entry, by the admin state of the record it names (R63). -/
theorem State.removes {s : State} {i : Nat} (known : i < 512)
    (h : (s.station i).admin = .active ∨ (s.station i).admin = .faulted) :
    ∃ u : State,
      s.removeEntry i = .ok (if ∃ x ∈ s.purge, x.station = i ∧ x.purpose = .stop then u.offIfDrained else u)
        ∧ u = { s with
            stations := u.stations
            sched := { s.sched with
              entryList := u.sched.entryList, roundList := u.sched.roundList
              pollQueue := if (s.station i).poll = true then s.sched.pollQueue.filter (· ≠ i) else s.sched.pollQueue }
            purge :=
              if ∃ x ∈ s.purge, x.station = i then
                s.purge.map fun x => if x.station = i then { x with purpose := .remove } else x
              else s.purge ++ [{ station := i, purpose := .remove }] }
        ∧ OtherStationsKeep s u i
        ∧ u.station i = { s.station i with admin := .purging, poll := false, list := (u.station i).list }
        ∧ ListsFollow s u i false := by
  obtain ⟨rest, others, record, lists⟩ := s.change_cancelPoll i .purging (by decide)
  have removed := State.removeEntry_live known h
  have purge : ((s.change i false fun r => { r with admin := .purging }).cancelPoll i).purge = s.purge := by simp
  generalize (s.change i false fun r => { r with admin := .purging }).cancelPoll i = v at *
  rw [State.listForPurge_remove, purge] at removed
  refine ⟨{ v with purge := askPurge s.purge i .remove }, removed, ?_, others, record, lists⟩
  rw [← askPurge_remove]
  exact congrArg (fun t : State => { t with purge := askPurge s.purge i .remove }) rest

/-! ### STATION CLEAR FAULT -/

theorem State.onPurgeList_iff (s : State) (i : Nat) : s.onPurgeList i = true ↔ ∃ x ∈ s.purge, x.station = i := by
  simp [State.onPurgeList]

theorem State.clearEntry_unknown {s : State} {i : Nat} (h : 512 ≤ i ∨ (s.station i).admin = .free) :
    s.clearEntry i = .error .unknownStation := by
  by_cases known : i < 512
  · simp [State.clearEntry, known, h.resolve_left (by omega)]
  · simp [State.clearEntry, known]

theorem State.clearEntry_purging {s : State} {i : Nat} (known : i < 512) (h : (s.station i).admin = .purging) :
    s.clearEntry i = .error .stationBusy := by
  simp [State.clearEntry, known, h]

theorem State.clearEntry_faulted {s : State} {i : Nat} (known : i < 512) (h : (s.station i).admin = .faulted) :
    s.clearEntry i =
      if (∃ x ∈ s.purge, x.station = i) ∨ (s.station i).slot ≠ none then .error .stationBusy
      else .ok (s.change i false fun r => { r with admin := .active, faultFlag := false, deficit := 0 }) := by
  simp [State.clearEntry, known, h, State.onPurgeList_iff]

theorem State.clearEntry_active {s : State} {i : Nat} (known : i < 512) (h : (s.station i).admin = .active) :
    s.clearEntry i =
      if (s.station i).faultFlag then .ok (s.setStation i { s.station i with faultFlag := false })
      else .error .notFaulted := by
  simp [State.clearEntry, known, h]

theorem exec_stationClearFault_one {s : State} {e : Execution} (h : s.Executes .stationClearFault e) :
    exec (.stationClearFault 1) s = .next (s.entryClaim e (byteAt e.request.body 0).toNat
      (fieldAt e.request.body (2 + 2 * e.done) 2) (s.clearEntry (fieldAt e.request.body (2 + 2 * e.done) 2))) :=
  congrArg Host.Outcome.next (State.claimRequest_one h _ _)

/-- Settles O51, by the admin state of the record an entry names. -/
theorem stationRemoveAndClearFaultEntries : Obligations.StationRemoveAndClearFaultEntries := by
  refine ⟨fun s e running => ?_, fun s e running => ?_⟩
  · have ran := exec_stationRemove_one running
    refine ⟨fun unknown => ?_, fun known purging => ?_, fun known live => ?_⟩
    · rw [ran, State.removeEntry_unknown unknown, State.entryClaim_error]
    · rw [ran, State.removeEntry_purging known purging, State.entryClaim_ok]
    · obtain ⟨u, removed, spec⟩ := State.removes known live
      exact ⟨u, by rw [ran, removed, State.entryClaim_ok], spec⟩
  · have ran := exec_stationClearFault_one running
    refine ⟨fun unknown => ?_, fun known busy => ?_, fun known active clear => ?_, fun known active flagged => ?_,
      fun known faulted idle => ?_⟩
    · rw [ran, State.clearEntry_unknown unknown, State.entryClaim_error]
    · rcases busy with purging | ⟨faulted, busy⟩
      · rw [ran, State.clearEntry_purging known purging, State.entryClaim_error]
      · rw [ran, (State.clearEntry_faulted known faulted).trans (if_pos busy), State.entryClaim_error]
    · rw [ran, (State.clearEntry_active known active).trans (if_neg (by simpa using clear)), State.entryClaim_error]
    · rw [ran, (State.clearEntry_active known active).trans (if_pos flagged), State.entryClaim_ok]
      exact ⟨_, rfl, rfl, fun _ other => s.station_setStation_ne _ other,
        s.station_setStation_same _ (Station.ne_free (by simpa using active.trans_ne (by decide)))⟩
    · rw [ran, (State.clearEntry_faulted known faulted).trans (if_neg idle), State.entryClaim_ok]
      exact ⟨_, rfl, State.change_eq .., fun _ other => State.station_change_ne _ _ _ other,
        State.station_change _ (by simp), State.listsFollow_change _ (by simp) rfl⟩

/-! ### STATION HOLD and STATION RELEASE -/

theorem State.positionClaim_eq (s : State) (e : Execution) (hold : Bool) :
    s.positionClaim e hold =
      (s.holdPosition e.done (mapBit e.request.body e.done) hold).entryDone e 512 :=
  State.entryClaim_ok s _ e 512 0

theorem exec_hold_one {s : State} {e : Execution} {hold : Bool}
    (h : s.Executes (if hold then .stationHold else .stationRelease) e) :
    exec (if hold then .stationHold 1 else .stationRelease 1) s = .next (s.positionClaim e hold) := by
  cases hold
  · exact congrArg Host.Outcome.next (State.claimRequest_one h _ _)
  · exact congrArg Host.Outcome.next (State.claimRequest_one h _ _)

/-- Settles O52: a position acts where it is set and its record is not FREE. -/
theorem holdAndReleasePositions : Obligations.HoldAndReleasePositions := by
  intro s e hold i r marked command running
  have ran : exec command s = .next (s.positionClaim e hold) := exec_hold_one running
  rw [State.positionClaim_eq] at ran
  refine ⟨fun idle => ?_, fun set live => ⟨_, ran, ?_⟩⟩
  · have skipped : ¬ (mapBit e.request.body e.done = true ∧ (s.station e.done).admin ≠ .free) := by
      rcases idle with clear | free
      · simp [show mapBit e.request.body e.done = false from clear]
      · simp [show (s.station e.done).admin = .free from free]
    rw [ran, State.holdPosition, if_neg skipped]
  · rw [State.holdPosition, if_pos ⟨set, live⟩]
    exact ⟨State.change_eq .., fun _ other => State.station_change_ne _ _ _ other, State.station_change _ live,
      State.listsFollow_change _ live rfl⟩

end Sys2Proof.Machine
end

section
/-! PROOFS. The requests that read: IDENTIFY, BACKLOG MAP and TABLE READ answer with the bytes of their results
(11 §11.3, 11.4, 11.6, O44). -/
set_option Elab.async false

namespace Sys2Proof.Machine

/-! ### Maps -/

@[simp] theorem length_mapBytes : ∀ (n : Nat) (f : Nat → Bool), (mapBytes n f).length = n
  | 0, _ => rfl
  | n + 1, f => by simp [mapBytes, length_mapBytes n]

/-- The first byte of a map carries its positions 0 to 7, most significant bit first. -/
theorem getLsbD_mapByte (f : Nat → Bool) (i : Nat) (h : i < 8) :
    (BitVec.ofNat 8 ((List.range 8).foldl (fun v k => 2 * v + (f k).toNat) 0)).getLsbD (7 - i) = f i := by
  have bits : ∀ (a b c d e g x y : Bool) (k : Fin 8),
      (BitVec.ofNat 8 (2 * (2 * (2 * (2 * (2 * (2 * (2 * (2 * 0 + a.toNat) + b.toNat) + c.toNat) + d.toNat) + e.toNat)
        + g.toNat) + x.toNat) + y.toNat)).getLsbD (7 - k.val) = [a, b, c, d, e, g, x, y][k.val] := by decide +kernel
  have read := bits (f 0) (f 1) (f 2) (f 3) (f 4) (f 5) (f 6) (f 7) ⟨i, h⟩
  refine Eq.trans read ?_
  interval_cases i <;> rfl

/-- Position `i` of a map is the bit its bytes carry for it (12.4). -/
theorem mapBit_mapBytes : ∀ (n : Nat) (f : Nat → Bool) (i : Nat), i < 8 * n → mapBit (mapBytes n f) i = f i
  | 0, _, _, h => absurd h (by omega)
  | n + 1, f, i, h => by
    rcases Nat.lt_or_ge i 8 with first | later
    · have : i / 8 = 0 := by omega
      have : i % 8 = i := by omega
      simpa [mapBit, mapBytes, byteAt, *] using getLsbD_mapByte f i first
    · have rest := mapBit_mapBytes n (fun k => f (k + 8)) (i - 8) (by omega)
      have place : i / 8 = (i - 8) / 8 + 1 := by omega
      have bit : i % 8 = (i - 8) % 8 := by omega
      simpa [mapBit, mapBytes, byteAt, place, bit, Nat.sub_add_cancel later] using rest

/-! ### IDENTIFY and BACKLOG MAP -/

/-- A request answered with a report of the state changes nothing else (R176). -/
theorem State.request_reports {s : State} {k : RequestKind} {q : Request} {rest : List Request} (h : s.Serves k q rest)
    (report : State → List Byte) :
    s.request k (fun q s => s.finish (q.accepted (report s)) none)
      = s.answered rest (acceptedResponse q (report (s.awaiting rest))) none := by
  rw [State.request_run h, State.finish_eq]
  rfl

theorem length_identity (s : State) : s.identity.length = 26 := by
  simp [State.identity]

/-- Every field of the identity stands where 12.4 puts it. -/
theorem fieldAt_identity (s : State) :
    fieldAt s.identity 0 2 = 0x5120 ∧ fieldAt s.identity 2 1 = 1 ∧ fieldAt s.identity 3 1 = s.sched.state.code % 256
      ∧ fieldAt s.identity 4 1 = s.sched.causes.code % 256 ∧ fieldAt s.identity 5 1 = s.rp.options.format.code % 256
      ∧ fieldAt s.identity 6 1 = s.rp.options.lifetime.code % 256 ∧ fieldAt s.identity 7 1 = s.rp.options.slots % 256
      ∧ fieldAt s.identity 8 1 = s.rp.options.grantTimeout % 256 ∧ fieldAt s.identity 9 1 = 0
      ∧ fieldAt s.identity 10 2 = s.rp.options.sweep % 65536
      ∧ fieldAt s.identity 12 2 = s.rp.options.retireLimit % 65536
      ∧ fieldAt s.identity 14 2 = s.bm.retiredCount % 65536 ∧ fieldAt s.identity 16 2 = s.bm.selfTestResult.toNat
      ∧ fieldAt s.identity 18 4 = s.timeBase.toNat ∧ fieldAt s.identity 22 2 = s.rp.lost.toNat
      ∧ fieldAt s.identity 24 2 = s.events.lost.toNat := by
  simp only [State.identity]
  simp [fieldAt_append_left, fieldAt_append_right, fieldAt_beBytes]
  exact ⟨rfl, BitVec.isLt _, BitVec.isLt _, BitVec.isLt _, BitVec.isLt _⟩

theorem CauseSet.code_eq (c : CauseSet) :
    c.code =
      (if c.host = true then 1 else 0) + (if c.radio = true then 2 else 0) + (if c.link = true then 4 else 0) := by
  obtain ⟨host, radio, link⟩ := c
  cases host <;> cases radio <;> cases link <;> rfl

theorem CauseSet.code_lt (c : CauseSet) : c.code < 256 := by
  rw [c.code_eq]
  split_ifs <;> decide

/-- The two maps of BACKLOG MAP, each position at its bit (R74). -/
theorem mapBit_backlog (s : State) :
    s.backlog.length = 128
      ∧ (∀ i, i < 512 → (byteAt s.backlog (i / 8)).getLsbD (7 - i % 8) = !(s.station i).queue.isEmpty)
      ∧ (∀ i, i < 512 → (byteAt s.backlog (64 + i / 8)).getLsbD (7 - i % 8) = (s.station i).hold) := by
  refine ⟨by simp [State.backlog], fun i low => ?_, fun i low => ?_⟩
  · have inFirst : i / 8 < (mapBytes 64 fun i => !(s.station i).queue.isEmpty).length := by simp; omega
    rw [← mapBit_mapBytes 64 (fun i => !(s.station i).queue.isEmpty) i (by omega), mapBit, State.backlog, byteAt,
      byteAt, List.getD_append _ _ _ _ inFirst]
  · have inSecond : (mapBytes 64 fun i => !(s.station i).queue.isEmpty).length ≤ 64 + i / 8 := by simp
    rw [← mapBit_mapBytes 64 (fun i => (s.station i).hold) i (by omega), mapBit, State.backlog, byteAt, byteAt,
      List.getD_append_right _ _ _ _ inSecond, length_mapBytes, Nat.add_sub_cancel_left]

/-! ### TABLE READ -/

theorem classReport_eq (t : Table ClassEntry) (start n : Nat) :
    classReport t start n = (List.range n).flatMap fun k =>
      let e := Table.get ClassEntry.default t ((start + k) % 8)
      [BitVec.ofNat 8 ((start + k) % 8), 0] ++ beBytes 2 e.quantum ++ beBytes 2 e.maxAirtime
        ++ [BitVec.ofNat 8 e.maxFrames, 0] ++ beBytes 2 e.queueLimit ++ beBytes 2 e.maxAge := by
  rw [classReport, List.flatMap_def]
  simp [classIndex, ClassEntry.bytes, beBytes, zeros]

theorem rateReport_eq (t : Table RateEntry) (start n : Nat) :
    rateReport t start n = (List.range n).flatMap fun k =>
      let e := Table.get RateEntry.unset t (start / 16 * 16 + (start % 16 + k) % 16)
      [BitVec.ofNat 8 (start / 16 * 16 + (start % 16 + k) % 16), 0] ++ beBytes 2 e.overhead ++ beBytes 2 e.cost := by
  have index : ∀ k, rateIndex start k = start / 16 * 16 + (start % 16 + k) % 16 := fun k => by
    unfold rateIndex
    omega
  rw [rateReport, List.flatMap_def]
  simp [index, RateEntry.bytes, beBytes, zeros]

/-- A class read in its ranges, a rate read in its ranges, and no other, gives a report (R186). -/
theorem State.tableReport_class (s : State) {copy start n : Nat} (named : copy = 1 ∨ copy = 2)
    (fits : start < 8 ∧ 1 ≤ n ∧ n ≤ 16) :
    s.tableReport 1 copy start n
      = some (classReport (if copy = 1 then s.sched.liveClass else s.sched.shadowClass) start n) := by
  rcases named with rfl | rfl <;> simp [State.tableReport, fits]

theorem State.tableReport_rate (s : State) {copy start n : Nat} (named : copy = 1 ∨ copy = 2)
    (fits : start < 64 ∧ 1 ≤ n ∧ n ≤ 32) :
    s.tableReport 2 copy start n
      = some (rateReport (if copy = 1 then s.sched.liveRate else s.sched.shadowRate) start n) := by
  rcases named with rfl | rfl <;> simp [State.tableReport, fits]

theorem State.tableReport_none (s : State) {table copy start n : Nat}
    (noClass : ¬ (table = 1 ∧ (copy = 1 ∨ copy = 2) ∧ start < 8 ∧ 1 ≤ n ∧ n ≤ 16))
    (noRate : ¬ (table = 2 ∧ (copy = 1 ∨ copy = 2) ∧ start < 64 ∧ 1 ≤ n ∧ n ≤ 32)) :
    s.tableReport table copy start n = none := by
  unfold State.tableReport
  split
  · exact if_neg fun fits => noClass ⟨rfl, .inl rfl, fits⟩
  · exact if_neg fun fits => noClass ⟨rfl, .inr rfl, fits⟩
  · exact if_neg fun fits => noRate ⟨rfl, .inl rfl, fits⟩
  · exact if_neg fun fits => noRate ⟨rfl, .inr rfl, fits⟩
  · rfl

/-- The report a TABLE READ asks for. -/
def State.tableReportFor (s : State) (q : Request) : Option (List Byte) :=
  s.tableReport (byteAt q.body 0).toNat (byteAt q.body 1).toNat (byteAt q.body 2).toNat (byteAt q.body 3).toNat

theorem exec_tableRead_refused {s : State} {q : Request} {rest : List Request} (h : s.Serves .tableRead q rest)
    (report : s.tableReportFor q = none) :
    exec .tableRead s = .next (s.answered rest (refusedResponse q .badField) none) := by
  have report : (s.awaiting rest).tableReport (byteAt q.body 0).toNat (byteAt q.body 1).toNat (byteAt q.body 2).toNat
      (byteAt q.body 3).toNat = none := report
  show execTableRead s = _
  rw [execTableRead, State.request_run h]
  simp only [report, State.finish_eq]
  rfl

theorem exec_tableRead_accepted {s : State} {q : Request} {rest : List Request} (h : s.Serves .tableRead q rest)
    {entries : List Byte} (report : s.tableReportFor q = some entries) :
    exec .tableRead s = .next (s.answered rest
      (acceptedResponse q ([byteAt q.body 0, byteAt q.body 1, byteAt q.body 3, 0] ++ entries)) none) := by
  have report : (s.awaiting rest).tableReport (byteAt q.body 0).toNat (byteAt q.body 1).toNat (byteAt q.body 2).toNat
      (byteAt q.body 3).toNat = some entries := report
  have word : ∀ b : Byte, beBytes 1 b.toNat = [b] := fun b => by simp [beBytes]
  show execTableRead s = _
  rw [execTableRead, State.request_run h]
  simp only [report, State.finish_eq, word]
  rfl

/-- Settles O44: each request runs, and its report is read field by field, bit by bit or entry by entry. -/
theorem readRequestsReport : Obligations.ReadRequestsReport := by
  refine ⟨fun s q rest =>
      ⟨fun serves options retired => ⟨_, congrArg Host.Outcome.next (State.request_reports serves _), ?_⟩,
      fun serves => ⟨_, congrArg Host.Outcome.next (State.request_reports serves _), mapBit_backlog _⟩⟩,
    fun s q rest serves => ⟨?_, ?_, ?_⟩⟩
  · obtain ⟨⟨-, slots⟩, ⟨-, timeout⟩, ⟨-, sweep⟩, -, limit⟩ := options
    obtain ⟨part, revision, state, causes, format, lifetime, slotField, timeoutField, reserved, sweepField, limitField,
      retiredField, rest⟩ := fieldAt_identity (s.awaiting rest)
    refine ⟨length_identity _, part, revision, ?_, ?_, ?_, ?_, ?_, ?_, reserved, ?_, ?_, ?_, rest⟩
    · rw [state]
      cases s.sched.state <;> rfl
    · rw [causes, ← CauseSet.code_eq]
      exact Nat.mod_eq_of_lt (CauseSet.code_lt _)
    · rw [format]
      cases s.rp.options.format <;> rfl
    · rw [lifetime]
      cases s.rp.options.lifetime <;> rfl
    · exact slotField.trans (Nat.mod_eq_of_lt (slots.trans_lt (by decide)))
    · exact timeoutField.trans (Nat.mod_eq_of_lt (timeout.trans_lt (by decide)))
    · exact sweepField.trans (Nat.mod_eq_of_lt (sweep.trans_lt (by decide)))
    · exact limitField.trans (Nat.mod_eq_of_lt (limit.trans_lt (by decide)))
    · exact retiredField.trans (Nat.mod_eq_of_lt (retired.trans_lt (by decide)))
  · rintro ⟨table, copy, fits⟩
    refine exec_tableRead_accepted serves ?_
    rw [State.tableReportFor, table, State.tableReport_class s copy fits, classReport_eq]
  · rintro ⟨table, copy, fits⟩
    refine exec_tableRead_accepted serves ?_
    rw [State.tableReportFor, table, State.tableReport_rate s copy fits, rateReport_eq]
  · exact fun noClass noRate => exec_tableRead_refused serves (State.tableReport_none s noClass noRate)

end Sys2Proof.Machine
end

section
/-! PROOFS. What every step keeps of the laws of the Station Table and the Airtime Scheduler (O59). -/
set_option Elab.async false

namespace Sys2Proof.Machine

/-! ### The laws, regrouped by station

The laws are those of R54, R56, R71, R75, R87, R92, R99, R154 and R180. `Scheduler.standing c i` is what the scheduler
and its slots hold of station `i`, and `Standing.Suits x i was r` says that the record `r` agrees with it, when the list
membership of `r` tells of an eligibility `was`. An operation on the record of station `i` leaves the standing of every
other station as it was, so `i` alone is looked at again: `State.Ruled s (some i)` says that every law holds of `s` but
for the record of `i`, and `State.Lags s i was` that its list membership alone is behind. -/

/-- What the scheduler and its slots hold of one station. -/
structure Standing where
  entry     : Nat
  round     : Nat
  polls     : Nat
  candidate : Bool
  grants    : Nat → Option (List GrantFrame)
  classes   : Table ClassEntry

/-- The places of station `i` in the two lists and in the Poll Queue, whether it is the ROUND candidate, the frames of
its grant in each slot, and the live Class Table. -/
def Scheduler.standing (c : Scheduler) (i : Nat) : Standing :=
  { entry := c.entryList.count i
    round := c.roundList.count i
    polls := c.pollQueue.count i
    candidate := decide (c.candidate = some { station := i, kind := .round })
    grants := fun k => (Table.get none c.slots k).bind fun g => if g.station = i then some g.frames else none
    classes := c.liveClass }

/-- The record `r` of station `i` agrees with its standing, its list membership being that of an eligibility `was`. -/
structure Standing.Suits (x : Standing) (i : Nat) (was : Bool) (r : Station) : Prop where
  free : r.admin = .free ∨ 512 ≤ i → r = Station.free
  entry : x.entry = if r.list = .entry then 1 else 0
  round : x.round = if r.list = .round then 1 else 0
  listed : r.list ≠ .none ↔ was = true ∧ x.candidate = false
  credit : r.list = .entry → 0 < r.deficit
  polls : x.polls = if r.poll = true then 1 else 0
  dozing : r.poll = true → r.admin = .active ∧ r.power = .dozing
  slot : ∀ k, r.slot = some k ↔ (x.grants k).isSome = true
  deficit : r.admin ≠ .free →
    -1048575 ≤ r.deficit ∧ r.deficit ≤ (Table.get ClassEntry.default x.classes r.cls.val).quantum
  queue : r.queue.length ≤ 1088
  frames : ∀ k frames, x.grants k = some frames → frames.length ≤ 64 ∧ r.queue.length + frames.length ≤ 1088

/-- Station `i`'s record suits its standing, or would if its list membership told of its eligibility now. -/
def State.Suits (s : State) (i : Nat) (was : Bool) : Prop := (s.sched.standing i).Suits i was (s.station i)

/-- Every law holds but the relations of R133, and but for the record of station `out`, if one is given. -/
structure State.Ruled (s : State) (out : Option Nat) : Prop where
  stations : Table.wf Station.free s.stations = true
  slots : Table.wf (none : Option Grant) s.sched.slots = true
  shadow : Table.wf ClassEntry.default s.sched.shadowClass = true
  records : ∀ j, out ≠ some j → s.Suits j (s.station j).eligible
  usable : ∀ k, (s.slot k).isSome = true → k < s.rp.options.slots
  classes : s.ClassTablesInRange
  purge : s.PurgeLaw
  options : s.rp.options.inRange

/-- Every law holds. -/
structure State.Lawful (s : State) : Prop where
  ruled : s.Ruled none
  relations : s.SchedulerRelations

/-- Every law holds but the relations of R133, and but that the list membership of station `i` tells of an eligibility
`was`. -/
structure State.Lags (s : State) (i : Nat) (was : Bool) : Prop where
  out : s.Ruled (some i)
  suits : s.Suits i was

/-! #### The laws, station by station -/

/-- A list names a station at most once, and exactly when its record says so, if it is counted so. -/
theorem nodup_and_mem_iff_count {l : List Nat} {p : Nat → Prop} [DecidablePred p] :
    (l.Nodup ∧ ∀ i, i ∈ l ↔ p i) ↔ ∀ i, l.count i = if p i then 1 else 0 := by
  constructor
  · rintro ⟨nodup, mem⟩ i
    split
    case isTrue is => exact List.count_eq_one_of_mem nodup ((mem i).2 is)
    case isFalse isnt => exact List.count_eq_zero.2 fun is => isnt ((mem i).1 is)
  · intro counts
    refine ⟨List.nodup_iff_count_le_one.2 fun i => ?_, fun i => ?_⟩
    · rw [counts i]
      split <;> omega
    · rw [← List.count_pos_iff, counts i]
      split
      case isTrue is => simp [is]
      case isFalse isnt => simp [isnt]

theorem Scheduler.grants_eq_some {c : Scheduler} {i k : Nat} {frames : List GrantFrame} :
    (c.standing i).grants k = some frames ↔
      ∃ g, Table.get none c.slots k = some g ∧ g.station = i ∧ g.frames = frames := by
  simp only [Scheduler.standing, Option.bind_eq_some_iff, Option.ite_none_right_eq_some, Option.some.injEq]

theorem Scheduler.grants_isSome {c : Scheduler} {i k : Nat} :
    ((c.standing i).grants k).isSome = true ↔ ∃ g, Table.get none c.slots k = some g ∧ g.station = i := by
  rw [Option.isSome_iff_exists]
  simp only [Scheduler.grants_eq_some]
  exact ⟨fun ⟨_, g, is, station, _⟩ => ⟨g, is, station⟩, fun ⟨g, is, station⟩ => ⟨_, g, is, station, rfl⟩⟩

theorem Scheduler.standing_candidate {c : Scheduler} {i : Nat} :
    (c.standing i).candidate = false ↔ c.candidate ≠ some { station := i, kind := .round } := by
  simp [Scheduler.standing]

/-- The laws of the statement are those grouped by station. -/
theorem State.StationLaws.lawful {s : State} (h : s.StationLaws) (stations : Table.wf Station.free s.stations = true)
    (slots : Table.wf (none : Option Grant) s.sched.slots = true)
    (shadow : Table.wf ClassEntry.default s.sched.shadowClass = true) : s.Lawful := by
  obtain ⟨⟨free, beyond⟩, ⟨entryNodup, roundNodup, entry, round, listed, credit⟩, ⟨pollNodup, polls, dozing⟩,
    ⟨names, named⟩, deficit, classes, relations, purge, ⟨queue, frames⟩, options⟩ := h
  refine ⟨⟨stations, slots, shadow, fun j _ => ?_, fun k is => ?_, classes, purge, options⟩, relations⟩
  · refine ⟨fun none_ => none_.elim (free j) (beyond j), nodup_and_mem_iff_count.1 ⟨entryNodup, entry⟩ j,
      nodup_and_mem_iff_count.1 ⟨roundNodup, round⟩ j, ?_, fun is => credit j ((entry j).2 is),
      nodup_and_mem_iff_count.1 ⟨pollNodup, polls⟩ j, dozing j, fun k => ?_, deficit j, queue j, fun k fs is => ?_⟩
    · rw [listed j, Scheduler.standing_candidate]
    · rw [Scheduler.grants_isSome]
      exact ⟨named j k, fun ⟨g, is, station⟩ => station ▸ (names k g is).1⟩
    · obtain ⟨g, holds, rfl, rfl⟩ := Scheduler.grants_eq_some.1 is
      exact frames k g holds
  · obtain ⟨g, is⟩ := Option.isSome_iff_exists.1 is
    exact (names k g is).2

theorem State.Lawful.stationLaws {s : State} (h : s.Lawful) : s.StationLaws := by
  obtain ⟨⟨_, _, _, records, usable, classes, purge, options⟩, relations⟩ := h
  have suits (j : Nat) := records j nofun
  have grant {k : Nat} {g : Grant} (is : s.slot k = some g) := Scheduler.grants_eq_some.2 ⟨g, is, rfl, rfl⟩
  obtain ⟨entryNodup, entry⟩ := nodup_and_mem_iff_count.2 fun j => (suits j).entry
  obtain ⟨roundNodup, round⟩ := nodup_and_mem_iff_count.2 fun j => (suits j).round
  refine ⟨⟨fun i is => (suits i).free (.inl is), fun i far => (suits i).free (.inr far)⟩,
    ⟨entryNodup, roundNodup, entry, round, fun i => ?_, fun i mem => (suits i).credit ((entry i).1 mem)⟩,
    ?_, ⟨fun k g is => ⟨?_, usable k (by rw [is]; rfl)⟩, fun i k is => ?_⟩, fun i => (suits i).deficit, classes,
    relations, purge, ⟨fun i => (suits i).queue, fun k g is => (suits g.station).frames k _ (grant is)⟩, options⟩
  · rw [(suits i).listed, Scheduler.standing_candidate]
  · obtain ⟨nodup, mem⟩ := nodup_and_mem_iff_count.2 fun j => (suits j).polls
    exact ⟨nodup, mem, fun i => (suits i).dozing⟩
  · exact ((suits g.station).slot k).2 (Scheduler.grants_isSome.2 ⟨g, is, rfl⟩)
  · exact Scheduler.grants_isSome.1 (((suits i).slot k).1 is)

/-- Numbers below 512, each once, are at most 512. -/
theorem length_le_of_nodup {l : List Nat} (nodup : l.Nodup) (below : ∀ i ∈ l, i < 512) : l.length ≤ 512 := by
  have fits := (nodup.subperm (l₂ := List.range 512) fun i mem => List.mem_range.2 (below i mem)).length_le
  rwa [List.length_range] at fits

/-- The lists of stations fit the 512 stations: a station listed has a record that is not FREE. -/
theorem State.StationLaws.listsFit {s : State} (h : s.StationLaws) : s.ListsFit := by
  obtain ⟨⟨_, beyond⟩, ⟨entryNodup, roundNodup, entry, round, _⟩, ⟨pollNodup, polls, _⟩, _, _, _, _,
    ⟨purgeNodup, purge⟩, _⟩ := h
  have below {i : Nat} (busy : s.station i ≠ Station.free) : i < 512 := by
    by_contra far
    exact busy (beyond i (by omega))
  have apart : List.Disjoint s.sched.entryList s.sched.roundList := by
    intro i inEntry inRound
    have := (entry i).1 inEntry
    rw [(round i).1 inRound] at this
    cases this
  have distinct := List.nodup_append'.2 ⟨entryNodup, roundNodup, apart⟩
  have both := length_le_of_nodup distinct fun i mem => below fun free => by
    rcases List.mem_append.1 mem with mem | mem
    · have := (entry i).1 mem
      rw [free] at this
      cases this
    · have := (round i).1 mem
      rw [free] at this
      cases this
  refine ⟨by rwa [List.length_append] at both, length_le_of_nodup pollNodup fun i mem => below fun free => ?_, ?_⟩
  · have := (polls i).1 mem
    rw [free] at this
    cases this
  · have := length_le_of_nodup purgeNodup fun i mem => by
      obtain ⟨e, listed, rfl⟩ := List.mem_map.1 mem
      exact purge e listed
    rwa [List.length_map] at this

/-! #### What an operation leaves alone -/

/-- The tables and settings that bound the laws are as before. -/
structure State.SameBounds (s t : State) : Prop where
  live : t.sched.liveClass = s.sched.liveClass := by simp
  shadow : t.sched.shadowClass = s.sched.shadowClass := by simp
  purge : t.purge = s.purge := by simp
  options : t.rp.options = s.rp.options := by simp

/-- And so are the lists of stations and the candidate. -/
structure State.SameLists (s t : State) : Prop extends s.SameBounds t where
  entry : t.sched.entryList = s.sched.entryList := by simp
  round : t.sched.roundList = s.sched.roundList := by simp
  polls : t.sched.pollQueue = s.sched.pollQueue := by simp
  candidate : t.sched.candidate = s.sched.candidate := by simp

theorem State.SameLists.standing {s t : State} (lists : s.SameLists t) (slots : t.sched.slots = s.sched.slots)
    (i : Nat) : t.sched.standing i = s.sched.standing i := by
  unfold Scheduler.standing
  rw [lists.entry, lists.round, lists.polls, slots, lists.candidate, lists.live]

theorem State.SameBounds.classes {s t : State} (same : s.SameBounds t) (h : s.ClassTablesInRange) :
    t.ClassTablesInRange := by
  unfold State.ClassTablesInRange
  rw [same.live, same.shadow]
  exact h

theorem State.SameBounds.purgeLaw {s t : State} (same : s.SameBounds t) (h : s.PurgeLaw) : t.PurgeLaw := by
  unfold State.PurgeLaw
  rw [same.purge]
  exact h

/-- The laws hold on if the record of `i` and the standing of `i` alone have changed. -/
theorem State.Ruled.outside {s t : State} {i : Nat} (h : s.Ruled (some i))
    (stations : Table.wf Station.free t.stations = true) (slots : Table.wf (none : Option Grant) t.sched.slots = true)
    (others : OtherStationsKeep s t i) (standing : ∀ j, j ≠ i → t.sched.standing j = s.sched.standing j)
    (usable : ∀ k, (t.slot k).isSome = true → k < s.rp.options.slots) (same : s.SameBounds t := by exact {}) :
    t.Ruled (some i) := by
  refine ⟨stations, slots, same.shadow ▸ h.shadow, fun j out => ?_, same.options ▸ usable, same.classes h.classes,
    same.purgeLaw h.purge, same.options ▸ h.options⟩
  have ne : j ≠ i := fun is => out (by rw [is])
  unfold State.Suits
  rw [standing j ne, others j ne]
  exact h.records j out

/-- The laws hold on if all they speak of is as before. -/
theorem State.Ruled.of_same {s t : State} {out : Option Nat} (h : s.Ruled out) (lists : s.SameLists t := by exact {})
    (stations : t.stations = s.stations := by simp) (slots : t.sched.slots = s.sched.slots := by simp) :
    t.Ruled out := by
  refine ⟨stations ▸ h.stations, slots ▸ h.slots, lists.shadow ▸ h.shadow, fun j is => ?_, fun k => ?_,
    lists.classes h.classes, lists.purgeLaw h.purge, lists.options ▸ h.options⟩
  · unfold State.Suits
    rw [lists.standing slots, State.station_congr stations]
    exact h.records j is
  · rw [State.slot_congr slots, lists.options]
    exact h.usable k

theorem State.SchedulerRelations.of_same {s t : State} (h : s.SchedulerRelations)
    (state : t.sched.state = s.sched.state := by simp) (causes : t.sched.causes = s.sched.causes := by simp)
    (slots : t.sched.slots = s.sched.slots := by simp) (up : t.radio.up = s.radio.up := by simp) :
    t.SchedulerRelations := by
  unfold State.SchedulerRelations
  rw [state, causes, State.openSlots_congr slots, up]
  exact h

/-- The relations read of the slots how many are open. -/
theorem State.SchedulerRelations.of_openSlots {s t : State} (h : s.SchedulerRelations)
    (open_ : t.openSlots = s.openSlots)
    (state : t.sched.state = s.sched.state := by simp) (causes : t.sched.causes = s.sched.causes := by simp)
    (up : t.radio.up = s.radio.up := by simp) : t.SchedulerRelations := by
  unfold State.SchedulerRelations
  rw [state, causes, open_, up]
  exact h

theorem State.Lawful.of_same {s t : State} (h : s.Lawful) (lists : s.SameLists t := by exact {})
    (stations : t.stations = s.stations := by simp) (slots : t.sched.slots = s.sched.slots := by simp)
    (state : t.sched.state = s.sched.state := by simp) (causes : t.sched.causes = s.sched.causes := by simp)
    (up : t.radio.up = s.radio.up := by simp) : t.Lawful :=
  ⟨h.ruled.of_same lists stations slots, h.relations.of_same state causes slots up⟩

theorem State.Lawful.ite {s t : State} (c : Prop) [Decidable c] (h : s.Lawful) (g : t.Lawful) :
    (if c then s else t).Lawful := by
  split
  · exact h
  · exact g

/-! #### The scheduler state machine (R133 to R147) -/

namespace State.SchedulerRelations
variable {s t : State}

/-- HALTED stands in no relation to the causes and the slots (R133). -/
theorem halts (h : s.SchedulerRelations) (state : t.sched.state = s.sched.state ∨ t.sched.state = .halted)
    (causes : t.sched.causes = s.sched.causes := by simp) (slots : t.sched.slots = s.sched.slots := by simp)
    (up : t.radio.up = s.radio.up := by simp) : t.SchedulerRelations := by
  rcases state with same | halted
  · exact h.of_same same causes slots up
  · obtain ⟨_, _, _, _, link⟩ := h
    refine ⟨?_, ?_, ?_, ?_, by rw [causes, up]; exact link⟩ <;> rw [halted] <;> simp

theorem checkRetired (h : s.SchedulerRelations) : s.checkRetired.SchedulerRelations := by
  refine h.halts ?_
  unfold State.checkRetired
  split
  · exact .inr rfl
  · exact .inl rfl

theorem withPools (h : s.SchedulerRelations) (b : BufferManager) : (s.withPools b).SchedulerRelations := by
  unfold State.withPools
  simp only
  split
  · exact State.SchedulerRelations.checkRetired (h.of_same rfl rfl rfl rfl)
  · exact h.of_same rfl rfl rfl rfl

/-- STOPPING is left for OFF only with no slot open, and HOST is not the LINK cause (R144). -/
theorem checkStopped (h : s.SchedulerRelations) : s.checkStopped.SchedulerRelations := by
  rw [State.checkStopped_eq]
  unfold State.offIfDrained
  split
  case isTrue drained =>
    obtain ⟨_, _, closed⟩ := drained
    obtain ⟨_, _, _, _, link⟩ := h
    exact ⟨nofun, nofun, nofun, fun _ => closed, link⟩
  case isFalse => exact h

/-- A slot has been freed: FREEZING may stand with no slot open until that is handed on (R136). -/
theorem slotFreed (running : s.sched.state = .running → s.sched.causes.isEmpty = true)
    (frozen : s.sched.state = .freezing ∨ s.sched.state = .frozen → s.sched.causes.isEmpty = false)
    (closed : s.sched.state = .frozen ∨ s.sched.state = .off → s.openSlots = 0)
    (link : s.sched.causes.link = !s.radio.up) : s.slotFreed.SchedulerRelations := by
  unfold State.slotFreed
  split
  case isTrue last =>
    obtain ⟨freezing, none_⟩ := last
    exact ⟨nofun, fun _ => frozen (.inl freezing), nofun, fun _ => none_, link⟩
  case isFalse more =>
    refine checkStopped ⟨running, frozen, fun freezing => ?_, closed, link⟩
    have : s.openSlots ≠ 0 := fun none_ => more ⟨freezing, none_⟩
    omega

/-- A cause is added; the link may have gone DOWN in the step that adds LINK (R13, R142). -/
theorem addCause {up : Bool} (h : State.SchedulerRelations { s with radio := { s.radio with up := up } }) {c : Cause}
    (link : (s.sched.causes.put c true).link = !s.radio.up) : (s.addCause c).SchedulerRelations := by
  obtain ⟨running, frozen, opens, closed, _⟩ := h
  have present : (s.sched.causes.put c true).isEmpty = false := by cases c <;> simp [CauseSet.put, CauseSet.isEmpty]
  rw [State.addCause_eq]
  unfold State.causeAdded
  simp only
  split_ifs with was idle none_
  · have same : s.sched.causes.put c true = s.sched.causes := by
      cases c <;> simp only [CauseSet.get] at was <;> simp only [CauseSet.put, ← was]
    exact ⟨running, frozen, opens, closed, same ▸ link⟩
  · exact ⟨fun is => absurd is idle, fun _ => present, opens, closed, link⟩
  · exact ⟨nofun, fun _ => present, nofun, fun _ => none_, link⟩
  · exact ⟨nofun, fun _ => present, fun _ => Nat.pos_of_ne_zero none_, nofun, link⟩

/-- A cause is removed; the link may have come UP in the step that removes LINK (R13, R142). -/
theorem removeCause {up : Bool} (h : State.SchedulerRelations { s with radio := { s.radio with up := up } }) {c : Cause}
    (link : (s.sched.causes.put c false).link = !s.radio.up) : (s.removeCause c).SchedulerRelations := by
  obtain ⟨running, frozen, opens, closed, _⟩ := h
  rw [State.removeCause_eq]
  unfold State.causeRemoved
  simp only
  split_ifs with was thaws
  · exact ⟨fun _ => thaws.1, nofun, nofun, nofun, link⟩
  · refine ⟨fun is => ?_, fun is => ?_, opens, closed, link⟩
    · have empty : s.sched.causes.isEmpty = true := running is
      cases c <;> simp_all [CauseSet.isEmpty, CauseSet.put]
    · exact Bool.eq_false_iff.2 fun empty => thaws ⟨empty, is⟩
  · have same : s.sched.causes.put c false = s.sched.causes := by
      cases c <;> simp only [CauseSet.get, Bool.not_eq_true] at was <;> simp only [CauseSet.put, ← was]
    exact ⟨running, frozen, opens, closed, same ▸ link⟩

end State.SchedulerRelations

/-! #### One record written -/

namespace Standing.Suits
variable {x : Standing} {i : Nat} {was : Bool} {r r' : Station}

/-- A list membership other than none tells of a station that is eligible, so its record is not FREE. -/
theorem live (h : x.Suits i was r) (listed : r.list ≠ .none) : r.admin ≠ .free := by
  intro free
  rw [h.free (.inl free)] at listed
  exact listed rfl

theorem below (h : x.Suits i was r) (live : r.admin ≠ .free) : i < 512 := by
  by_contra far
  exact live (by rw [h.free (.inr (by omega))]; rfl)

/-- A record that is not FREE written with the list, slot and poll it had. -/
theorem revise (h : x.Suits i was r) (live : r.admin ≠ .free)
    (dozing : r'.poll = true → r'.admin = .active ∧ r'.power = .dozing)
    (deficit : -1048575 ≤ r'.deficit
      ∧ r'.deficit ≤ (Table.get ClassEntry.default x.classes r'.cls.val).quantum)
    (credit : r'.list = .entry → 0 < r'.deficit) (queue : r'.queue.length ≤ r.queue.length)
    (live' : r'.admin ≠ .free := by simp) (list : r'.list = r.list := by exact rfl)
    (slot : r'.slot = r.slot := by exact rfl) (poll : r'.poll = r.poll := by exact rfl) : x.Suits i was r' where
  free := fun none_ => none_.elim (absurd · live') fun far => absurd (h.below live) (by omega)
  entry := list ▸ h.entry
  round := list ▸ h.round
  listed := list ▸ h.listed
  credit := credit
  polls := poll ▸ h.polls
  dozing := dozing
  slot := slot ▸ h.slot
  deficit := fun _ => deficit
  queue := queue.trans h.queue
  frames := fun k frames is => by
    have := h.frames k frames is
    omega

/-- A record that is not FREE written with none of the fields that the laws speak of changed, but that its queue may
have become shorter. -/
theorem same (h : x.Suits i was r) (live : r.admin ≠ .free) (admin : r'.admin = r.admin := by exact rfl)
    (power : r'.power = r.power := by exact rfl) (deficit : r'.deficit = r.deficit := by exact rfl)
    (cls : r'.cls = r.cls := by exact rfl) (queue : r'.queue.length ≤ r.queue.length := by exact le_refl _)
    (list : r'.list = r.list := by exact rfl) (slot : r'.slot = r.slot := by exact rfl)
    (poll : r'.poll = r.poll := by exact rfl) : x.Suits i was r' := by
  refine h.revise live (fun is => ?_) ?_ (fun is => ?_) queue (admin ▸ live) list slot poll
  · rw [admin, power]
    exact h.dozing (poll ▸ is)
  · rw [deficit, cls]
    exact h.deficit live
  · rw [deficit]
    exact h.credit (list ▸ is)

/-- A deficit written within its range: to a member of the Entry List, one above 0 (R87, R96). -/
theorem setDeficit (h : x.Suits i was r) (live : r.admin ≠ .free) {deficit : Int} (floor : -1048575 ≤ deficit)
    (most : deficit ≤ (Table.get ClassEntry.default x.classes r.cls.val).quantum)
    (credit : r.list = .entry → 0 < deficit) : x.Suits i was { r with deficit := deficit } :=
  h.revise live h.dozing ⟨floor, most⟩ credit (le_refl _) live

/-- A deficit charged by an airtime stays within its range (R88 to R90). -/
theorem charge (h : x.Suits i was r) (live : r.admin ≠ .free) (airtime : Nat)
    (credit : r.list = .entry → 0 < chargedDeficit r.deficit airtime) :
    x.Suits i was { r with deficit := chargedDeficit r.deficit airtime } := by
  have range := h.deficit live
  refine h.setDeficit live ?_ ?_ credit
  · unfold chargedDeficit
    exact le_max_right _ _
  · unfold chargedDeficit
    simp only [Config.deficitFloor_eq]
    omega

/-- A queue within the queue limit leaves room for the frames of a grant (R54, R75). -/
theorem setQueue (h : x.Suits i was r) (live : r.admin ≠ .free) {queue : List Nat} (most : queue.length ≤ 1024) :
    x.Suits i was { r with queue := queue } where
  free := fun none_ => none_.elim (absurd · live) fun far => absurd (h.below live) (by omega)
  entry := h.entry
  round := h.round
  listed := h.listed
  credit := h.credit
  polls := h.polls
  dozing := h.dozing
  slot := h.slot
  deficit := h.deficit
  queue := by show queue.length ≤ 1088; omega
  frames := fun k frames is => by
    have few := h.frames k frames is
    show frames.length ≤ 64 ∧ queue.length + frames.length ≤ 1088
    omega

/-- A station that is not eligible is in no list. -/
theorem unlisted (h : x.Suits i false r) : r.list = .none := by
  by_contra listed
  exact absurd (h.listed.1 listed).1 nofun

/-- The list membership tells of any eligibility while the station is the ROUND candidate (R103). -/
theorem of_candidate (h : x.Suits i was r) (candidate : x.candidate = true) (now : Bool) : x.Suits i now r :=
  { h with
    listed := by
      have := h.listed
      rw [candidate] at this ⊢
      simpa using this }

/-- The list membership written, with the places of the station in the two lists. -/
theorem setList (h : x.Suits i was r) (live : r.admin ≠ .free) {m : Membership} {now : Bool} {entry round : Nat}
    (listed : m ≠ .none ↔ now = true ∧ x.candidate = false) (credit : m = .entry → 0 < r.deficit)
    (inEntry : entry = if m = .entry then 1 else 0) (inRound : round = if m = .round then 1 else 0) :
    Standing.Suits { x with entry := entry, round := round } i now { r with list := m } :=
  { h with
    free := fun none_ => none_.elim (absurd · live) fun far => absurd (h.below live) (by omega)
    entry := inEntry
    round := inRound
    listed := listed
    credit := credit }

end Standing.Suits

/-! #### One station taken out and put back -/

theorem Scheduler.standing_setList {c : Scheduler} {entry round polls : List Nat} {j : Nat}
    (sameEntry : entry.count j = c.entryList.count j) (sameRound : round.count j = c.roundList.count j)
    (samePolls : polls.count j = c.pollQueue.count j) :
    Scheduler.standing { c with entryList := entry, roundList := round, pollQueue := polls } j = c.standing j := by
  simp only [Scheduler.standing, sameEntry, sameRound, samePolls]

theorem count_append_ne {l : List Nat} {i j : Nat} (ne : j ≠ i) : (l ++ [i]).count j = l.count j := by
  rw [List.count_append, List.count_singleton, if_neg (by simp [ne.symm]), Nat.add_zero]

theorem count_append_self (l : List Nat) (i : Nat) : (l ++ [i]).count i = l.count i + 1 := by
  rw [List.count_append, List.count_singleton_self]

theorem count_filter_ne {l : List Nat} {i j : Nat} (ne : j ≠ i) : (l.filter (· ≠ i)).count j = l.count j :=
  List.count_filter (by simpa using ne)

theorem count_filter_self (l : List Nat) (i : Nat) : (l.filter (· ≠ i)).count i = 0 := by
  rw [List.count_eq_zero]
  simp

namespace State.Ruled
variable {s : State} {i : Nat}

theorem takeOut (h : s.Ruled none) (i : Nat) : s.Ruled (some i) := { h with records := fun j _ => h.records j nofun }

theorem putBack (h : s.Ruled (some i)) (suits : s.Suits i (s.station i).eligible) : s.Ruled none :=
  { h with
    records := fun j _ => by
      by_cases same : j = i
      · exact same ▸ suits
      · exact h.records j fun out => same (Option.some.inj out).symm }

theorem setStation (h : s.Ruled (some i)) (r : Station) : (s.setStation i r).Ruled (some i) :=
  h.outside (Table.wf_set h.stations i r) h.slots (fun _ ne => s.station_setStation_ne r ne) (fun _ _ => rfl) h.usable

/-- The record of `i` and its places in the lists are written. -/
theorem setListed (h : s.Ruled (some i)) (r : Station) {entry round polls : List Nat}
    (sameEntry : ∀ j, j ≠ i → entry.count j = s.sched.entryList.count j)
    (sameRound : ∀ j, j ≠ i → round.count j = s.sched.roundList.count j)
    (samePolls : ∀ j, j ≠ i → polls.count j = s.sched.pollQueue.count j) :
    State.Ruled { s.setStation i r with
      sched := { s.sched with entryList := entry, roundList := round, pollQueue := polls } } (some i) :=
  h.outside (Table.wf_set h.stations i r) h.slots (fun _ ne => s.station_setStation_ne r ne)
    (fun j ne => Scheduler.standing_setList (sameEntry j ne) (sameRound j ne) (samePolls j ne)) h.usable

theorem station_setStation (h : s.Ruled (some i)) (r : Station) : (s.setStation i r).station i = r := by
  rw [State.station_setStation h.stations, if_pos rfl]

end State.Ruled

theorem State.Ruled.lags {s : State} (h : s.Ruled none) (i : Nat) : s.Lags i (s.station i).eligible :=
  ⟨h.takeOut i, h.records i nofun⟩

theorem State.Lags.ruled {s : State} {i : Nat} (h : s.Lags i (s.station i).eligible) : s.Ruled none :=
  h.out.putBack h.suits

/-- The record of `i` and its places in the lists are written, and suit each other. -/
theorem State.Lags.setListed {s : State} {i : Nat} {was now : Bool} (h : s.Lags i was) {r : Station}
    {entry round polls : List Nat} (sameEntry : ∀ j, j ≠ i → entry.count j = s.sched.entryList.count j)
    (sameRound : ∀ j, j ≠ i → round.count j = s.sched.roundList.count j)
    (samePolls : ∀ j, j ≠ i → polls.count j = s.sched.pollQueue.count j)
    (suits : Standing.Suits
      { s.sched.standing i with entry := entry.count i, round := round.count i, polls := polls.count i } i now r) :
    State.Lags { s.setStation i r with
      sched := { s.sched with entryList := entry, roundList := round, pollQueue := polls } } i now := by
  refine ⟨h.out.setListed r sameEntry sameRound samePolls, ?_⟩
  have reads : State.station { s.setStation i r with
      sched := { s.sched with entryList := entry, roundList := round, pollQueue := polls } } i = r :=
    h.out.station_setStation r
  unfold State.Suits
  rw [reads]
  exact suits

theorem State.Lags.setStation {s : State} {i : Nat} {was now : Bool} (h : s.Lags i was) {r : Station}
    (suits : (s.sched.standing i).Suits i now r) : (s.setStation i r).Lags i now :=
  h.setListed (fun _ _ => rfl) (fun _ _ => rfl) (fun _ _ => rfl) suits

theorem State.Lags.ruled_of {s : State} {i : Nat} {was : Bool} {r : Station} (h : s.Lags i was)
    (reads : s.station i = r) (eligible : r.eligible = was) : s.Ruled none := by
  refine State.Lags.ruled (i := i) ?_
  rw [reads, eligible]
  exact h

theorem State.Ruled.write {s : State} (h : s.Ruled none) {i : Nat} {r : Station}
    (suits : (s.sched.standing i).Suits i r.eligible r) : (s.setStation i r).Ruled none :=
  ((h.lags i).setStation suits).ruled_of ((h.takeOut i).station_setStation r) rfl

/-! #### The lists of eligible stations (R57, R92 to R94) -/

namespace State.Lags
variable {s : State} {i : Nat} {was : Bool}

/-- A station that has become eligible joins a list tail. -/
theorem joinList (h : s.Lags i false) (eligible : (s.station i).eligible = true)
    (free : s.sched.candidate ≠ some { station := i, kind := .round }) (freed : Bool) :
    (s.joinList i freed).Ruled none := by
  have live : (s.station i).admin ≠ .free := by
    intro is
    simp [Station.eligible, is] at eligible
  have none_ := h.suits.unlisted
  have noEntry : s.sched.entryList.count i = 0 := h.suits.entry.trans (by rw [none_]; rfl)
  have noRound : s.sched.roundList.count i = 0 := h.suits.round.trans (by rw [none_]; rfl)
  have free' := Scheduler.standing_candidate.2 free
  unfold State.joinList
  simp only
  split
  case isTrue =>
    refine (h.setListed (now := true) (fun _ _ => rfl) (fun _ ne => count_append_ne ne) (fun _ _ => rfl) ?_).ruled_of
      (h.out.station_setStation _) eligible
    exact h.suits.setList live (by simp [free']) nofun noEntry (by rw [count_append_self, noRound]; rfl)
  case isFalse broke =>
    refine (h.setListed (now := true) (fun _ ne => count_append_ne ne) (fun _ _ => rfl) (fun _ _ => rfl) ?_).ruled_of
      (h.out.station_setStation _) eligible
    exact h.suits.setList live (by simp [free']) (fun _ => by omega) (by rw [count_append_self, noEntry]; rfl) noRound

/-- A station that has ceased to be eligible, or is chosen, leaves its list. -/
theorem leaveList (h : s.Lags i was) (live : (s.station i).admin ≠ .free) : (s.leaveList i).Lags i false :=
  h.setListed (fun _ ne => count_filter_ne ne) (fun _ ne => count_filter_ne ne) (fun _ _ => rfl)
    (h.suits.setList live (by simp) nofun (count_filter_self _ _) (count_filter_self _ _))

/-- The hand-over of a change of eligibility brings the membership up to date. -/
theorem relist (h : s.Lags i was) (freed : Bool) : (s.relist i was freed).Ruled none := by
  rcases s.relist_cases i was freed with
    ⟨chosen, e⟩ | ⟨free, rfl, eligible, e⟩ | ⟨free, rfl, ceased, e⟩ | ⟨_, same, e⟩ <;> rw [e]
  · exact ruled ⟨h.out, h.suits.of_candidate (by simp [Scheduler.standing, chosen]) _⟩
  · exact h.joinList eligible free freed
  · have listed := h.suits.listed.2 ⟨rfl, Scheduler.standing_candidate.2 free⟩
    exact (h.leaveList (h.suits.live listed)).ruled_of (h.out.station_setStation _) ceased
  · exact ruled (same ▸ h)

end State.Lags

/-- One claim on a record, with its effect on the lists. -/
theorem State.Ruled.change {s : State} (h : s.Ruled none) {i : Nat} (freed : Bool) {f : Station → Station}
    (suits : (s.sched.standing i).Suits i (s.station i).eligible (f (s.station i))) : (s.change i freed f).Ruled none :=
  ((h.lags i).setStation suits).relist freed

theorem State.Lawful.suits {s : State} (h : s.Lawful) (i : Nat) :
    (s.sched.standing i).Suits i (s.station i).eligible (s.station i) := h.ruled.records i nofun

theorem State.Lawful.setStation {s : State} (h : s.Lawful) {i : Nat} {r : Station}
    (suits : (s.sched.standing i).Suits i r.eligible r) : (s.setStation i r).Lawful :=
  ⟨h.ruled.write suits, h.relations.of_same⟩

theorem State.Lawful.change {s : State} (h : s.Lawful) {i : Nat} (freed : Bool) {f : Station → Station}
    (suits : (s.sched.standing i).Suits i (s.station i).eligible (f (s.station i))) : (s.change i freed f).Lawful :=
  ⟨h.ruled.change freed suits, h.relations.of_same⟩

/-! #### Polls, and stations that leave service (R63, R70, R71, R157, R168) -/

/-- A poll written, with the places of the station in the Poll Queue. -/
theorem Standing.Suits.setPoll {x : Standing} {i : Nat} {was : Bool} {r : Station} (h : x.Suits i was r)
    (live : r.admin ≠ .free) {poll : Bool} {polls : Nat} (inQueue : polls = if poll = true then 1 else 0)
    (dozing : poll = true → r.admin = .active ∧ r.power = .dozing) :
    Standing.Suits { x with polls := polls } i was { r with poll := poll } :=
  { h with
    free := fun none_ => none_.elim (absurd · live) fun far => absurd (h.below live) (by omega)
    polls := inQueue
    dozing := dozing }

theorem State.Lags.cancelPoll {s : State} {i : Nat} {was : Bool} (h : s.Lags i was) : (s.cancelPoll i).Lags i was := by
  unfold State.cancelPoll
  split
  case isTrue pending =>
    have live : (s.station i).admin ≠ .free := by rw [(h.suits.dozing pending).1]; nofun
    exact h.setListed (fun _ _ => rfl) (fun _ _ => rfl) (fun _ ne => count_filter_ne ne)
      (h.suits.setPoll live (poll := false) (count_filter_self _ _) nofun)
  case isFalse => exact h

/-- A poll is set to no in no record that is FREE, and does not bear on eligibility. -/
theorem State.Ruled.cancelPoll {s : State} (h : s.Ruled none) (i : Nat) : (s.cancelPoll i).Ruled none := by
  have eligible : ((s.cancelPoll i).station i).eligible = (s.station i).eligible := by
    unfold State.cancelPoll
    split
    · show ((s.setStation i { s.station i with poll := false }).station i).eligible = _
      rw [(h.takeOut i).station_setStation]
      rfl
    · rfl
  exact State.Lags.ruled (eligible ▸ (h.lags i).cancelPoll)

theorem State.Lawful.cancelPoll {s : State} (h : s.Lawful) (i : Nat) : (s.cancelPoll i).Lawful :=
  ⟨h.ruled.cancelPoll i, h.relations.of_same⟩

/-- A poll set to yes, with its place in the Poll Queue (R70). -/
theorem State.Lawful.askPoll {s : State} (h : s.Lawful) {i : Nat} (active : (s.station i).admin = .active)
    (dozing : (s.station i).power = .dozing) (quiet : (s.station i).poll = false) :
    State.Lawful { s.setStation i { s.station i with poll := true } with
      sched := { s.sched with pollQueue := s.sched.pollQueue ++ [i] } } := by
  have live : (s.station i).admin ≠ .free := by rw [active]; nofun
  have none_ : s.sched.pollQueue.count i = 0 := (h.suits i).polls.trans (by rw [quiet]; rfl)
  refine ⟨?_, h.relations.of_same⟩
  refine ((h.ruled.lags i).setListed (fun _ _ => rfl) (fun _ _ => rfl) (fun _ ne => count_append_ne ne)
    ((h.suits i).setPoll live (poll := true) ?_ fun _ => ⟨active, dozing⟩)).ruled_of
      ((h.ruled.takeOut i).station_setStation _) rfl
  rw [count_append_self, none_]
  rfl

/-- A station that has ceased to be eligible is in no list, and no other has moved (R94). -/
theorem Standing.Suits.left_of_follows {s u : State} {i : Nat}
    (h : (s.sched.standing i).Suits i (s.station i).eligible (s.station i)) (follows : ListsFollow s u i false)
    (ceased : (u.station i).eligible = false) :
    (u.station i).list = .none ∧ (∀ j, j ≠ i → u.sched.entryList.count j = s.sched.entryList.count j)
      ∧ (∀ j, j ≠ i → u.sched.roundList.count j = s.sched.roundList.count j)
      ∧ u.sched.entryList.count i = 0 ∧ u.sched.roundList.count i = 0 := by
  unfold ListsFollow at follows
  simp only [ceased, Bool.false_eq_true, and_false, if_false, and_true] at follows
  split at follows <;> obtain ⟨list, entry, round⟩ := follows
  case isTrue =>
    rw [entry, round]
    exact ⟨list, fun _ ne => count_filter_ne ne, fun _ ne => count_filter_ne ne, count_filter_self _ _,
      count_filter_self _ _⟩
  case isFalse out =>
    have none_ : (s.station i).list = .none := by
      by_contra listed
      obtain ⟨was, free⟩ := h.listed.1 listed
      exact out ⟨Scheduler.standing_candidate.1 free, was⟩
    rw [entry, round]
    exact ⟨list.trans none_, fun _ _ => rfl, fun _ _ => rfl, h.entry.trans (by rw [none_]; rfl),
      h.round.trans (by rw [none_]; rfl)⟩

/-- A station that is ACTIVE no more is in no list and not in the Poll Queue (R63, R168). -/
theorem State.Lawful.retire {s : State} (h : s.Lawful) {i : Nat} (live : (s.station i).admin ≠ .free) {a : Admin}
    (busy : a ≠ .free) (idle : a ≠ .active) :
    ((s.change i false fun r => { r with admin := a }).cancelPoll i).Lawful := by
  have suits := h.suits i
  obtain ⟨form, others, reads, follows⟩ := s.change_cancelPoll i a busy
  refine ⟨?_, h.relations.of_same⟩
  have wf : Table.wf Station.free ((s.change i false fun r => { r with admin := a }).cancelPoll i).stations = true := by
    have changed := State.wf_relist (s.setStation i { s.station i with admin := a }) i (s.station i).eligible false
      (Table.wf_set h.ruled.stations _ _)
    unfold State.cancelPoll
    split
    · exact Table.wf_set changed _ _
    · exact changed
  generalize (s.change i false fun r => { r with admin := a }).cancelPoll i = u at *
  have ceased : (u.station i).eligible = false := by rw [reads]; simp [Station.eligible, idle]
  obtain ⟨none_, entry, round, noEntry, noRound⟩ := suits.left_of_follows follows ceased
  have sched := congrArg State.sched form
  have slots : u.sched.slots = s.sched.slots := by rw [sched]
  refine State.Lags.ruled (i := i) ⟨h.ruled.takeOut i |>.outside wf (slots ▸ h.ruled.slots) others (fun j ne => ?_)
    (fun k => ?_) ⟨by rw [sched], by rw [sched], by rw [form], by rw [form]⟩, ?_⟩
  · rw [sched]
    refine Scheduler.standing_setList (entry j ne) (round j ne) ?_
    split
    · exact count_filter_ne ne
    · rfl
  · rw [State.slot_congr slots]
    exact h.ruled.usable k
  · have polls : u.sched.pollQueue.count i = 0 := by
      rw [sched]
      show (if _ then _ else _ : List Nat).count i = 0
      split
      · exact count_filter_self _ _
      case isFalse quiet => exact suits.polls.trans (if_neg quiet)
    have stands : u.sched.standing i = { s.sched.standing i with entry := 0, round := 0, polls := 0 } := by
      simp only [Scheduler.standing, noEntry, noRound, polls, slots]
      rw [sched]
    have below := suits.below live
    unfold State.Suits
    rw [stands, ceased, reads, none_]
    exact
      { suits with
        free := fun none_ => none_.elim (absurd · busy) fun far => absurd below (by omega)
        entry := rfl
        round := rfl
        listed := by simp
        credit := nofun
        polls := rfl
        dozing := nofun
        deficit := fun _ => suits.deficit live }

/-! #### The Purge List, faults and teardown (R143, R144, R154, R157, R164, R168) -/

/-- At most one entry for a station, and for stations alone (R154). -/
def OnePerStation (l : List PurgeEntry) : Prop := (l.map PurgeEntry.station).Nodup ∧ ∀ e ∈ l, e.station < 512

theorem OnePerStation.askPurge {l : List PurgeEntry} (h : OnePerStation l) {i : Nat} (below : i < 512) (p : Purpose) :
    OnePerStation (askPurge l i p) := by
  obtain ⟨nodup, known⟩ := h
  rw [askPurge_eq]
  split
  case isTrue =>
    have stations : (l.map fun e => if e.station = i ∧ e.purpose.rank < p.rank then { e with purpose := p } else e).map
        PurgeEntry.station = l.map PurgeEntry.station := by
      rw [List.map_map]
      refine List.map_congr_left fun e _ => ?_
      simp only [Function.comp_apply]
      split <;> rfl
    refine ⟨stations ▸ nodup, fun e mem => ?_⟩
    have mem' := List.mem_map_of_mem (f := PurgeEntry.station) mem
    rw [stations] at mem'
    obtain ⟨e', mem', same⟩ := List.mem_map.1 mem'
    exact same ▸ known e' mem'
  case isFalse new =>
    constructor
    · rw [List.map_append]
      refine List.nodup_append'.2 ⟨nodup, List.nodup_singleton _, fun j mem mem' => ?_⟩
      obtain ⟨e, listed, rfl⟩ := List.mem_map.1 mem
      exact new ⟨e, listed, List.mem_singleton.1 mem'⟩
    · intro e mem
      rcases List.mem_append.1 mem with mem | mem
      · exact known e mem
      · rw [List.mem_singleton.1 mem]
        exact below

theorem OnePerStation.drop {l : List PurgeEntry} (h : OnePerStation l) (n : Nat) : OnePerStation (l.drop n) := by
  obtain ⟨nodup, known⟩ := h
  refine ⟨?_, fun e mem => known e (List.mem_of_mem_drop mem)⟩
  rw [List.map_drop]
  exact nodup.sublist (List.drop_sublist _ _)

namespace State.Lawful
variable {s : State}

theorem setPurge (h : s.Lawful) {l : List PurgeEntry} (law : OnePerStation l) : State.Lawful { s with purge := l } :=
  ⟨{ h.ruled with purge := law }, h.relations.of_same⟩

theorem record (h : s.Lawful) (e : Event) : (s.record e).Lawful := h.of_same

theorem checkStopped (h : s.Lawful) : s.checkStopped.Lawful := ⟨h.ruled.of_same, h.relations.checkStopped⟩

theorem checkRetired (h : s.Lawful) : s.checkRetired.Lawful := ⟨h.ruled.of_same, h.relations.checkRetired⟩

theorem withPools (h : s.Lawful) (b : BufferManager) : (s.withPools b).Lawful :=
  ⟨h.ruled.of_same, h.relations.withPools b⟩

theorem listForPurge (h : s.Lawful) {i : Nat} (below : i < 512) (p : Purpose) : (s.listForPurge i p).Lawful := by
  have asked := h.setPurge (OnePerStation.askPurge h.ruled.purge below p)
  exact .ite _ asked.checkStopped asked

theorem count (h : s.Lawful) (i : Nat) (f : StationCounters → StationCounters) : (s.count i f).Lawful := by
  unfold State.count
  split
  case isTrue => exact h
  case isFalse live => exact h.setStation ((h.suits i).same live)

theorem escalate (h : s.Lawful) {i : Nat} (active : (s.station i).admin = .active) : (s.escalate i).Lawful := by
  have live : (s.station i).admin ≠ .free := by rw [active]; nofun
  have retired := h.retire (a := .faulted) live nofun nofun
  have below := (h.suits i).below live
  unfold State.escalate
  simp only
  have asked := retired.setPurge (OnePerStation.askPurge retired.ruled.purge below .fault)
  exact .ite _ (asked.record _).checkStopped (asked.record _)

theorem takeClaim (h : s.Lawful) (c : FaultClaim) : (s.takeClaim c).Lawful := by
  unfold State.takeClaim
  split
  case isTrue active =>
    have live : (s.station c.station).admin ≠ .free := by rw [active.2]; nofun
    exact .ite _ (h.escalate active.2) (h.setStation ((h.suits _).same live))
  case isFalse => exact h

theorem settleFeedClaims (h : s.Lawful) (i : Nat) : (s.settleFeedClaims i).Lawful := by
  have taken : ∀ (claims : List FaultClaim) {u : State}, u.Lawful → (claims.foldl State.takeClaim u).Lawful := by
    intro claims
    induction claims with
    | nil => exact fun g => g
    | cons c rest ih => exact fun g => ih (g.takeClaim c)
  exact taken _ h.of_same

end State.Lawful

/-- A record made FREE is that of a station in no list, with no poll, queue or slot (R157). -/
theorem State.Ruled.checkTeardown {s : State} (h : s.Ruled none) (i : Nat) : (s.checkTeardown i).Ruled none := by
  unfold State.checkTeardown
  simp only
  split
  case isTrue due =>
    obtain ⟨purging, _, _, closed⟩ := due
    have suits : (s.sched.standing i).Suits i (s.station i).eligible (s.station i) := h.records i nofun
    have idle : (s.station i).eligible = false := by simp [Station.eligible, purging]
    have none_ : (s.station i).list = .none := (idle ▸ suits).unlisted
    have quiet : (s.station i).poll = false := by
      by_contra pending
      have := (suits.dozing (by simpa using pending)).1
      rw [purging] at this
      cases this
    have noGrant (k : Nat) : (s.sched.standing i).grants k = none := by
      rw [← Option.not_isSome_iff_eq_none, ← suits.slot k, closed]
      nofun
    refine State.Ruled.of_same (s := s.setStation i Station.free) (h.write ?_)
    exact
      { free := fun _ => rfl
        entry := suits.entry.trans (by rw [none_]; rfl)
        round := suits.round.trans (by rw [none_]; rfl)
        listed := ⟨fun listed => absurd rfl listed, fun now => nomatch now.1⟩
        credit := nofun
        polls := suits.polls.trans (by rw [quiet]; rfl)
        dozing := nofun
        slot := fun k => by
          rw [noGrant]
          exact ⟨nofun, nofun⟩
        deficit := fun busy => absurd rfl busy
        queue := Nat.zero_le _
        frames := fun k frames is => by
          rw [noGrant] at is
          cases is }
  case isFalse => exact h

theorem State.Lawful.checkTeardown {s : State} (h : s.Lawful) (i : Nat) : (s.checkTeardown i).Lawful :=
  ⟨h.ruled.checkTeardown i, h.relations.of_same⟩

/-! #### Releases (R26, R158) -/

namespace State.Ruled
variable {s : State} {i : Nat}

theorem count (h : s.Ruled (some i)) (f : StationCounters → StationCounters) : (s.count i f).Ruled (some i) := by
  unfold State.count
  split
  · exact h
  · exact h.setStation _

theorem release (h : s.Ruled (some i)) (d : Nat) (reason : Reason) : (s.release i d reason).Ruled (some i) := by
  unfold State.release
  simp only
  split
  · exact h.of_same.count _
  · split
    · exact h.of_same.count _
    · exact h.of_same.count _

theorem releases : ∀ (l : List (Nat × Reason)) {s : State}, s.Ruled (some i) → (s.releases i l).Ruled (some i)
  | [], _, h => h
  | (d, reason) :: rest, _, h => releases rest (h.release d reason)

end State.Ruled

namespace State.Lags
variable {s t : State} {i d : Nat} {was : Bool}

theorem of_same (h : s.Lags i was) (lists : s.SameLists t := by exact {})
    (stations : t.stations = s.stations := by simp) (slots : t.sched.slots = s.sched.slots := by simp) :
    t.Lags i was := by
  refine ⟨h.out.of_same lists stations slots, ?_⟩
  unfold State.Suits
  rw [lists.standing slots, State.station_congr stations]
  exact h.suits

theorem count (h : s.Lags i was) (f : StationCounters → StationCounters) : (s.count i f).Lags i was := by
  unfold State.count
  split
  case isTrue => exact h
  case isFalse live => exact h.setStation (h.suits.same live)

theorem release (h : s.Lags i was) (d : Nat) (reason : Reason) : (s.release i d reason).Lags i was := by
  unfold State.release
  simp only
  split
  · exact h.of_same.count _
  · split
    · exact h.of_same.count _
    · exact h.of_same.count _

/-- A station with a frame queued is not FREE. -/
theorem live_of_queue (h : s.Lags i was) {rest : List Nat} (queue : (s.station i).queue = d :: rest) :
    (s.station i).admin ≠ .free := by
  intro free
  rw [h.suits.free (.inl free)] at queue
  cases queue

theorem popQueue (h : s.Lags i was) {rest : List Nat} (queue : (s.station i).queue = d :: rest) :
    (s.popQueue i).Lags i was :=
  h.setStation (h.suits.same (h.live_of_queue queue) (queue := by simp))

theorem station_popQueue (h : s.Lags i was) :
    (s.popQueue i).station i = { s.station i with queue := (s.station i).queue.drop 1 } :=
  h.out.station_setStation _

/-- The head of a queue is released. -/
theorem popRelease (h : s.Lags i was) {rest : List Nat} (queue : (s.station i).queue = d :: rest) (reason : Reason) :
    ((s.popQueue i).release i d reason).Lags i was ∧ (((s.popQueue i).release i d reason).station i).queue = rest := by
  refine ⟨(h.popQueue queue).release d reason, ?_⟩
  rw [((s.popQueue i).record_release i d reason i).1, h.station_popQueue, queue]
  rfl

end State.Lags

theorem State.SchedulerRelations.popRelease {s : State} (h : s.SchedulerRelations) (i d : Nat) (reason : Reason) :
    ((s.popQueue i).release i d reason).SchedulerRelations :=
  State.SchedulerRelations.halts (s := s.popQueue i) (h.of_same rfl rfl rfl rfl) (State.state_release _ _ _ _)

/-! #### Ageing and purge (R152, R155) -/

theorem State.Lags.sweepQueue {i : Nat} {was : Bool} : ∀ (queue : List Nat) {s : State}, s.Lags i was →
    s.SchedulerRelations → (s.station i).queue = queue →
    (State.sweepQueue i queue s).Lags i was ∧ (State.sweepQueue i queue s).SchedulerRelations
  | [], _, h, g, _ => ⟨h, g⟩
  | d :: rest, s, h, g, queue => by
    rw [State.sweepQueue]
    split
    · obtain ⟨released, left⟩ := h.popRelease queue .expired
      exact sweepQueue rest released (g.popRelease i d .expired) left
    · exact ⟨h, g⟩

theorem State.Lawful.sweepStation {s : State} (h : s.Lawful) (i : Nat) : (s.sweepStation i).Lawful := by
  obtain ⟨lags, relations⟩ := (h.ruled.lags i).sweepQueue (s.station i).queue h.relations rfl
  unfold State.sweepStation
  exact ⟨lags.relist false, relations.of_same⟩

theorem State.Lawful.purgeHead {s : State} (h : s.Lawful) (i : Nat) (reason : Reason) :
    (s.purgeHead i reason).Lawful := by
  unfold State.purgeHead
  split
  · exact h
  case h_2 d rest queue =>
    obtain ⟨released, _⟩ := (h.ruled.lags i).popRelease queue reason
    exact ⟨released.relist false, (h.relations.popRelease i d reason).of_same⟩

theorem State.Lawful.purgeEntryLeaves {s : State} (h : s.Lawful) (i : Nat) : (s.purgeEntryLeaves i).Lawful :=
  ((h.setPurge (OnePerStation.drop h.ruled.purge 1)).checkTeardown i).checkStopped

/-! #### The Grant Slots (R99, R107, R111, R117) -/

/-- What the laws read of a grant. -/
def Grant.held (g : Grant) : Nat × List GrantFrame := (g.station, g.frames)

theorem Scheduler.grants_eq (c : Scheduler) (i k : Nat) : (c.standing i).grants k
    = ((Table.get none c.slots k).map Grant.held).bind fun h => if h.1 = i then some h.2 else none := by
  show (Table.get none c.slots k).bind _ = _
  cases Table.get none c.slots k <;> rfl

/-- The laws hold on if records, lists and all but the streams of the grants are as before. -/
theorem State.Ruled.of_held {s t : State} (h : s.Ruled none)
    (slots : Table.wf (none : Option Grant) t.sched.slots = true)
    (held : ∀ k, (t.slot k).map Grant.held = (s.slot k).map Grant.held) (lists : s.SameLists t := by exact {})
    (stations : t.stations = s.stations := by simp) : t.Ruled none := by
  have standing (i : Nat) : t.sched.standing i = s.sched.standing i := by
    have grants : (t.sched.standing i).grants = (s.sched.standing i).grants := by
      funext k
      rw [Scheduler.grants_eq, Scheduler.grants_eq]
      exact congrArg (Option.bind · _) (held k)
    simp only [Scheduler.standing] at grants ⊢
    rw [grants, lists.entry, lists.round, lists.polls, lists.candidate, lists.live]
  refine State.Lags.ruled (i := 0) ⟨(h.takeOut 0).outside (stations ▸ h.stations) slots
    (fun j _ => State.station_congr stations j) (fun j _ => standing j) (fun k => ?_) lists.toSameBounds, ?_⟩
  · rw [← Option.isSome_map (f := Grant.held), held, Option.isSome_map]
    exact h.usable k
  · unfold State.Suits
    rw [standing, State.station_congr stations]
    exact h.records 0 nofun

/-- As many slots are open as before if none was opened or freed. -/
theorem State.openSlots_of_held {s t : State} (held : ∀ k, (t.slot k).map Grant.held = (s.slot k).map Grant.held) :
    t.openSlots = s.openSlots := by
  have isSome (k : Nat) : (t.slot k).isSome = (s.slot k).isSome := by
    rw [← Option.isSome_map (f := Grant.held) (x := t.slot k), held, Option.isSome_map]
  simp only [State.openSlots, isSome]

theorem State.up_endStream (s : State) (ended : StreamEnd) : (s.endStream ended).radio.up = s.radio.up := by
  unfold State.endStream
  split
  · rfl
  · simp only
    split <;> rfl

/-- The end of a stream leaves every grant in its slot (R111). -/
theorem State.held_endStream {s : State} (wf : Table.wf (none : Option Grant) s.sched.slots = true)
    (ended : StreamEnd) :
    Table.wf (none : Option Grant) (s.endStream ended).sched.slots = true
      ∧ ∀ k, ((s.endStream ended).slot k).map Grant.held = (s.slot k).map Grant.held := by
  unfold State.endStream
  split
  · exact ⟨wf, fun _ => rfl⟩
  · simp only
    split
    case h_1 _ f _ _ g open_ =>
      refine ⟨Table.wf_set wf _ _, fun k => ?_⟩
      refine (congrArg (Option.map Grant.held) (State.slot_setSlot wf f.slot k _)).trans ?_
      split
      case isTrue same =>
        rw [same, open_]
        rfl
      case isFalse => rfl
    case h_2 => exact ⟨wf, fun _ => rfl⟩

theorem State.Ruled.endStream {s : State} (h : s.Ruled none) (ended : StreamEnd) : (s.endStream ended).Ruled none := by
  obtain ⟨slots, held⟩ := State.held_endStream h.slots ended
  exact h.of_held slots held

theorem State.Lawful.endStream {s : State} (h : s.Lawful) (ended : StreamEnd) : (s.endStream ended).Lawful :=
  ⟨h.ruled.endStream ended,
    h.relations.of_openSlots (State.openSlots_of_held (State.held_endStream h.ruled.slots ended).2)
      (up := s.up_endStream ended)⟩

theorem State.Lawful.tick {s : State} (h : s.Lawful) : s.tick.Lawful := by
  have held (t : Table (Option Grant)) (k : Nat) :
      (Table.get none (t.map fun e => (e.1, e.2.map Grant.tick)) k).map Grant.held
        = (Table.get none t k).map Grant.held := by
    rw [Table.get_map none (f := Option.map Grant.tick) rfl]
    cases Table.get none t k with
    | none => rfl
    | some g =>
      simp only [Option.map_some, Grant.tick]
      split <;> rfl
  have up : s.radio.tick.up = s.radio.up := by
    unfold RadioLink.tick
    split_ifs <;> rfl
  unfold State.tick
  split
  · exact h
  · exact ⟨h.ruled.of_held (Grant.wf_tick h.ruled.slots) (held _),
      h.relations.of_openSlots (State.openSlots_of_held (held _)) (up := up)⟩

/-- The grants of a station after slot `k` is written. -/
theorem State.grants_setSlot {s : State} (slots : Table.wf (none : Option Grant) s.sched.slots = true) (k : Nat)
    (x : Option Grant) (i l : Nat) : ((s.setSlot k x).sched.standing i).grants l
      = if l = k then x.bind fun g => if g.station = i then some g.frames else none
        else (s.sched.standing i).grants l := by
  show (Table.get none (s.setSlot k x).sched.slots l).bind _ = _
  rw [show Table.get none (s.setSlot k x).sched.slots l = _ from State.slot_setSlot slots k l x]
  split <;> rfl

/-- A slot that no other station's grant is in may be written with a grant of station `i`, or freed. -/
theorem State.Ruled.setSlot {s : State} {i k : Nat} (h : s.Ruled (some i)) {x : Option Grant}
    (was : ∀ g, s.slot k = some g → g.station = i) (now : ∀ g, x = some g → g.station = i)
    (usable : x.isSome = true → k < s.rp.options.slots) : (s.setSlot k x).Ruled (some i) := by
  refine h.outside h.stations (Table.wf_set h.slots k _) (fun _ _ => rfl) (fun j ne => ?_) fun l is => ?_
  · have others : ((s.setSlot k x).sched.standing j).grants = (s.sched.standing j).grants := by
      funext l
      rw [State.grants_setSlot h.slots]
      split
      case isTrue same =>
        have before : (s.sched.standing j).grants l = none := by
          refine Option.eq_none_iff_forall_ne_some.2 fun frames is => ?_
          obtain ⟨g, holds, station, _⟩ := Scheduler.grants_eq_some.1 is
          exact ne (station.symm.trans (was g (same ▸ holds)))
        rw [before]
        cases x with
        | none => rfl
        | some g => exact if_neg fun station => ne (station.symm.trans (now g rfl))
      case isFalse => rfl
    simp only [Scheduler.standing] at others ⊢
    rw [others]
    rfl
  · rw [State.slot_setSlot h.slots] at is
    split at is
    case isTrue same => exact same ▸ usable is
    case isFalse => exact h.usable l is

/-- A slot opened for a station that holds none (R107). -/
theorem State.Lags.openSlot {s : State} {i k : Nat} (h : s.Lags i false) (live : (s.station i).admin ≠ .free)
    (idle : (s.station i).slot = none) (unused : s.slot k = none) (usable : k < s.rp.options.slots) {g : Grant}
    (station : g.station = i) (few : g.frames.length ≤ 64)
    (total : g.frames.length + (s.station i).queue.length ≤ 1088) :
    ((s.setSlot k (some g)).setStation i { s.station i with slot := some k }).Ruled none := by
  have suits := h.suits
  have grants (l : Nat) :
      ((s.setSlot k (some g)).sched.standing i).grants l = if l = k then some g.frames else none := by
    have noGrant : (s.sched.standing i).grants l = none := by
      rw [← Option.not_isSome_iff_eq_none, ← suits.slot l, idle]
      nofun
    rw [State.grants_setSlot h.out.slots, noGrant]
    simp [station]
  have out := h.out.setSlot (k := k) (x := some g) (fun _ is => by rw [unused] at is; cases is)
    (fun _ is => Option.some.inj is ▸ station) fun _ => usable
  refine State.Ruled.putBack (i := i) (out.setStation _) ?_
  unfold State.Suits
  have closed : ({ s.station i with slot := some k } : Station).eligible = false := by simp [Station.eligible]
  rw [out.station_setStation, closed]
  exact
    { free := fun none_ => none_.elim (absurd · live) fun far => absurd (suits.below live) (by omega)
      entry := suits.entry
      round := suits.round
      listed := suits.listed
      credit := suits.credit
      polls := suits.polls
      dozing := suits.dozing
      slot := fun l => by
        show some k = some l ↔ (((s.setSlot k (some g)).sched.standing i).grants l).isSome = true
        rw [grants]
        split
        case isTrue same => simp [same]
        case isFalse ne => simp [Ne.symm ne]
      deficit := suits.deficit
      queue := suits.queue
      frames := fun l frames is => by
        have is' : (if l = k then some g.frames else none) = some frames := (grants l).symm.trans is
        split at is' <;> cases is'
        exact ⟨few, (Nat.add_comm _ _).trans_le total⟩ }

/-- A slot freed, its station's record holding none any more; the queue may have taken frames back (R115, R117). -/
theorem State.Ruled.freeSlot {s : State} {i k : Nat} (h : s.Ruled (some i))
    (suits : (s.sched.standing i).Suits i false { s.station i with queue := [] })
    (holds : (s.station i).slot = some k) (fits : (s.station i).queue.length ≤ 1088)
    (live : (s.station i).admin ≠ .free) :
    ((s.setSlot k none).setStation i { s.station i with slot := none }).Lags i false := by
  have mine : ∀ g, s.slot k = some g → g.station = i := by
    intro g is
    obtain ⟨g', is', station⟩ := Scheduler.grants_isSome.1 ((suits.slot k).1 holds)
    cases is.symm.trans is'
    exact station
  have noGrant (l : Nat) : ((s.setSlot k none).sched.standing i).grants l = none := by
    rw [State.grants_setSlot h.slots]
    split
    · rfl
    case isFalse ne =>
      rw [← Option.not_isSome_iff_eq_none, ← suits.slot l]
      intro other
      have : some k = some l := holds.symm.trans other
      exact ne (Option.some.inj this).symm
  have out := h.setSlot (x := none) mine nofun nofun
  refine ⟨out.setStation _, ?_⟩
  unfold State.Suits
  rw [out.station_setStation]
  exact
    { free := fun none_ => none_.elim (absurd · live) fun far => absurd (suits.below live) (by omega)
      entry := suits.entry
      round := suits.round
      listed := suits.listed
      credit := suits.credit
      polls := suits.polls
      dozing := suits.dozing
      slot := fun l => by
        show none = some l ↔ (((s.setSlot k none).sched.standing i).grants l).isSome = true
        rw [noGrant]
        exact ⟨nofun, nofun⟩
      deficit := suits.deficit
      queue := fits
      frames := fun l frames is => by
        have is' : none = some frames := (noGrant l).symm.trans is
        cases is' }

/-! #### The choice of the arbiter (R97, R102) -/

/-- The laws hold on if records and standings are as before. -/
theorem State.Ruled.of_standing {s t : State} (h : s.Ruled none)
    (standing : ∀ i, t.sched.standing i = s.sched.standing i) (same : s.SameBounds t := by exact {})
    (stations : t.stations = s.stations := by simp) (slots : t.sched.slots = s.sched.slots := by simp) : t.Ruled none :=
  State.Lags.ruled (i := 0)
    ⟨(h.takeOut 0).outside (stations ▸ h.stations) (slots ▸ h.slots) (fun j _ => State.station_congr stations j)
      (fun j _ => standing j) (fun k => by rw [State.slot_congr slots]; exact h.usable k) same, by
      unfold State.Suits
      rw [standing, State.station_congr stations]
      exact h.records 0 nofun⟩

theorem Scheduler.standing_setCandidate {c : Scheduler} {a : Option Candidate} {i : Nat}
    (same : a = some { station := i, kind := .round } ↔ c.candidate = some { station := i, kind := .round }) :
    Scheduler.standing { c with candidate := a } i = c.standing i := by
  simp only [Scheduler.standing, same]

/-- A candidate chosen from the Poll Queue, or dropped, is no ROUND candidate: no station's membership is held by it. -/
theorem State.Ruled.setCandidate {s : State} (h : s.Ruled none) {a : Option Candidate}
    (other : ∀ i, a = some { station := i, kind := .round } ↔
      s.sched.candidate = some { station := i, kind := .round }) :
    (s.setCandidate a).Ruled none :=
  h.of_standing fun i => Scheduler.standing_setCandidate (other i)

/-- A station chosen from its list is held by its candidacy (R102, R103). -/
theorem State.Lawful.takeRound {s : State} (h : s.Lawful) {i : Nat} (listed : (s.station i).list ≠ .none)
    (free : s.sched.candidate = none) : (s.takeRound i).Lawful := by
  have left := (h.ruled.lags i).leaveList ((h.suits i).live listed)
  refine ⟨State.Lags.ruled (i := i) ⟨left.out.outside left.out.stations left.out.slots (fun _ _ => rfl) (fun j ne => ?_)
    left.out.usable ⟨rfl, rfl, rfl, rfl⟩, ?_⟩, h.relations.of_same rfl rfl rfl rfl⟩
  · refine Scheduler.standing_setCandidate (c := (s.leaveList i).sched) ?_
    rw [State.leaveList_sched, free]
    simp [ne.symm]
  · have suits : Standing.Suits { (s.leaveList i).sched.standing i with candidate := true } i false
        ((s.leaveList i).station i) :=
      { left.suits with
        listed := by simp [left.suits.unlisted] }
    have stands : (s.takeRound i).sched.standing i = { (s.leaveList i).sched.standing i with candidate := true } := by
      simp [Scheduler.standing, State.takeRound, State.setCandidate]
    unfold State.Suits
    rw [stands]
    exact suits.of_candidate rfl _

/-- The end of a candidacy: a ROUND candidate's list membership tells of no eligibility (R103). -/
theorem State.Lawful.dropCandidate {s : State} (h : s.Lawful) {c : Candidate} (chosen : s.sched.candidate = some c)
    (round : c.kind = .round) : (s.setCandidate none).Lags c.station false := by
  have is : s.sched.candidate = some { station := c.station, kind := .round } := by rw [chosen, ← round]
  have suits := h.suits c.station
  refine ⟨(h.ruled.takeOut c.station).outside h.ruled.stations h.ruled.slots (fun _ _ => rfl) (fun j ne => ?_)
    h.ruled.usable, ?_⟩
  · refine Scheduler.standing_setCandidate (c := s.sched) ?_
    rw [is]
    simp [ne.symm]
  · have held : (s.sched.standing c.station).candidate = true := by simp [Scheduler.standing, is]
    have none_ := (suits.of_candidate held false).unlisted
    exact { suits with listed := by simp [show ((s.setCandidate none).station c.station).list = .none from none_] }

/-- A top-up leaves the head of the Round List within one quantum (R87, R97). -/
theorem State.Lawful.topUpHead {s : State} (h : s.Lawful) {i : Nat} {rest : List Nat}
    (head : s.sched.roundList = i :: rest)
    (broke : (s.station i).deficit ≤ 0) : (s.topUpHead i rest).Lawful := by
  have suits := h.suits i
  obtain ⟨_, round⟩ := nodup_and_mem_iff_count.2 fun j => (h.suits j).round
  have listed : (s.station i).list = .round := (round i).1 (by rw [head]; exact List.mem_cons_self)
  have live := suits.live (by rw [listed]; nofun)
  have moved (j : Nat) : (rest ++ [i]).count j = s.sched.roundList.count j := by
    rw [head]
    exact (List.perm_append_comm (l₁ := rest) (l₂ := [i])).count_eq j
  have range := suits.deficit live
  have topped := suits.setDeficit live (deficit := (s.station i).deficit + (s.liveClass (s.station i)).quantum)
    (by omega) (by unfold State.liveClass; exact add_le_of_nonpos_left broke) fun is => by rw [listed] at is; cases is
  refine ⟨?_, h.relations.of_same⟩
  refine ((h.ruled.lags i).setListed (fun _ _ => rfl) (fun j _ => moved j) (fun _ _ => rfl) ?_).ruled_of
    ((h.ruled.takeOut i).station_setStation _) rfl
  rw [moved]
  exact topped

/-- The top-up of R97 ends at a head of the Round List, or at none. -/
theorem State.Lawful.topUp : ∀ (n : Nat) {s : State}, s.Lawful → s.sched.candidate = none →
    (State.topUp n s).2.Lawful ∧ (State.topUp n s).2.sched.candidate = none
      ∧ ∀ i, (State.topUp n s).1 = some i → i ∈ (State.topUp n s).2.sched.roundList := by
  intro n
  induction n with
  | zero =>
    intro s h free
    unfold State.topUp
    split
    · exact ⟨h, free, nofun⟩
    case h_2 i rest head =>
      split
      · exact ⟨h, free, fun j is => by cases is; show i ∈ s.sched.roundList; rw [head]; exact List.mem_cons_self⟩
      · exact ⟨h, free, nofun⟩
  | succ n ih =>
    intro s h free
    unfold State.topUp
    split
    · exact ⟨h, free, nofun⟩
    case h_2 i rest head =>
      split
      · exact ⟨h, free, fun j is => by cases is; show i ∈ s.sched.roundList; rw [head]; exact List.mem_cons_self⟩
      case isFalse broke => exact ih (h.topUpHead head (by omega)) free

/-! #### Formation and issue (R104 to R107) -/

/-- The relations of a scheduler that was RUNNING, and may have HALTED since, say nothing of the slots. -/
theorem State.SchedulerRelations.opens {s t : State} (h : s.SchedulerRelations)
    (runs : s.sched.state = .running ∨ s.sched.state = .halted) (state : t.sched.state = s.sched.state := by simp)
    (causes : t.sched.causes = s.sched.causes := by simp) (up : t.radio.up = s.radio.up := by simp) :
    t.SchedulerRelations := by
  obtain ⟨running, _, _, _, link⟩ := h
  unfold State.SchedulerRelations
  rw [state, causes, up]
  rcases runs with runs | runs <;> rw [runs] at running ⊢
  · exact ⟨running, nofun, nofun, nofun, link⟩
  · exact ⟨nofun, nofun, nofun, nofun, link⟩

/-- Formation of a grant for station `i`, to be put in slot `k`: the frames placed so far, and what is left in the
queue. -/
structure State.Forming (s : State) (i k : Nat) (frames : List GrantFrame) : Prop where
  lags : s.Lags i false
  relations : s.SchedulerRelations
  runs : s.sched.state = .running ∨ s.sched.state = .halted
  live : (s.station i).admin ≠ .free
  idle : (s.station i).slot = none
  unused : s.slot k = none
  usable : k < s.rp.options.slots
  few : frames.length ≤ 64
  total : frames.length + (s.station i).queue.length ≤ 1088

namespace State.Forming
variable {s : State} {i k d : Nat} {frames : List GrantFrame} {rest : List Nat}

/-- A frame that may not be sent is released (R104). -/
theorem pass (h : s.Forming i k frames) (queue : (s.station i).queue = d :: rest) (reason : Reason) :
    ((s.popQueue i).release i d reason).Forming i k frames
      ∧ (((s.popQueue i).release i d reason).station i).queue = rest := by
  obtain ⟨released, left⟩ := h.lags.popRelease queue reason
  have reads := (s.popQueue i).station_release i d reason
  rw [h.lags.station_popQueue] at reads
  have total := h.total
  rw [queue, List.length_cons] at total
  refine ⟨⟨released, h.relations.popRelease i d reason, ?_, ?_, ?_, ?_, ?_, h.few, ?_⟩, left⟩
  · rcases (s.popQueue i).state_release i d reason with same | halted
    · rw [same]
      exact h.runs
    · exact .inr halted
  · rw [reads]
    exact h.live
  · rw [reads]
    exact h.idle
  · rw [State.slot_congr (State.release_sched_slots _ _ _ _)]
    exact h.unused
  · rw [State.release_rp]
    exact h.usable
  · rw [left]
    omega

/-- A frame enters the grant (R105). -/
theorem place (h : s.Forming i k frames) (queue : (s.station i).queue = d :: rest) (room : frames.length < 64) :
    (s.place i d).Forming i k (frames ++ [s.grantFrame d]) ∧ ((s.place i d).station i).queue = rest := by
  have reads : (s.place i d).station i = { s.station i with queue := rest } := by
    have popped := h.lags.station_popQueue
    rw [queue] at popped
    exact popped
  have total := h.total
  rw [queue, List.length_cons] at total
  have popped := h.lags.popQueue queue
  refine ⟨⟨popped.of_same ⟨⟨rfl, rfl, rfl, rfl⟩, rfl, rfl, rfl, rfl⟩ rfl rfl, h.relations.of_same rfl rfl rfl rfl,
    h.runs, ?_, ?_, h.unused, h.usable, ?_, ?_⟩, by rw [reads]⟩
  · rw [reads]
    exact h.live
  · rw [reads]
    exact h.idle
  · rw [List.length_append]
    exact room
  · rw [reads, List.length_append]
    show frames.length + 1 + rest.length ≤ 1088
    omega

/-- ROUND formation ends with an empty queue if it places no frame. -/
theorem formRound (i k most : Nat) (limit : Int) (row : RateEntry) (fits : most ≤ 64) : ∀ (queue : List Nat)
    (frames : List GrantFrame) (sum : Nat) {s : State}, s.Forming i k frames → (s.station i).queue = queue →
    (State.formRound i most limit row queue frames sum s).2.2.Forming i k
        (State.formRound i most limit row queue frames sum s).1
      ∧ ((State.formRound i most limit row queue frames sum s).1 = [] →
          ((State.formRound i most limit row queue frames sum s).2.2.station i).queue = [])
  | [], _, _, _, h, queue => ⟨h, fun _ => queue⟩
  | d :: rest, frames, sum, s, h, queue => by
    rw [State.formRound]
    split
    case isTrue full => exact ⟨h, fun none_ => absurd none_ full.1⟩
    case isFalse more =>
      have room : frames.length < 64 := by
        by_cases none_ : frames = []
        · rw [none_]
          decide
        · have : ¬ most ≤ frames.length := fun full => more ⟨none_, full⟩
          omega
      split
      case h_1 reason _ =>
        obtain ⟨passed, left⟩ := h.pass queue reason
        exact formRound i k most limit row fits rest _ _ passed left
      case h_2 =>
        simp only
        split
        case isTrue =>
          obtain ⟨placed, left⟩ := h.place queue room
          exact formRound i k most limit row fits rest _ _ placed left
        case isFalse stops => exact ⟨h, fun none_ => absurd (.inl none_) stops⟩

theorem formPoll (i k : Nat) (row : RateEntry) : ∀ (queue : List Nat) {s : State}, s.Forming i k [] →
    (s.station i).queue = queue →
    (State.formPoll i row queue s).2.2.Forming i k (State.formPoll i row queue s).1
  | [], _, h, _ => h
  | d :: rest, s, h, queue => by
    rw [State.formPoll]
    split
    case h_1 reason _ =>
      obtain ⟨passed, left⟩ := h.pass queue reason
      exact formPoll i k row rest passed left
    case h_2 => exact (h.place queue (by decide)).1

/-- Issue puts the grant formed into its slot (R107). -/
theorem issue (h : s.Forming i k frames) (kind : GrantKind) (estimate : Nat) :
    (s.issue k i kind frames estimate).Lawful := by
  have opened (g : Grant) (station : g.station = i) (same : g.frames = frames) :
      ((s.setSlot k (some g)).setStation i { s.station i with slot := some k }).Lawful :=
    ⟨h.lags.openSlot h.live h.idle h.unused h.usable station (same ▸ h.few) (same ▸ h.total), h.relations.opens h.runs⟩
  have begun {u : State} (g : u.Lawful) (serial : BitVec 8) (ctr : PartCounters) (feeder : Option Feed)
      (stream : Option GrantOut) :
      State.Lawful { u with
        sched := { u.sched with serial := serial }, ctr := ctr, feeder := feeder
        radio := { u.radio with stream := stream } } :=
    g.of_same
  unfold State.issue
  simp only
  refine .ite _ (begun ((opened _ ?_ ?_).count i _) _ _ _ _)
    ((begun ((opened _ ?_ ?_).count i _) _ _ _ _).endStream .cut) <;> rfl

end State.Forming

/-- A candidate that may be granted is taken into formation. -/
theorem State.Lags.forming {s : State} {i : Nat} (h : s.Lags i false) (relations : s.SchedulerRelations)
    (running : s.sched.state = .running) (free : s.freeSlot.isSome = true) (live : (s.station i).admin ≠ .free)
    (idle : (s.station i).slot = none) : s.Forming i (s.freeSlot.getD 0) [] := by
  obtain ⟨k, found⟩ := Option.isSome_iff_exists.1 free
  have usable : s.freeSlot.getD 0 < s.rp.options.slots := by
    rw [found]
    exact List.mem_range.1 (List.mem_of_find?_eq_some found)
  refine ⟨h, relations, .inl running, live, idle, State.slot_freeSlot free, usable, Nat.zero_le _, ?_⟩
  rw [List.length_nil, Nat.zero_add]
  exact h.suits.queue

theorem State.Forming.cancelPoll {s : State} {i k : Nat} {frames : List GrantFrame} (h : s.Forming i k frames) :
    (s.cancelPoll i).Forming i k frames := by
  have reads := State.station_cancelPoll_same h.live
  obtain ⟨lags, relations, runs, live, idle, unused, usable, few, total⟩ := h
  refine ⟨lags.cancelPoll, relations.of_same, ?_, ?_, ?_, ?_, ?_, few, ?_⟩
  · rw [State.cancelPoll_sched_state]
    exact runs
  · rw [reads]
    exact live
  · rw [reads]
    exact idle
  · rw [State.slot_congr (State.cancelPoll_sched_slots _ _)]
    exact unused
  · rw [State.cancelPoll_rp]
    exact usable
  · rw [reads]
    exact total

/-- Formation of a candidate that may be granted, its candidacy over: it is in no list. -/
theorem State.Forming.form {s : State} {c : Candidate} (h : s.Forming c.station (s.freeSlot.getD 0) [])
    (fits : (s.liveClass (s.station c.station)).maxFrames ≤ 64) : (s.form c).Lawful := by
  unfold State.form
  simp only
  split
  · obtain ⟨formed, none_⟩ := State.Forming.formRound c.station _ (s.liveClass (s.station c.station)).maxFrames
      (min (s.station c.station).deficit (s.liveClass (s.station c.station)).maxAirtime)
      (s.liveRate (s.station c.station)) fits (s.station c.station).queue [] 0 h rfl
    split
    case h_1 u e =>
      rw [e] at formed none_
      have ineligible : (u.station c.station).eligible = false := by
        unfold Station.eligible
        rw [none_ rfl]
        simp
      exact ⟨State.Lags.ruled (i := c.station) (ineligible ▸ formed.lags), formed.relations⟩
    case h_2 e =>
      rw [e] at formed
      exact formed.issue _ _
  · have formed :=
      State.Forming.formPoll c.station _ (s.liveRate (s.station c.station)) (s.station c.station).queue h rfl
    exact formed.cancelPoll.issue _ _

/-! #### The end of a grant (R114 to R118) -/

/-- The slot is freed, the station torn down or listed anew, and the scheduler told (R117). -/
theorem State.Ruled.closeSlot {s : State} {i k : Nat} (h : s.Ruled (some i))
    (suits : (s.sched.standing i).Suits i false { s.station i with queue := [] }) (holds : (s.station i).slot = some k)
    (fits : (s.station i).queue.length ≤ 1088) (live : (s.station i).admin ≠ .free) (relations : s.SchedulerRelations) :
    (s.closeSlot k i).Lawful := by
  have was : ((s.setSlot k none).station i).eligible = false := by
    show (s.station i).eligible = false
    simp [Station.eligible, holds]
  have listed : ((s.setSlot k none).change i true fun r => { r with slot := none }).Ruled none := by
    unfold State.change
    rw [was]
    exact (h.freeSlot suits holds fits live).relist true
  have fewer : (s.setSlot k none).openSlots ≤ s.openSlots := by
    refine List.countP_mono_left fun l _ => ?_
    rw [State.slot_setSlot h.slots]
    split
    · nofun
    · exact id
  obtain ⟨running, frozen, _, closed, link⟩ := relations
  have torn := listed.checkTeardown i
  unfold State.closeSlot
  refine ⟨torn.of_same, State.SchedulerRelations.slotFreed ?_ ?_ (fun is => ?_) ?_⟩
  · simpa using running
  · simpa using frozen
  · rw [State.openSlots_congr (s := s.setSlot k none) (by simp)]
    have := closed (by simpa using is)
    omega
  · simpa using link

/-- The end of a grant: the record of its station written, its frames released, its slot closed. -/
theorem State.Lawful.endGrant {s : State} (h : s.Lawful) {k : Nat} {g : Grant} (open_ : s.slot k = some g) {r : Station}
    (suits : (s.sched.standing g.station).Suits g.station false { r with queue := [] }) (fits : r.queue.length ≤ 1088)
    (l : List (Nat × Reason)) : (((s.setStation g.station r).releases g.station l).closeSlot k g.station).Lawful := by
  have holds : r.slot = some k := (suits.slot k).2 (Scheduler.grants_isSome.2 ⟨g, open_, rfl⟩)
  have live : r.admin ≠ .free := fun is => by
    have free := congrArg Station.slot (suits.free (.inl is))
    cases holds.symm.trans free
  have out := ((h.ruled.takeOut g.station).setStation r).releases l
  have reads := State.station_releases g.station l (s.setStation g.station r)
  rw [(h.ruled.takeOut g.station).station_setStation] at reads
  refine out.closeSlot (k := k) ?_ (by rw [reads]; exact holds) (by rw [reads]; exact fits)
    (by rw [reads]; exact live) ?_
  · rw [State.SameLists.standing (s := s) {} (by simp), reads]
    exact suits.same live
  · exact State.SchedulerRelations.halts (s := s.setStation g.station r) h.relations.of_same
      (State.state_releases _ _ _)

/-- The record of a station with an open slot: it is in no list. -/
theorem State.Lawful.suits_open {s : State} (h : s.Lawful) {k : Nat} {g : Grant} (open_ : s.slot k = some g) :
    (s.sched.standing g.station).Suits g.station false (s.station g.station) ∧ (s.station g.station).admin ≠ .free
      ∧ (s.station g.station).queue.length + g.frames.length ≤ 1088 := by
  have suits := h.suits g.station
  have holds := (suits.slot k).2 (Scheduler.grants_isSome.2 ⟨g, open_, rfl⟩)
  have ineligible : (s.station g.station).eligible = false := by simp [Station.eligible, holds]
  refine ⟨ineligible ▸ suits, fun is => ?_, (suits.frames k _ (Scheduler.grants_eq_some.2 ⟨g, open_, rfl, rfl⟩)).2⟩
  rw [suits.free (.inl is)] at holds
  cases holds

theorem State.Lawful.timeout {s : State} (h : s.Lawful) {k : Nat} {g : Grant} (open_ : s.slot k = some g) :
    (s.timeout k g).Lawful := by
  obtain ⟨suits, live, total⟩ := h.suits_open open_
  have none_ := suits.unlisted
  have charged := suits.charge live g.estimate fun is => by rw [none_] at is; cases is
  have counted : State.Lawful { s with ctr := { s.ctr with grantTimeouts := addTo s.ctr.grantTimeouts 1 } } := h.of_same
  exact counted.endGrant
    (r := { s.station g.station with deficit := chargedDeficit (s.station g.station).deficit g.estimate })
    open_ (charged.same live (queue := Nat.zero_le _)) (by show (s.station g.station).queue.length ≤ 1088; omega) _

/-- No more frames are requeued than the grant holds. -/
theorem State.length_requeued_endings (s : State) (r : Station) (frames : List GrantFrame)
    (outcomes : List FrameOutcome) :
    (requeued (s.endings r frames outcomes)).length ≤ frames.length := by
  unfold requeued State.endings
  rw [List.length_map]
  refine (List.length_filter_le _ _).trans ?_
  rw [List.length_zipWith]
  exact Nat.min_le_left _ _

theorem State.slots_settleFeedClaims (s : State) (i : Nat) : (s.settleFeedClaims i).sched.slots = s.sched.slots := by
  have taken : ∀ (claims : List FaultClaim) (u : State),
      (claims.foldl State.takeClaim u).sched.slots = u.sched.slots := by
    intro claims
    induction claims with
    | nil => exact fun _ => rfl
    | cons c rest ih => exact fun u => (ih (u.takeClaim c)).trans (State.takeClaim_sched_slots u c)
  exact taken _ _

theorem State.Lawful.validDone {s : State} (h : s.Lawful) {k : Nat} {g : Grant} (open_ : s.slot k = some g)
    (m : DoneMsg) (outcomes : List FrameOutcome) : (s.validDone k g m outcomes).Lawful := by
  have settled := h.settleFeedClaims g.station
  have open_' := (State.slot_congr (s.slots_settleFeedClaims g.station) k).trans open_
  unfold State.validDone
  simp only
  generalize s.settleFeedClaims g.station = u at settled open_'
  obtain ⟨suits, live, total⟩ := settled.suits_open open_'
  have none_ := suits.unlisted
  have back := u.length_requeued_endings (u.station g.station) g.frames outcomes
  generalize u.endings (u.station g.station) g.frames outcomes = endings at back
  have charged := suits.charge live m.airtime fun is => by rw [none_] at is; cases is
  have again : (u.queueAgain (requeued endings)).Lawful := settled.of_same
  refine again.endGrant (g := g) ?_ ?_ ?_ _
  · rw [State.slot_congr (s := u) (by simp)]
    exact open_'
  · rw [State.queueAgain_sched]
    exact charged.same live (queue := Nat.zero_le _)
  · show (requeued endings ++ (u.station g.station).queue).length ≤ 1088
    rw [List.length_append]
    omega

theorem State.Lawful.takeDone {s : State} (h : s.Lawful) (m : DoneMsg) : (s.takeDone m).Lawful := by
  have late : (s.lateDone m).Lawful := h.of_same
  have error (cause : ProtocolCause) : (s.protocolError cause kindDone m.slot m.serial 0).Lawful := h.of_same
  unfold State.takeDone
  split
  · exact late
  case h_2 g slot =>
    split
    · exact late
    · split
      · exact error _
      · split
        · exact error _
        case h_2 outcomes _ =>
          split_ifs at slot with known
          exact h.validDone slot m outcomes

/-! #### The link, notes and uplink forwarding -/

/-- What the laws use of the ranges of a class (R75). -/
theorem ClassEntry.bounds {e : ClassEntry} (h : e.inRange = true) :
    100 ≤ e.quantum ∧ e.maxFrames ≤ 64 ∧ e.queueLimit ≤ 1024 := by
  simp only [ClassEntry.inRange, decide_eq_true_eq] at h
  omega

/-- Whatever state the outcome `o` of a command on `s` names, it is lawful if `s` is. -/
def State.LawfulBy (s : State) (o : Host.Outcome State Fault Refusal) : Prop := s.Lawful → ∀ t, o = .next t → t.Lawful

theorem State.LawfulBy.next {s t : State} (h : s.Lawful → t.Lawful) : s.LawfulBy (.next t) := by
  rintro lawful _ ⟨⟩
  exact h lawful

/-- A command that its rules do not call for changes nothing. -/
theorem State.LawfulBy.unless {s t : State} (c : Prop) [Decidable c] (h : s.Lawful → t.Lawful) :
    s.LawfulBy (.next (if c then s else t)) := .next fun lawful => .ite c lawful (h lawful)

namespace State.Lawful
variable {s : State}

/-- HOST and RADIO come and go with the link as it is. -/
theorem addCause (h : s.Lawful) {c : Cause} (link : c ≠ .link) : (s.addCause c).Lawful := by
  refine ⟨h.ruled.of_same, State.SchedulerRelations.addCause (up := s.radio.up) h.relations ?_⟩
  obtain ⟨_, _, _, _, same⟩ := h.relations
  cases c with
  | link => exact absurd rfl link
  | host => exact same
  | radio => exact same

theorem removeCause (h : s.Lawful) {c : Cause} (link : c ≠ .link) : (s.removeCause c).Lawful := by
  refine ⟨h.ruled.of_same, State.SchedulerRelations.removeCause (up := s.radio.up) h.relations ?_⟩
  obtain ⟨_, _, _, _, same⟩ := h.relations
  cases c with
  | link => exact absurd rfl link
  | host => exact same
  | radio => exact same

/-- LINK is removed in the step that moves the link UP (R142). -/
theorem linkUp (h : s.Lawful) : ((State.record { s with radio := { s.radio with up := true, settle := 0 } }
    (.radioLink true)).removeCause .link).Lawful := by
  refine ⟨h.ruled.of_same, State.SchedulerRelations.removeCause (up := s.radio.up) ?_ rfl⟩
  exact h.relations.of_same rfl rfl rfl rfl

/-- LINK is added in the step that moves the link DOWN, after the stream has been cut (R13, R142). -/
theorem linkDown (h : s.Lawful) : (((State.record { s with
    radio := { s.radio with up := false, settle := 0 }, uplink := { s.uplink with claim := none } }
    (.radioLink false)).endStream .cut).addCause .link).Lawful := by
  have ruled : (State.record { s with
      radio := { s.radio with up := false, settle := 0 }, uplink := { s.uplink with claim := none } }
      (.radioLink false)).Ruled none := h.ruled.of_same
  have link : (State.record { s with
      radio := { s.radio with up := false, settle := 0 }, uplink := { s.uplink with claim := none } }
      (.radioLink false)).radio.up = false := rfl
  have relations := h.relations.of_same (t := { State.record { s with
      radio := { s.radio with up := false, settle := 0 }, uplink := { s.uplink with claim := none } }
      (.radioLink false) with radio := s.radio }) rfl rfl rfl rfl
  generalize State.record _ _ = u at *
  have cut := ruled.endStream .cut
  refine ⟨cut.of_same, State.SchedulerRelations.addCause (up := s.radio.up) ?_ ?_⟩
  · exact relations.of_openSlots (State.openSlots_of_held (State.held_endStream ruled.slots .cut).2)
  · rw [State.up_endStream, link]
    rfl

end State.Lawful

theorem Standing.Suits.setPower {x : Standing} {i : Nat} {was : Bool} {r : Station} (h : x.Suits i was r)
    (live : r.admin ≠ .free) {power : Power} (pending : r.poll = true → power = .dozing) :
    x.Suits i was { r with power := power } :=
  h.revise live (fun is => ⟨(h.dozing is).1, pending is⟩) (h.deficit live) h.credit (le_refl _) live

/-- Only an ACTIVE station is eligible (R57). -/
theorem Station.eligible_of_idle {r : Station} (idle : r.admin ≠ .active) : r.eligible = false := by
  simp [Station.eligible, idle]

/-- A FAULTED station has no poll pending, and is not eligible whatever its power. -/
theorem State.Lawful.setPower_faulted {s : State} (h : s.Lawful) {i : Nat} (faulted : (s.station i).admin = .faulted)
    (power : Power) : (s.setStation i { s.station i with power := power }).Lawful := by
  have suits := h.suits i
  have same : ({ s.station i with power := power } : Station).eligible = (s.station i).eligible := by
    rw [Station.eligible_of_idle (by rw [faulted]; nofun), Station.eligible_of_idle (by rw [faulted]; nofun)]
  refine h.setStation (same ▸ suits.setPower (by rw [faulted]; nofun) fun pending => ?_)
  rw [(suits.dozing pending).1] at faulted
  cases faulted

/-- A frame is appended for an ACTIVE station with room in its queue alone (R38, R49). -/
theorem State.takes_of_appendFault_none {s : State} {e : IngressEntry} (h : s.appendFault e = none) :
    (s.station e.station.toNat).admin = .active
      ∧ (s.station e.station.toNat).queue.length < (s.liveClass (s.station e.station.toNat)).queueLimit := by
  have sound : s.stationFault e = none := by
    unfold State.appendFault at h
    cases open_ : s.sched.state.admissionFault with
    | some reason => simp [open_] at h
    | none => simpa [open_] using h
  unfold State.stationFault at sound
  simp only at sound
  split_ifs at sound with known purging faulted address room
  refine ⟨?_, room⟩
  cases admin : (s.station e.station.toNat).admin with
  | free => exact absurd (.inr admin) known
  | purging => exact absurd admin purging
  | faulted => exact absurd admin faulted
  | active => rfl

namespace State.Lawful
variable {s : State}

theorem ignoreNote (h : s.Lawful) : s.ignoreNote.Lawful := h.of_same

theorem doze (h : s.Lawful) (i : Nat) : (s.doze i).Lawful := by
  rcases s.admin_cases i with unknown | ⟨_, purging⟩ | ⟨known, faulted⟩ | ⟨known, active⟩
  · rw [State.doze_ignored (unknown.imp_right .inl)]
    exact h.ignoreNote
  · rw [State.doze_ignored (.inr (.inr purging))]
    exact h.ignoreNote
  · rw [State.doze_faulted known faulted]
    exact h.setPower_faulted faulted _
  · rw [State.doze_active known active]
    exact h.change false ((h.suits i).setPower (by rw [active]; nofun) fun _ => rfl)

theorem wake (h : s.Lawful) (i : Nat) : (s.wake i).Lawful := by
  rcases s.admin_cases i with unknown | ⟨_, purging⟩ | ⟨known, faulted⟩ | ⟨known, active⟩
  · rw [State.wake_ignored (unknown.imp_right .inl)]
    exact h.ignoreNote
  · rw [State.wake_ignored (.inr (.inr purging))]
    exact h.ignoreNote
  · rw [State.wake_faulted known faulted]
    exact h.setPower_faulted faulted _
  · cases power : (s.station i).power with
    | awake =>
      rw [State.wake_awake known active power]
      exact h
    | dozing =>
      have live : (s.station i).admin ≠ .free := by rw [active]; nofun
      have quiet := State.station_cancelPoll_same live
      rw [State.wake_dozing known active power]
      refine (h.cancelPoll i).change false (((h.cancelPoll i).suits i).setPower ?_ ?_)
      · rw [quiet]
        exact live
      · rw [quiet]
        nofun

theorem takePoll (h : s.Lawful) (i : Nat) : (s.takePoll i).Lawful := by
  rw [State.takePoll_eq]
  split
  case isTrue taken =>
    obtain ⟨_, active, dozing, quiet⟩ := taken
    exact h.askPoll active dozing quiet
  case isFalse => exact h.ignoreNote

/-- The charge of an UP message moves an Entry List member without credit to the Round List tail (R96). -/
theorem chargeUplink (h : s.Lawful) {i : Nat} (live : (s.station i).admin ≠ .free) (airtime : Nat) :
    (s.chargeUplink i airtime).Lawful := by
  have suits := h.suits i
  unfold State.chargeUplink
  simp only
  split
  case isTrue broke =>
    obtain ⟨listed, _⟩ := broke
    have noRound : s.sched.roundList.count i = 0 := suits.round.trans (by rw [listed]; rfl)
    refine ⟨((h.ruled.lags i).setListed (fun _ ne => count_filter_ne ne) (fun _ ne => count_append_ne ne)
      (fun _ _ => rfl) ?_).ruled_of ((h.ruled.takeOut i).station_setStation _) rfl, h.relations.of_same⟩
    have moved := suits.setList live (m := .round) (entry := (s.sched.entryList.filter (· ≠ i)).count i)
      (round := (s.sched.roundList ++ [i]).count i) (by rw [← suits.listed, listed]; simp) nofun (count_filter_self _ _)
      (by rw [count_append_self, noRound]; rfl)
    exact (moved.charge live (uplinkCharge airtime (s.station i).share) nofun).same live
  case isFalse credit =>
    refine h.setStation ((suits.charge live (uplinkCharge airtime (s.station i).share) fun listed => ?_).same live)
    exact not_le.1 fun broke => credit ⟨listed, broke⟩

theorem takeUp (h : s.Lawful) (m : UpMessage) : (s.takeUp m).Lawful := by
  have sorted : (s.sortUplink m).Lawful := by
    unfold State.sortUplink
    split
    case isTrue known =>
      refine h.chargeUplink (fun free => ?_) _
      simp [State.uplinkKnown, free] at known
    case isFalse => exact h.of_same
  have lost (known : Bool) : ((s.sortUplink m).loseUplink m known).Lawful :=
    .ite _ sorted (.ite _ sorted.of_same (.ite _ (sorted.count _ _) sorted))
  unfold State.takeUp
  simp only
  split
  · exact lost _
  · exact .ite _ sorted.of_same h

/-! #### Admission -/

theorem countRefusal (h : s.Lawful) (e : IngressEntry) : (s.countRefusal e).Lawful := by
  unfold State.countRefusal
  split
  · exact h.count _ _
  · exact h

theorem addDisposal (h : s.Lawful) (d : Nat) : State.Lawful { s with disposal := s.disposal ++ [d] } := h.of_same

theorem admissionEnds (h : s.Lawful) : s.admissionEnds.Lawful := h.of_same

theorem refuse (h : s.Lawful) (e : IngressEntry) (reason : Reason) : (s.refuse e reason).Lawful := by
  unfold State.refuse
  split
  · exact h.of_same
  case h_2 d b _ =>
    exact ((h.withPools (b.setDesc d (refusedDesc e reason))).addDisposal d |>.countRefusal e).admissionEnds

theorem decideAdmission (h : s.Lawful) (e : IngressEntry) : (s.decideAdmission e).Lawful := by
  unfold State.decideAdmission
  split
  · exact h.refuse e _
  · split
    · exact h.refuse e _
    case h_2 d cells b _ => exact (h.withPools (b.setDesc d (acceptedDesc e cells))).of_same

theorem refuseLate (h : s.Lawful) (e : IngressEntry) (d : Nat) (reason : Reason) :
    (s.refuseLate e d reason).Lawful :=
  ((h.withPools ((s.bm.giveBack d (s.desc d).segs).setDesc d (refusedDesc e reason))).addDisposal d
    |>.countRefusal e).admissionEnds

/-- A frame is queued for an ACTIVE station below its queue limit (R49, R54). -/
theorem enqueue (h : s.Lawful) {e : IngressEntry} (fits : s.appendFault e = none) (d : Nat) :
    (s.enqueue e d).Lawful := by
  obtain ⟨active, room⟩ : (s.station e.station.toNat).admin = .active
      ∧ (s.station e.station.toNat).queue.length < (s.liveClass (s.station e.station.toNat)).queueLimit :=
    State.takes_of_appendFault_none fits
  have limit : (s.liveClass (s.station e.station.toNat)).queueLimit ≤ 1024 :=
    (ClassEntry.bounds (h.ruled.classes _).1).2.2
  have live : (s.station e.station.toNat).admin ≠ .free := by rw [active]; nofun
  have stamped : (s.setDesc d { s.desc d with stamp := s.timeBase, place := .queued, parityOk := true }).Lawful :=
    h.of_same
  refine State.Lawful.admissionEnds
    (stamped.change (i := e.station.toNat) false (f := fun r => { r with queue := r.queue ++ [d] }) ?_)
  refine (h.suits e.station.toNat).setQueue live ?_
  show ((s.station e.station.toNat).queue ++ [d]).length ≤ 1024
  rw [List.length_append, List.length_singleton]
  omega

end State.Lawful

/-! #### Requests on station records (R59 to R66) -/

namespace State.Lawful
variable {s : State}

theorem finish (h : s.Lawful) (r : Response) (cursor : Option Cursor) : (s.finish r cursor).Lawful :=
  h.of_same { options := by rw [State.finish_eq]; rfl }

theorem progress (h : s.Lawful) (e : Execution) (out : List Byte) : (s.progress e out).Lawful := h.of_same

theorem takeRequest (h : s.Lawful) {k : Option RequestKind} {q : Request} {u : State}
    (taken : s.takeRequest k = some (q, u)) : u.Lawful := by
  unfold State.takeRequest at taken
  split at taken
  · split at taken
    · split at taken
      · cases taken
        exact h.of_same
      · cases taken
    · cases taken
  · cases taken

theorem claims {claim : Execution → State → State} (each : ∀ e {u : State}, u.Lawful → (claim e u).Lawful) :
    ∀ (n : Nat) {t : State}, t.Lawful → (State.claims claim n t).Lawful
  | 0, _, h => h
  | n + 1, t, h => by
    rw [State.claims]
    split
    · exact h
    · exact claims each n (each _ h)

theorem entryClaim (h : s.Lawful) (e : Execution) (entries index : Nat) {result : Except Reason State}
    (effect : ∀ u, result = .ok u → u.Lawful) : (s.entryClaim e entries index result).Lawful := by
  unfold State.entryClaim
  split
  · exact h.finish _ none
  case h_2 u =>
    have done := effect u rfl
    exact .ite _ (done.finish _ none) (done.progress e [])

end State.Lawful

/-- A request executed in one step is lawful if its run is, in a state that the request is not refused in. -/
theorem State.LawfulBy.request {s : State} (k : RequestKind) {run : Request → State → State}
    (runs : ∀ q {u : State}, u.Lawful → k.stateFault u.sched.state = none → (run q u).Lawful) :
    s.LawfulBy (.next (s.request k run)) := by
  refine .next fun h => ?_
  unfold State.request
  split
  · exact h
  case h_2 q u taken =>
    have served := h.takeRequest taken
    split
    · exact served.finish _ none
    case h_2 sound =>
      refine runs q served (by_contra fun fault => ?_)
      rw [requestFault_eq, if_pos fault] at sound
      split at sound
      · cases sound
      · exact fault sound

/-- A request executed claim by claim is lawful if every claim is. -/
theorem State.LawfulBy.claimRequest {s : State} (k : RequestKind) (fields : Request → State → Option Reason)
    {claim : Execution → State → State} (each : ∀ e {u : State}, u.Lawful → (claim e u).Lawful) (n : Nat) :
    s.LawfulBy (.next (s.claimRequest k fields claim n)) := by
  refine .next fun h => ?_
  unfold State.claimRequest
  split
  · exact .ite _ (h.claims each n) h
  · split
    · exact h
    case h_2 q u taken =>
      have served := h.takeRequest taken
      split
      · exact served.finish _ none
      · exact State.Lawful.claims each n served.of_same

/-- A FREE record, in no list and no slot, is programmed (R61). -/
theorem Standing.Suits.programmed {x : Standing} {i : Nat} {was : Bool} {r : Station} (h : x.Suits i was r)
    (free : r.admin = .free) (below : i < 512) (p : ProgramEntry) : x.Suits i p.fresh.eligible p.fresh := by
  have is := h.free (.inl free)
  subst is
  exact
    { h with
      free := fun none_ => none_.elim nofun fun far => absurd below (by omega)
      listed := ⟨fun listed => absurd rfl listed, fun now => nomatch now.1⟩
      dozing := nofun
      deficit := fun _ => ⟨show (-1048575 : Int) ≤ 0 by decide, Int.natCast_nonneg _⟩ }

/-- An ACTIVE record keeps its deficit within the quantum of its new class, which is above 0 (R62). -/
theorem Standing.Suits.reprogrammed {s : State} {i : Nat} {was : Bool} {r : Station}
    (h : (s.sched.standing i).Suits i was r)
    (active : r.admin = .active) (classes : s.ClassTablesInRange) (p : ProgramEntry) :
    (s.sched.standing i).Suits i was (s.reprogrammed r p) := by
  have live : r.admin ≠ .free := by rw [active]; nofun
  obtain ⟨floor, most⟩ := h.deficit live
  have quantum : 100 ≤ (Table.get ClassEntry.default s.sched.liveClass p.cls.val).quantum :=
    (ClassEntry.bounds (classes p.cls.val).1).1
  refine h.revise live h.dozing ?_ (fun listed => ?_) (le_refl _) live
  · show _ ≤ (s.reprogrammed r p).deficit
      ∧ (s.reprogrammed r p).deficit ≤ (Table.get ClassEntry.default s.sched.liveClass p.cls.val).quantum
    unfold State.reprogrammed
    simp only
    split
    case isTrue => omega
    case isFalse same =>
      rw [not_not.1 same]
      exact ⟨floor, most⟩
  · have credit := h.credit listed
    unfold State.reprogrammed
    simp only
    split <;> omega

namespace State.Lawful
variable {s : State}

theorem programEntry (h : s.Lawful) (body : List Byte) (k : Nat) : ∀ u, s.programEntry body k = .ok u → u.Lawful := by
  intro u effect
  cases entry : programEntryOf body k with
  | none =>
    rw [State.programEntry_of_none entry] at effect
    cases effect
  | some p =>
    obtain ⟨⟨known, _⟩, index, _⟩ := programEntryOf_eq_some entry
    cases admin : (s.station p.index).admin with
    | purging =>
      rw [State.programEntry_purging entry admin] at effect
      cases effect
    | faulted =>
      rw [State.programEntry_faulted entry admin] at effect
      cases effect
    | free =>
      rw [State.programEntry_free entry admin] at effect
      cases effect
      exact h.setStation ((h.suits _).programmed admin (index ▸ known) p)
    | active =>
      rw [State.programEntry_active entry admin] at effect
      split at effect <;> cases effect
      exact h.setStation ((h.suits _).reprogrammed admin h.ruled.classes p)

theorem removeEntry (h : s.Lawful) (i : Nat) : ∀ u, s.removeEntry i = .ok u → u.Lawful := by
  have removed (known : i < 512) (live : (s.station i).admin = .active ∨ (s.station i).admin = .faulted) :
      ∀ u, s.removeEntry i = .ok u → u.Lawful := by
    have busy : (s.station i).admin ≠ .free := by rcases live with is | is <;> rw [is] <;> nofun
    intro u effect
    rw [State.removeEntry_live known live, Except.ok.injEq] at effect
    subst effect
    exact (h.retire (a := .purging) busy nofun nofun).listForPurge known .remove
  rcases s.admin_cases i with unknown | ⟨known, purging⟩ | ⟨known, faulted⟩ | ⟨known, active⟩
  · intro u effect
    rw [State.removeEntry_unknown unknown] at effect
    cases effect
  · intro u effect
    rw [State.removeEntry_purging known purging] at effect
    cases effect
    exact h
  · exact removed known (.inr faulted)
  · exact removed known (.inl active)

/-- A FAULTED record is in no list and has no poll pending when it is made ACTIVE. -/
theorem clearFault (h : s.Lawful) {i : Nat} (faulted : (s.station i).admin = .faulted) :
    (s.change i false fun r => { r with admin := .active, faultFlag := false, deficit := 0 }).Lawful := by
  have suits := h.suits i
  have live : (s.station i).admin ≠ .free := by rw [faulted]; nofun
  refine h.change false (suits.revise live (fun pending => ?_)
    ⟨show (-1048575 : Int) ≤ 0 by decide, Int.natCast_nonneg _⟩ (fun listed => ?_) (le_refl _))
  · rw [(suits.dozing pending).1] at faulted
    cases faulted
  · have eligible := (suits.listed.1 (by rw [listed]; nofun)).1
    rw [Station.eligible_of_idle (by rw [faulted]; nofun)] at eligible
    cases eligible

theorem clearEntry (h : s.Lawful) (i : Nat) : ∀ u, s.clearEntry i = .ok u → u.Lawful := by
  intro u effect
  rcases s.admin_cases i with unknown | ⟨known, purging⟩ | ⟨known, faulted⟩ | ⟨known, active⟩
  · rw [State.clearEntry_unknown unknown] at effect
    cases effect
  · rw [State.clearEntry_purging known purging] at effect
    cases effect
  · rw [State.clearEntry_faulted known faulted] at effect
    split at effect <;> cases effect
    exact h.clearFault faulted
  · rw [State.clearEntry_active known active] at effect
    split at effect <;> cases effect
    exact h.setStation ((h.suits i).same (by rw [active]; nofun))

theorem positionClaim (h : s.Lawful) (e : Execution) (hold : Bool) : (s.positionClaim e hold).Lawful := by
  have held : (s.holdPosition e.done (mapBit e.request.body e.done) hold).Lawful := by
    unfold State.holdPosition
    split
    case isTrue set => exact h.change false ((h.suits _).same set.2)
    case isFalse => exact h
  exact .ite _ (held.finish _ none) (held.progress e [])

theorem clearCounters (h : s.Lawful) (i : Nat) : (s.clearCounters i).Lawful := by
  unfold State.clearCounters
  split
  case isTrue => exact h
  case isFalse live => exact h.setStation ((h.suits i).same live)

theorem readClaim (h : s.Lawful) (e : Execution) : (s.readClaim e).Lawful := by
  have cleared (c : Prop) [Decidable c] (i : Nat) : State.Lawful (if c then s.clearCounters i else s) :=
    .ite c (h.clearCounters i) h
  exact .ite _ ((cleared _ _).finish _ _) ((cleared _ _).progress e _)

theorem counterClaim (h : s.Lawful) (e : Execution) : (s.counterClaim e).Lawful := by
  have cleared (c : Prop) [Decidable c] := ite c (h.of_same (t := { s with ctr := s.ctr.clear e.done })) h
  exact .ite _ ((cleared _).finish _ none) ((cleared _).progress e _)

end State.Lawful

/-! #### Requests to the scheduler (R138 to R144, R181) -/

theorem optionsOf_inRange {body : List Byte} {o : Options} (h : optionsOf body = some o) : o.inRange := by
  unfold optionsOf at h
  simp only at h
  split at h
  case isTrue range =>
    cases h
    obtain ⟨_, _, slots, slots', timeout, timeout', sweep, sweep', limit, limit'⟩ := range
    exact ⟨⟨slots, slots'⟩, ⟨timeout, timeout'⟩, ⟨sweep, sweep'⟩, limit, limit'⟩
  case isFalse => cases h

/-- With no slot open, every usable slot is FREE. -/
theorem State.slot_of_openSlots {s : State} (closed : s.openSlots = 0) {k : Nat} (below : k < 4) :
    (s.slot k).isSome = false := by
  have none_ := List.countP_eq_zero.1 closed k (List.mem_range.2 below)
  simpa using none_

namespace State.Lawful
variable {s : State}

/-- The usable slots change with no slot open alone (R181). -/
theorem writeOptions (h : s.Lawful) {o : Options} (range : o.inRange)
    (closed : o.slots ≠ s.rp.options.slots → s.sched.state = .off) : (s.writeOptions o).Lawful := by
  have written : State.Lawful { s with rp := { s.rp with options := o } } := by
    refine ⟨{ h.ruled with usable := fun k is => ?_, options := range }, h.relations.of_same⟩
    have usable := h.ruled.usable k is
    by_cases same : o.slots = s.rp.options.slots
    · exact same ▸ usable
    · obtain ⟨_, _, _, off, _⟩ := h.relations
      have slots := h.ruled.options.1.2
      have free := State.slot_of_openSlots (off (.inr (closed same))) (k := k) (by omega)
      rw [show s.slot k = State.slot { s with rp := { s.rp with options := o } } k from rfl, is] at free
      cases free
  exact .ite _ written written.checkRetired

theorem startScheduler (h : s.Lawful) (off : s.sched.state = .off) : s.startScheduler.Lawful := by
  obtain ⟨_, _, _, closed, link⟩ := h.relations
  unfold State.startScheduler
  split
  case isTrue clear => exact ⟨h.ruled.of_same, fun _ => clear, nofun, nofun, nofun, link⟩
  case isFalse present =>
    exact ⟨h.ruled.of_same, nofun, fun _ => Bool.eq_false_iff.2 present, nofun, fun _ => closed (.inr off), link⟩

/-- STOPPING stands in no relation to the causes and the slots (R143). -/
theorem setStopping (h : s.Lawful) : (s.setSched .stopping).Lawful := by
  obtain ⟨_, _, _, _, link⟩ := h.relations
  exact ⟨h.ruled.of_same, nofun, nofun, nofun, nofun, link⟩

theorem stopScheduler (h : s.Lawful) : s.stopScheduler.Lawful := by
  have asked : OnePerStation s.purgeForStop := by
    unfold State.purgeForStop
    refine List.foldlRecOn _ _ h.ruled.purge fun list law i mem => ?_
    split
    · exact law
    · exact law.askPurge (List.mem_range.1 mem) .stop
  exact (h.setPurge asked).setStopping.checkStopped

/-! #### Requests on the tables (R77 to R82) -/

end State.Lawful

theorem writeClasses_inRange (body : List Byte) (start : Nat) : ∀ (n k : Nat) {t : Table ClassEntry},
    Table.wf ClassEntry.default t = true → (∀ c, (Table.get ClassEntry.default t c).inRange = true) →
    (∀ j, k ≤ j → j < k + n → (classEntryOf body j).inRange = true) →
    ∀ c, (Table.get ClassEntry.default (writeClasses body start n k t) c).inRange = true
  | 0, _, _, _, range, _ => range
  | n + 1, k, t, wf, range, entries => by
    refine writeClasses_inRange body start n (k + 1) (Table.wf_set wf _ _) (fun c => ?_) fun j low high =>
      entries j (by omega) (by omega)
    rw [Table.get_set wf]
    split
    · exact entries k (le_refl _) (by omega)
    · exact range c

/-- A CLASS WRITE in range, into the shadow copy (R77, R78). -/
theorem State.Lawful.writeClasses {s : State} (h : s.Lawful) {body : List Byte} {n : Nat} (start : Nat)
    (entries : ((List.range n).all fun k => (classEntryOf body k).inRange) = true) :
    State.Lawful { s with
      sched := { s.sched with shadowClass := Machine.writeClasses body start n 0 s.sched.shadowClass } } := by
  have range (j : Nat) (_ : 0 ≤ j) (high : j < 0 + n) : (classEntryOf body j).inRange = true :=
    List.all_eq_true.1 entries j (List.mem_range.2 (by omega))
  exact ⟨{ h.ruled with
      shadow := wf_writeClasses body start n 0 h.ruled.shadow
      classes := fun c => ⟨(h.ruled.classes c).1,
        writeClasses_inRange body start n 0 h.ruled.shadow (fun c => (h.ruled.classes c).2) range c⟩ },
    h.relations.of_same⟩

/-- The clamp keeps the deficit within the quantum of the new table, and above 0 where it was (R82). -/
theorem Standing.Suits.clamped {x : Standing} {i : Nat} {was : Bool} {r : Station} (h : x.Suits i was r)
    {new : Table ClassEntry} (quantum : 0 < (Table.get ClassEntry.default new r.cls.val).quantum) :
    Standing.Suits { x with classes := new } i was (r.clamped x.classes new) := by
  unfold Station.clamped
  simp only
  split
  case isTrue lowered =>
    have live := lowered.1
    exact
      { h with
        free := fun none_ => none_.elim (absurd · live) fun far => absurd (h.below live) (by omega)
        credit := fun _ => Int.natCast_pos.2 quantum
        deficit := fun _ => ⟨Int.le_trans (by decide) (Int.natCast_nonneg _), le_refl _⟩ }
  case isFalse kept =>
    refine { h with deficit := fun live => ⟨(h.deficit live).1, ?_⟩ }
    have most := (h.deficit live).2
    simp only [live, ne_eq, not_false_eq_true, true_and, not_and, not_lt] at kept
    rcases Nat.lt_or_ge (Table.get ClassEntry.default new r.cls.val).quantum
      (Table.get ClassEntry.default x.classes r.cls.val).quantum with lowered | raised
    · exact kept lowered
    · exact most.trans (Int.ofNat_le.2 raised)

theorem Station.eligible_clamped (r : Station) (old new : Table ClassEntry) :
    (r.clamped old new).eligible = r.eligible := by
  unfold Station.clamped
  simp only
  split <;> rfl

theorem State.station_commitClasses (s : State) (i : Nat) :
    s.commitClasses.station i = (s.station i).clamped s.sched.liveClass s.sched.shadowClass :=
  Table.get_map Station.free (f := fun r => r.clamped s.sched.liveClass s.sched.shadowClass)
    (by simp [Station.clamped, Station.free]) s.stations i

/-- The commit clamps every deficit in its step (R81, R82). -/
theorem State.Lawful.commitClasses {s : State} (h : s.Lawful) : s.commitClasses.Lawful := by
  refine ⟨{ h.ruled with stations := ?_, records := fun j _ => ?_, classes := fun c => ?_ },
    h.relations.of_same rfl rfl rfl rfl⟩
  · exact Table.wf_map (fun _ ne => Station.clamped_ne_free ne _ _) h.ruled.stations
  · have quantum : 100 ≤ (Table.get ClassEntry.default s.sched.shadowClass (s.station j).cls.val).quantum :=
      (ClassEntry.bounds (h.ruled.classes _).2).1
    unfold State.Suits
    rw [State.station_commitClasses, Station.eligible_clamped]
    exact (h.suits j).clamped (lt_of_lt_of_le (by decide) quantum)
  · exact ⟨(h.ruled.classes c).2, (h.ruled.classes c).2⟩

theorem State.Lawful.commitRates {s : State} (h : s.Lawful) : s.commitRates.Lawful := h.of_same

/-! #### Resets (R188, R189) -/

/-- Every record FREE, every list empty and every slot FREE, with no cause but LINK while the link is DOWN. -/
theorem State.lawful_blocksReset (pending : List Instr) (lock linkUp : Bool) (mem : Memory) (ecc : Table Ecc)
    (freeCtr : Nat) : (State.blocksReset pending lock linkUp mem ecc freeCtr).Lawful := by
  refine ⟨⟨rfl, rfl, rfl, fun j _ => ?_, nofun, fun _ => ⟨?_, ?_⟩, ⟨List.nodup_nil, nofun⟩, ?_⟩, nofun, nofun, nofun,
    fun _ => rfl, rfl⟩
  · exact
      { free := fun _ => rfl
        entry := rfl
        round := rfl
        listed := ⟨fun listed => absurd rfl listed, fun now => nomatch now.1⟩
        credit := nofun
        polls := rfl
        dozing := nofun
        slot := fun k => ⟨nofun, nofun⟩
        deficit := fun live => absurd rfl live
        queue := Nat.zero_le _
        frames := nofun }
  · show ClassEntry.default.inRange = true
    decide
  · show ClassEntry.default.inRange = true
    decide
  · show Options.default.inRange
    exact ⟨by decide, by decide, by decide, by decide⟩

theorem State.Lawful.endReset {s : State} (h : s.Lawful) (power : Bool) : (s.endReset power).Lawful :=
  h.of_same ⟨⟨rfl, rfl, rfl, rfl⟩, rfl, rfl, rfl, rfl⟩ rfl rfl rfl rfl rfl

theorem execPowerOnReset_lawful (selfTest : Bool) (s : State) : s.LawfulBy (execPowerOnReset selfTest s) :=
  .next fun _ => .ite _ (State.lawful_blocksReset ..) ((State.lawful_blocksReset ..).endReset true)

theorem execSelfTest_lawful (failed : List Nat) (s : State) : s.LawfulBy (execSelfTest failed s) :=
  .next fun h => .ite _
    (State.Lawful.endReset (s := { s with bm := s.bm.tested failed s.freeCtr, freeCtr := s.freeCtr + 1 }) h.of_same
      true) h

theorem execSoftReset_lawful (s : State) : s.LawfulBy (execSoftReset s) :=
  .next fun h => .ite _ ((State.lawful_blocksReset ..).endReset false) h

/-! #### The System Link -/

namespace State.Lawful
variable {s : State}

theorem startFrame (h : s.Lawful) (body : OutBody) : (s.startFrame body).Lawful :=
  h.of_same ⟨⟨rfl, rfl, rfl, rfl⟩, rfl, rfl, rfl, rfl⟩ rfl rfl rfl rfl rfl

theorem startEvent (h : s.Lawful) : s.startEvent.Lawful := by
  unfold State.startEvent
  split
  · exact h
  · exact startFrame h.of_same _

theorem startTraffic (h : s.Lawful) : s.startTraffic.Lawful := by
  have up : s.startUp.Lawful := by
    unfold State.startUp
    split
    · exact h
    · exact startFrame h.of_same _
  have disposal : s.startDisposal.Lawful :=
    startFrame (s := { s with tx := { s.tx with mark := .disposal } }) h.of_same _
  exact .ite _ up (.ite _ disposal (.ite _ disposal up))

theorem chooseFrame (h : s.Lawful) : s.chooseFrame.Lawful := by
  unfold State.chooseFrame
  split
  · exact h.startEvent
  · split
    · exact startFrame (s := { s with tx := { s.tx with pauseSent := s.bm.pauseWanted } }) h.of_same _
    · split
      · exact h.startFrame _
      · exact .ite _ h.startTraffic h.startEvent

theorem handOver (h : s.Lawful) : s.handOver.Lawful := by
  unfold State.handOver
  split
  · exact h.of_same
  · exact h

theorem lineEnded (h : s.Lawful) : s.lineEnded.Lawful := by
  unfold State.lineEnded
  split
  · exact h
  · split
    · exact handOver h.of_same
    · exact h.of_same

end State.Lawful

theorem execIngressSpaceClaim_lawful (header : List Byte) (s : State) : s.LawfulBy (execIngressSpaceClaim header s) :=
  .unless _ fun h => .ite _ h.of_same h

theorem execDownFrameReceived_lawful (frame : List Byte) (s : State) : s.LawfulBy (execDownFrameReceived frame s) :=
  .unless _ fun h => by
    split
    · exact h.of_same
    · exact .ite _ h.of_same h

theorem execRequestFrameReceived_lawful (frame : List Byte) (s : State) :
    s.LawfulBy (execRequestFrameReceived frame s) :=
  .unless _ fun h => .ite _ h.of_same h.of_same

theorem execSystemLinkBadFrame_lawful (frame : List Byte) (s : State) : s.LawfulBy (execSystemLinkBadFrame frame s) :=
  .unless _ fun h => h.of_same

theorem execTransmitterChoice_lawful (s : State) : s.LawfulBy (execTransmitterChoice s) :=
  .next fun h => by
    split
    · exact h.chooseFrame
    · exact .ite _ h h.lineEnded.chooseFrame

theorem execDisposalMessageSent_lawful (s : State) : s.LawfulBy (execDisposalMessageSent s) :=
  .next fun h => by
    split
    · exact State.Lawful.withPools h.of_same _
    · exact h

theorem execUpFrameSent_lawful (s : State) : s.LawfulBy (execUpFrameSent s) :=
  .next fun h => by
    split
    · exact h.of_same
    · exact h

theorem execStartEventSent_lawful (s : State) : s.LawfulBy (execStartEventSent s) :=
  .next fun h => by
    split
    · exact h.of_same
    · exact h

/-! #### Downlink admission -/

theorem execAdmissionDecision_lawful (s : State) : s.LawfulBy (execAdmissionDecision s) :=
  .next fun h => by
    split
    · exact h.decideAdmission _
    · exact h

theorem execAdmissionRetry_lawful (s : State) : s.LawfulBy (execAdmissionRetry s) :=
  .next fun h => by
    split
    · exact .ite _ h (h.decideAdmission _)
    · exact h

theorem execAppend_lawful (s : State) : s.LawfulBy (execAppend s) :=
  .next fun h => by
    split
    case h_1 d e _ _ _ =>
      have stored : State.Lawful { s with bm := s.bm.store (s.desc d).segs e.bytes } := h.of_same
      simp only
      split
      case h_1 fits => exact stored.enqueue fits d
      case h_2 => exact stored.refuseLate e d _
    case h_2 => exact h

/-! #### The Radio Link -/

theorem execReceiveLockChange_lawful (lock : Bool) (s : State) : s.LawfulBy (execReceiveLockChange lock s) :=
  .unless _ fun h => h.of_same

theorem execLinkUp_lawful (s : State) : s.LawfulBy (execLinkUp s) := .next fun h => .ite _ h.linkUp h

theorem execLinkDown_lawful (s : State) : s.LawfulBy (execLinkDown s) := .next fun h => .ite _ h.linkDown h

theorem execRadioLinkBadFrame_lawful (frame : List Byte) (s : State) : s.LawfulBy (execRadioLinkBadFrame frame s) :=
  .unless _ fun h => by
    split
    · exact h
    · exact h.of_same

theorem execUplinkSpaceClaim_lawful (header : List Byte) (s : State) : s.LawfulBy (execUplinkSpaceClaim header s) :=
  .unless _ fun h => .ite _ h.of_same h

theorem execUpMessage_lawful (frame : List Byte) (s : State) : s.LawfulBy (execUpMessage frame s) :=
  .unless _ fun h => h.takeUp _

theorem execDoze_lawful (frame : List Byte) (s : State) : s.LawfulBy (execDoze frame s) := .unless _ fun h => h.doze _

theorem execWake_lawful (frame : List Byte) (s : State) : s.LawfulBy (execWake frame s) := .unless _ fun h => h.wake _

theorem execPoll_lawful (frame : List Byte) (s : State) : s.LawfulBy (execPoll frame s) :=
  .unless _ fun h => h.takePoll _

theorem execMediumHold_lawful (frame : List Byte) (s : State) : s.LawfulBy (execMediumHold frame s) :=
  .unless _ fun h => h.addCause (c := .radio) nofun

theorem execMediumRelease_lawful (frame : List Byte) (s : State) : s.LawfulBy (execMediumRelease frame s) :=
  .unless _ fun h => h.removeCause (c := .radio) nofun

/-! #### The grant mechanism -/

theorem execDone_lawful (frame : List Byte) (s : State) : s.LawfulBy (execDone frame s) :=
  .unless _ fun h => h.takeDone _

theorem execGrantTimeout_lawful (k : Nat) (s : State) : s.LawfulBy (execGrantTimeout k s) :=
  .next fun h => by
    split
    · exact h
    case h_2 g open_ =>
      split
      · exact h
      · exact .ite _ (h.timeout open_) h

/-- A poll chosen is no ROUND candidate. -/
theorem State.Lawful.choosePoll {s : State} (h : s.Lawful) (free : s.sched.candidate = none) (i : Nat) :
    (s.setCandidate (some { station := i, kind := .poll })).Lawful :=
  ⟨h.ruled.setCandidate fun j => by simp [free], h.relations.of_same rfl rfl rfl rfl⟩

theorem execArbiterChoice_lawful (s : State) : s.LawfulBy (execArbiterChoice s) :=
  .next fun h => by
    split
    case isTrue ready =>
      have free : s.sched.candidate = none := by
        simp only [State.arbiterReady, Bool.and_eq_true, Option.isNone_iff_eq_none] at ready
        exact ready.2
      split
      case h_1 i _ => exact h.choosePoll free i
      case h_2 =>
        split
        case h_1 i rest head =>
          obtain ⟨_, entry⟩ := nodup_and_mem_iff_count.2 fun j => (h.suits j).entry
          have listed : (s.station i).list = .entry := (entry i).1 (by rw [head]; exact List.mem_cons_self)
          exact h.takeRound (by rw [listed]; nofun) free
        case h_2 =>
          obtain ⟨topped, free', heads⟩ := State.Lawful.topUp s.topUpBound h free
          split
          case h_1 i u e =>
            rw [e] at topped free' heads
            obtain ⟨_, round⟩ := nodup_and_mem_iff_count.2 fun j => (topped.suits j).round
            have listed : (u.station i).list = .round := (round i).1 (heads i rfl)
            exact topped.takeRound (by rw [listed]; nofun) free'
          case h_2 u e =>
            rw [e] at topped
            exact topped
    case isFalse => exact h

/-- The recheck of a candidate that passes: the scheduler runs, a slot is free, and the station is ACTIVE, in no slot
and chosen by its eligibility or by its poll (R103). -/
theorem State.grantable_iff {s : State} {c : Candidate} (h : s.grantable c = true) :
    s.sched.state = .running ∧ s.freeSlot.isSome = true ∧ (s.station c.station).admin = .active
      ∧ (s.station c.station).slot = none ∧ (c.kind = .poll → (s.station c.station).power = .dozing) := by
  simp only [State.grantable, Bool.and_eq_true, beq_iff_eq] at h
  obtain ⟨⟨⟨running, free⟩, _⟩, chosen⟩ := h
  cases kind : c.kind with
  | round =>
    simp only [kind, Station.eligible, Bool.and_eq_true, beq_iff_eq, Option.isNone_iff_eq_none] at chosen
    exact ⟨running, free, chosen.1.1.1.1, chosen.2, nofun⟩
  | poll =>
    simp only [kind, Bool.and_eq_true, beq_iff_eq, Option.isNone_iff_eq_none] at chosen
    exact ⟨running, free, chosen.1.1.1.1, chosen.2, fun _ => chosen.1.1.1.2⟩

/-- A candidate that passes its recheck is granted. -/
theorem State.Lags.grant {s : State} {c : Candidate} (h : s.Lags c.station false) (relations : s.SchedulerRelations)
    (may : s.grantable c = true) : (s.form c).Lawful := by
  obtain ⟨running, free, active, idle, _⟩ := State.grantable_iff may
  have fits : (s.liveClass (s.station c.station)).maxFrames ≤ 64 :=
    (ClassEntry.bounds (h.out.classes _).1).2.1
  exact (h.forming relations running free (by rw [active]; nofun) idle).form fits

/-- The end of a candidacy: a grant, or the list the station's eligibility calls for (R103). -/
theorem State.Lawful.formGrant {s : State} (h : s.Lawful) {c : Candidate} (chosen : s.sched.candidate = some c) :
    State.Lawful (if (s.setCandidate none).grantable c then (s.setCandidate none).form c
      else if c.kind = .round ∧ ((s.setCandidate none).station c.station).eligible then
        (s.setCandidate none).joinList c.station false
      else s.setCandidate none) := by
  have relations : (s.setCandidate none).SchedulerRelations := h.relations.of_same rfl rfl rfl rfl
  cases kind : c.kind with
  | round =>
    have lags := h.dropCandidate chosen kind
    split
    case isTrue may => exact lags.grant relations may
    case isFalse =>
      split
      case isTrue joins => exact ⟨lags.joinList joins.2 nofun false, relations.of_same⟩
      case isFalse stays =>
        have ineligible : ((s.setCandidate none).station c.station).eligible = false := by simpa using stays
        exact ⟨State.Lags.ruled (i := c.station) (ineligible ▸ lags), relations⟩
  | poll =>
    have dropped : (s.setCandidate none).Lawful :=
      ⟨h.ruled.setCandidate fun i => ⟨nofun, fun is => by
        rw [chosen] at is
        cases is
        cases kind⟩, relations⟩
    split
    case isTrue may =>
      obtain ⟨_, _, _, _, dozing⟩ := State.grantable_iff may
      have ineligible : ((s.setCandidate none).station c.station).eligible = false := by
        simp [Station.eligible, dozing kind]
      exact State.Lags.grant (ineligible ▸ dropped.ruled.lags c.station) relations may
    case isFalse =>
      rw [if_neg fun joins => nomatch joins.1]
      exact dropped

theorem execGrantFormation_lawful (s : State) : s.LawfulBy (execGrantFormation s) :=
  .next fun h => by
    split
    · exact h
    case h_2 c chosen => exact h.formGrant chosen

theorem execFeedFault_lawful (frame : Nat) (cell : Option Nat) (s : State) : s.LawfulBy (execFeedFault frame cell s) :=
  .next fun h => by
    split
    · exact h
    · split
      · refine .ite _ ?_ h
        unfold State.markFault
        simp only
        split <;> exact h.of_same
      · exact h

theorem execStreamEnd_lawful (s : State) : s.LawfulBy (execStreamEnd s) :=
  .next fun h => by
    split
    · exact h
    · refine .ite _ ?_ h
      split
      · exact State.Lawful.endStream h.of_same .whole
      · exact h

theorem execCorrectedEccError_lawful (word : Nat) (s : State) : s.LawfulBy (execCorrectedEccError word s) :=
  .next fun h => by
    split
    · exact h
    · split
      · exact .ite _ h.of_same h
      · exact h

/-! #### Faults, reclaim, ageing and purge -/

theorem execFaultClaim_lawful (n : Nat) (s : State) : s.LawfulBy (execFaultClaim n s) :=
  .next fun h => by
    split
    · exact h
    · exact State.Lawful.takeClaim h.of_same _

theorem execReclaimScanStart_lawful (s : State) : s.LawfulBy (execReclaimScanStart s) :=
  .next fun h => by
    split
    · exact .ite _ h.of_same h.of_same
    · exact h

theorem execReclaimScanVisit_lawful (s : State) : s.LawfulBy (execReclaimScanVisit s) :=
  .next fun h => by
    split
    · exact h
    · exact .ite _ (h.withPools _) h

theorem execReclaimScanEnd_lawful (s : State) : s.LawfulBy (execReclaimScanEnd s) :=
  .next fun h => by
    split
    · exact h
    · exact .ite _ h.of_same h

theorem execSweepTimer_lawful (s : State) : s.LawfulBy (execSweepTimer s) :=
  .next fun h => by
    split
    · exact h
    · exact .ite _ h.of_same h

theorem execSweepVisit_lawful (s : State) : s.LawfulBy (execSweepVisit s) :=
  .next fun h => by
    split
    · exact h
    case h_2 i _ => exact (h.sweepStation i).of_same ⟨⟨rfl, rfl, rfl, rfl⟩, rfl, rfl, rfl, rfl⟩ rfl rfl rfl rfl rfl

theorem execPurgeStep_lawful (s : State) : s.LawfulBy (execPurgeStep s) :=
  .next fun h => by
    split
    · exact h
    case h_2 e _ _ =>
      have stepped := h.purgeHead e.station e.purpose.reason
      exact .ite _ (stepped.purgeEntryLeaves e.station) stepped

/-! #### Requests, as commands -/

theorem execIdentify_lawful (s : State) : s.LawfulBy (execIdentify s) := .request _ fun _ _ h _ => h.finish _ none

theorem execSetOptions_lawful (s : State) : s.LawfulBy (execSetOptions s) :=
  .request _ fun _ _ h _ => by
    split
    · exact h.finish _ none
    case h_2 o spelt =>
      split
      case isTrue => exact h.finish _ none
      case isFalse allowed =>
        have closed (other : o.slots ≠ _) := by_contra fun on => allowed ⟨other, on⟩
        exact (h.writeOptions (optionsOf_inRange spelt) closed).finish _ none

theorem execStart_lawful (s : State) : s.LawfulBy (execStart s) :=
  .request _ fun _ u h sound => by
    have off : u.sched.state = .off := by
      simp only [RequestKind.stateFault] at sound
      split at sound
      · assumption
      · cases sound
    split
    · exact h.finish _ none
    · exact .ite _ (h.finish _ none) ((h.startScheduler off).finish _ none)

theorem execStop_lawful (s : State) : s.LawfulBy (execStop s) := .request _ fun _ _ h _ => h.stopScheduler.finish _ none

theorem execFreeze_lawful (s : State) : s.LawfulBy (execFreeze s) :=
  .request _ fun _ _ h _ => (h.addCause (c := .host) nofun).finish _ none

theorem execThaw_lawful (s : State) : s.LawfulBy (execThaw s) :=
  .request _ fun _ _ h _ => (h.removeCause (c := .host) nofun).finish _ none

theorem execPartReset_lawful (s : State) : s.LawfulBy (execPartReset s) :=
  .request _ fun _ _ h _ => State.Lawful.finish h.of_same _ none

theorem execBacklogMap_lawful (s : State) : s.LawfulBy (execBacklogMap s) := .request _ fun _ _ h _ => h.finish _ none

theorem execClassWrite_lawful (s : State) : s.LawfulBy (execClassWrite s) :=
  .request _ fun q _ h _ => by
    simp only
    split
    case isTrue => exact h.finish _ none
    case isFalse sound =>
      exact (h.writeClasses _ (by_contra fun out => sound (.inr out))).finish _ none

theorem execRateWrite_lawful (s : State) : s.LawfulBy (execRateWrite s) :=
  .request _ fun _ _ h _ => .ite _ (h.finish _ none) (State.Lawful.finish h.of_same _ none)

theorem execTableCommit_lawful (s : State) : s.LawfulBy (execTableCommit s) :=
  .request _ fun _ _ h _ => by
    split
    · exact h.commitClasses.finish _ none
    · exact h.commitRates.finish _ none
    · exact h.commitClasses.commitRates.finish _ none
    · exact h.finish _ none

theorem execTableRead_lawful (s : State) : s.LawfulBy (execTableRead s) :=
  .request _ fun _ _ h _ => by
    simp only
    split <;> exact h.finish _ none

theorem execUnknownRequest_lawful (s : State) : s.LawfulBy (execUnknownRequest s) :=
  .next fun h => by
    split
    · exact h
    case h_2 taken => exact (h.takeRequest taken).finish _ none

theorem execStationProgram_lawful (n : Nat) (s : State) : s.LawfulBy (execStationProgram n s) :=
  .claimRequest _ _ (fun e _ h => h.entryClaim e _ _ (h.programEntry _ _)) n

theorem execStationRemove_lawful (n : Nat) (s : State) : s.LawfulBy (execStationRemove n s) :=
  .claimRequest _ _ (fun e _ h => h.entryClaim e _ _ (h.removeEntry _)) n

theorem execStationClearFault_lawful (n : Nat) (s : State) : s.LawfulBy (execStationClearFault n s) :=
  .claimRequest _ _ (fun e _ h => h.entryClaim e _ _ (h.clearEntry _)) n

theorem execStationHold_lawful (n : Nat) (s : State) : s.LawfulBy (execStationHold n s) :=
  .claimRequest _ _ (fun e _ h => h.positionClaim e true) n

theorem execStationRelease_lawful (n : Nat) (s : State) : s.LawfulBy (execStationRelease n s) :=
  .claimRequest _ _ (fun e _ h => h.positionClaim e false) n

theorem execStationRead_lawful (n : Nat) (s : State) : s.LawfulBy (execStationRead n s) :=
  .claimRequest _ _ (fun e _ h => h.readClaim e) n

theorem execCounterRead_lawful (n : Nat) (s : State) : s.LawfulBy (execCounterRead n s) :=
  .claimRequest _ _ (fun e _ h => h.counterClaim e) n

/-! #### Every step -/

theorem exec_lawful (c : Instr) (s : State) : s.LawfulBy (exec c s) := by
  cases c with
  | powerOnReset selfTest => exact execPowerOnReset_lawful selfTest s
  | selfTest failed => exact execSelfTest_lawful failed s
  | softReset => exact execSoftReset_lawful s
  | ingressSpaceClaim header => exact execIngressSpaceClaim_lawful header s
  | downFrameReceived frame => exact execDownFrameReceived_lawful frame s
  | requestFrameReceived frame => exact execRequestFrameReceived_lawful frame s
  | systemLinkBadFrame frame => exact execSystemLinkBadFrame_lawful frame s
  | admissionDecision => exact execAdmissionDecision_lawful s
  | admissionRetry => exact execAdmissionRetry_lawful s
  | append => exact execAppend_lawful s
  | transmitterChoice => exact execTransmitterChoice_lawful s
  | disposalMessageSent => exact execDisposalMessageSent_lawful s
  | upFrameSent => exact execUpFrameSent_lawful s
  | startEventSent => exact execStartEventSent_lawful s
  | receiveLockChange lock => exact execReceiveLockChange_lawful lock s
  | linkUp => exact execLinkUp_lawful s
  | linkDown => exact execLinkDown_lawful s
  | radioLinkBadFrame frame => exact execRadioLinkBadFrame_lawful frame s
  | uplinkSpaceClaim header => exact execUplinkSpaceClaim_lawful header s
  | upMessage frame => exact execUpMessage_lawful frame s
  | doze frame => exact execDoze_lawful frame s
  | wake frame => exact execWake_lawful frame s
  | poll frame => exact execPoll_lawful frame s
  | mediumHold frame => exact execMediumHold_lawful frame s
  | mediumRelease frame => exact execMediumRelease_lawful frame s
  | done frame => exact execDone_lawful frame s
  | grantTimeout k => exact execGrantTimeout_lawful k s
  | arbiterChoice => exact execArbiterChoice_lawful s
  | grantFormation => exact execGrantFormation_lawful s
  | feedFault frame cell => exact execFeedFault_lawful frame cell s
  | streamEnd => exact execStreamEnd_lawful s
  | faultClaim n => exact execFaultClaim_lawful n s
  | reclaimScanStart => exact execReclaimScanStart_lawful s
  | reclaimScanVisit => exact execReclaimScanVisit_lawful s
  | reclaimScanEnd => exact execReclaimScanEnd_lawful s
  | sweepTimer => exact execSweepTimer_lawful s
  | sweepVisit => exact execSweepVisit_lawful s
  | purgeStep => exact execPurgeStep_lawful s
  | identify => exact execIdentify_lawful s
  | setOptions => exact execSetOptions_lawful s
  | start => exact execStart_lawful s
  | stop => exact execStop_lawful s
  | freeze => exact execFreeze_lawful s
  | thaw => exact execThaw_lawful s
  | stationProgram n => exact execStationProgram_lawful n s
  | stationRemove n => exact execStationRemove_lawful n s
  | stationHold n => exact execStationHold_lawful n s
  | stationRelease n => exact execStationRelease_lawful n s
  | stationClearFault n => exact execStationClearFault_lawful n s
  | stationRead n => exact execStationRead_lawful n s
  | backlogMap => exact execBacklogMap_lawful s
  | classWrite => exact execClassWrite_lawful s
  | rateWrite => exact execRateWrite_lawful s
  | tableCommit => exact execTableCommit_lawful s
  | tableRead => exact execTableRead_lawful s
  | counterRead n => exact execCounterRead_lawful n s
  | partReset => exact execPartReset_lawful s
  | unknownRequest => exact execUnknownRequest_lawful s
  | correctedEccError word => exact execCorrectedEccError_lawful word s

/-- A step is a microsecond or the command at the front of the queue. -/
theorem step_lawful {s t : State} (h : s.Lawful) (stepped : step s = .next t) : t.Lawful := by
  unfold step at stepped
  split at stepped
  · cases stepped
    exact h.tick
  case h_2 c rest _ => exact exec_lawful c _ h.of_same t stepped

/-- Settles O59: every command keeps the laws grouped by station, and the lists of stations fit by them. -/
theorem stepKeepsStationLaws : Obligations.StepKeepsStationLaws := by
  rintro s t ⟨_, _, _, _, stations, _, shadow, _, _, slots⟩ laws stepped
  have kept := (step_lawful (laws.lawful stations slots shadow) stepped).stationLaws
  exact ⟨kept, kept.listsFit⟩

end Sys2Proof.Machine
end

section
/-! PROOFS. Airtime accounting: the estimate of a frame, the writes into the shadow tables and their commit (05 §5.2 to
5.4, O27, O47, O48). -/
set_option Elab.async false

namespace Sys2Proof.Machine

/-! ### The estimate of a frame (R84) -/

/-- A quotient rounded up is the least multiple that reaches the number. -/
theorem ceilDiv_bounds (a : Nat) {b : Nat} (pos : 0 < b) : a ≤ b * ceilDiv a b ∧ b * ceilDiv a b < a + b := by
  have split := Nat.div_add_mod (a + b - 1) b
  have rest := Nat.mod_lt (a + b - 1) pos
  unfold ceilDiv
  omega

/-- The started 64-byte blocks of a frame. -/
theorem ceilDiv_blocks (length : Nat) : ceilDiv length 64 = (length + 63) / 64 := rfl

theorem frameEstimate_eq (overhead cost length : Nat) :
    frameEstimate { overhead := overhead, cost := cost } length
      = overhead + ceilDiv (ceilDiv length 64 * cost) 16 := rfl

/-- The largest estimate: 64 blocks at the largest cost, and the largest overhead (R76, R84). -/
theorem frameEstimate_le {overhead cost length : Nat} (low : overhead ≤ 1023) (cheap : cost ≤ 65535)
    (short : length ≤ 4096) : frameEstimate { overhead := overhead, cost := cost } length ≤ 263163 := by
  have blocks : ceilDiv length 64 ≤ 64 := by
    have := (ceilDiv_bounds length (b := 64) (by decide)).2
    omega
  have sixteenths : ceilDiv length 64 * cost ≤ 64 * 65535 := Nat.mul_le_mul blocks cheap
  have rounded := (ceilDiv_bounds (ceilDiv length 64 * cost) (b := 16) (by decide)).2
  rw [frameEstimate_eq]
  omega

/-- Settles O27: the estimate lies within the sixteenth that the rounding up adds. -/
theorem frameEstimate_roundsUp : Obligations.FrameEstimate := by
  intro overhead cost length
  obtain ⟨reaches, least⟩ := ceilDiv_bounds (ceilDiv length 64 * cost) (b := 16) (by decide)
  have unset : frameEstimate { overhead := overhead, cost := 0 } length = overhead := by
    simp [frameEstimate_eq, ceilDiv]
  refine ⟨?_, ?_, unset, frameEstimate_le⟩ <;> rw [← ceilDiv_blocks, frameEstimate_eq] <;> omega

/-! ### A run of entries written into a table (R78, R80) -/

/-- The entries `k`, `k` + 1, … of a run, `n` of them, written one after another, each at its place. -/
def Table.setRun {α : Type} [DecidableEq α] (d : α) (place : Nat → Nat) (entry : Nat → α) : Nat → Nat → Table α → Table α
  | 0, _, t => t
  | n + 1, k, t => Table.setRun d place entry n (k + 1) (Table.set d t (place k) (entry k))

theorem writeClasses_eq_setRun (body : List Byte) (start : Nat) : ∀ (n k : Nat) (t : Table ClassEntry),
    writeClasses body start n k t
      = Table.setRun ClassEntry.default (classIndex start) (classEntryOf body) n k t
  | 0, _, _ => rfl
  | n + 1, k, _ => writeClasses_eq_setRun body start n (k + 1) _

theorem writeRates_eq_setRun (body : List Byte) (start : Nat) : ∀ (n k : Nat) (t : Table RateEntry),
    writeRates body start n k t = Table.setRun RateEntry.unset (rateIndex start) (rateEntryOf body) n k t
  | 0, _, _ => rfl
  | n + 1, k, _ => writeRates_eq_setRun body start n (k + 1) _

section
variable {α : Type} [DecidableEq α] {d : α} {place : Nat → Nat} {entry : Nat → α}

/-- A place that no entry of the run reaches reads as before. -/
theorem Table.get_setRun_of_ne {c : Nat} : ∀ (n k : Nat) (t : Table α), (∀ j, k ≤ j → j < k + n → place j ≠ c) →
    Table.get d (Table.setRun d place entry n k t) c = Table.get d t c
  | 0, _, _, _ => rfl
  | n + 1, k, t, apart => by
    have here : c ≠ place k := (apart k (le_refl k) (by omega)).symm
    rw [Table.setRun, Table.get_setRun_of_ne n (k + 1) _ fun j low high => apart j (by omega) (by omega),
      Table.get_set_ne _ _ _ _ _ here]

/-- An entry whose place no later entry of the run reaches is read back. -/
theorem Table.get_setRun_last {i : Nat} : ∀ (n k : Nat) {t : Table α}, Table.wf d t = true → k ≤ i → i < k + n →
    (∀ j, i < j → j < k + n → place j ≠ place i) →
    Table.get d (Table.setRun d place entry n k t) (place i) = entry i
  | 0, _, _, _, low, high, _ => absurd high (by omega)
  | n + 1, k, t, wf, low, high, last => by
    rw [Table.setRun]
    rcases Nat.eq_or_lt_of_le low with first | later
    · subst first
      rw [Table.get_setRun_of_ne n (k + 1) _ fun j above below => last j above (by omega), Table.get_set_same wf]
    · exact Table.get_setRun_last n (k + 1) (Table.wf_set wf _ _) later (by omega)
        fun j above below => last j above (by omega)

end

/-! ### CLASS WRITE (R75, R77, R78) -/

/-- The fields of class entry `k` at their offsets in the body (12.4). -/
theorem classEntryOf_eq (body : List Byte) (k : Nat) :
    classEntryOf body k =
      { quantum := fieldAt body (4 + 10 * k) 2, maxAirtime := fieldAt body (6 + 10 * k) 2
        maxFrames := fieldAt body (8 + 10 * k) 1, queueLimit := fieldAt body (10 + 10 * k) 2
        maxAge := fieldAt body (12 + 10 * k) 2 } := by
  have at_ (m : Nat) : 4 + 10 * k + m = 4 + m + 10 * k := by omega
  simp only [classEntryOf, at_, fieldAt_one]

/-- The ranges of R75 on class entry `k`, field by field. -/
theorem classEntryOf_inRange_iff (body : List Byte) (k : Nat) :
    (classEntryOf body k).inRange = true ↔
      (100 ≤ fieldAt body (4 + 10 * k) 2 ∧ fieldAt body (4 + 10 * k) 2 ≤ 20000)
        ∧ (200 ≤ fieldAt body (6 + 10 * k) 2 ∧ fieldAt body (6 + 10 * k) 2 ≤ 10000)
        ∧ (1 ≤ fieldAt body (8 + 10 * k) 1 ∧ fieldAt body (8 + 10 * k) 1 ≤ 64)
        ∧ (1 ≤ fieldAt body (10 + 10 * k) 2 ∧ fieldAt body (10 + 10 * k) 2 ≤ 1024)
        ∧ (10 ≤ fieldAt body (12 + 10 * k) 2 ∧ fieldAt body (12 + 10 * k) 2 ≤ 5000) := by
  simp only [ClassEntry.inRange, classEntryOf_eq, decide_eq_true_eq, and_assoc]

/-- The shadow Class Table after the entries of `q` have been written. -/
def State.classesWritten (s : State) (q : Request) : State :=
  { s with
    sched := { s.sched with
      shadowClass :=
        writeClasses q.body (byteAt q.body 0).toNat (byteAt q.body 1).toNat 0 s.sched.shadowClass } }

theorem exec_classWrite_refused {s : State} {q : Request} {rest : List Request} (serves : s.Serves .classWrite q rest)
    (bad : 8 ≤ (byteAt q.body 0).toNat
      ∨ ∃ k, k < (byteAt q.body 1).toNat ∧ ¬ (classEntryOf q.body k).inRange = true) :
    exec .classWrite s = .next (s.answered rest (refusedResponse q .badField) none) := by
  show execClassWrite s = _
  rw [execClassWrite, State.request_run serves]
  simp only
  rw [if_pos (by simpa using bad), State.finish_eq]
  rfl

theorem exec_classWrite_accepted {s : State} {q : Request} {rest : List Request} (serves : s.Serves .classWrite q rest)
    (start : (byteAt q.body 0).toNat < 8)
    (good : ∀ k, k < (byteAt q.body 1).toNat → (classEntryOf q.body k).inRange = true) :
    exec .classWrite s = .next ((s.classesWritten q).answered rest (acceptedResponse q []) none) := by
  show execClassWrite s = _
  rw [execClassWrite, State.request_run serves]
  simp only
  rw [if_neg (by simpa using ⟨start, good⟩), State.finish_eq]
  rfl

/-! ### RATE WRITE (R76, R79, R80) -/

theorem rateIndex_eq (start k : Nat) : rateIndex start k = start / 16 * 16 + (start % 16 + k) % 16 := by
  unfold rateIndex
  omega

/-- The shadow Rate Table after the entries of `q` have been written. -/
def State.ratesWritten (s : State) (q : Request) : State :=
  { s with
    sched := { s.sched with
      shadowRate := writeRates q.body (byteAt q.body 0).toNat (byteAt q.body 1).toNat 0 s.sched.shadowRate } }

theorem exec_rateWrite_refused {s : State} {q : Request} {rest : List Request} (serves : s.Serves .rateWrite q rest)
    (bad : 64 ≤ (byteAt q.body 0).toNat
      ∨ ∃ k, k < (byteAt q.body 1).toNat ∧ 1023 < (rateEntryOf q.body k).overhead) :
    exec .rateWrite s = .next (s.answered rest (refusedResponse q .badField) none) := by
  show execRateWrite s = _
  rw [execRateWrite, State.request_run serves]
  simp only
  rw [if_pos (by simpa using bad), State.finish_eq]
  rfl

theorem exec_rateWrite_accepted {s : State} {q : Request} {rest : List Request} (serves : s.Serves .rateWrite q rest)
    (start : (byteAt q.body 0).toNat < 64)
    (good : ∀ k, k < (byteAt q.body 1).toNat → (rateEntryOf q.body k).overhead ≤ 1023) :
    exec .rateWrite s = .next ((s.ratesWritten q).answered rest (acceptedResponse q []) none) := by
  show execRateWrite s = _
  rw [execRateWrite, State.request_run serves]
  simp only
  rw [if_neg (by simpa using ⟨start, good⟩), State.finish_eq]
  rfl

/-- Settles O47: both writes are a run of entries, each at its place. -/
theorem tableWritesFillShadow : Obligations.TableWritesFillShadow := by
  intro s q rest
  refine ⟨fun serves wf => ?_, fun serves wf => ?_⟩
  · simp only [← classEntryOf_eq, ← classEntryOf_inRange_iff]
    refine ⟨exec_classWrite_refused serves, fun start good =>
      ⟨_, exec_classWrite_accepted serves start good, rfl, fun k below last => ?_, fun c apart => ?_⟩⟩
    · rw [State.classesWritten, writeClasses_eq_setRun]
      exact Table.get_setRun_last _ 0 wf (Nat.zero_le k) (by omega) fun j above high => last j above (by omega)
    · rw [State.classesWritten, writeClasses_eq_setRun]
      exact Table.get_setRun_of_ne _ 0 _ fun j _ high => apart j (by omega)
  · simp only [← rateIndex_eq]
    refine ⟨exec_rateWrite_refused serves, fun start good =>
      ⟨_, exec_rateWrite_accepted serves start good, rfl, fun k below last => ?_, fun c apart => ?_⟩⟩
    · rw [State.ratesWritten, writeRates_eq_setRun]
      exact Table.get_setRun_last _ 0 wf (Nat.zero_le k) (by omega) fun j above high => last j above (by omega)
    · rw [State.ratesWritten, writeRates_eq_setRun]
      exact Table.get_setRun_of_ne _ 0 _ fun j _ high => apart j (by omega)

/-! ### TABLE COMMIT (R81, R82) -/

/-- The clamp of R82 is a write of the deficit alone. -/
theorem Station.clamped_eq (r : Station) (old new : Table ClassEntry) :
    r.clamped old new = { r with
      deficit :=
        if r.admin ≠ .free
            ∧ (Table.get ClassEntry.default new r.cls.val).quantum < (Table.get ClassEntry.default old r.cls.val).quantum
            ∧ ((Table.get ClassEntry.default new r.cls.val).quantum : Int) < r.deficit then
          ((Table.get ClassEntry.default new r.cls.val).quantum : Int)
        else r.deficit } := by
  unfold Station.clamped
  simp only
  split <;> rfl

/-- The tables committed: the class table if `classes`, the rate table if `rates` (R81). -/
def State.commitTables (s : State) (classes rates : Bool) : State :=
  let t := if classes then s.commitClasses else s
  if rates then t.commitRates else t

theorem State.commitTables_eq (s : State) (classes rates : Bool) :
    s.commitTables classes rates = { s with
      stations := (s.commitTables classes rates).stations
      sched := { s.sched with
        liveClass := if classes then s.sched.shadowClass else s.sched.liveClass
        liveRate := if rates then s.sched.shadowRate else s.sched.liveRate } } := by
  cases classes <;> cases rates <;> rfl

/-- A commit clamps every record in its step if the class table is committed, and changes none otherwise (R82). -/
theorem State.station_commitTables (s : State) (classes rates : Bool) (i : Nat) :
    (s.commitTables classes rates).station i
      = if classes then (s.station i).clamped s.sched.liveClass s.sched.shadowClass else s.station i := by
  have records : (s.commitTables classes rates).station i = (if classes then s.commitClasses else s).station i := by
    cases rates <;> rfl
  rw [records]
  cases classes
  · rfl
  · exact s.station_commitClasses i

theorem exec_tableCommit_refused {s : State} {q : Request} {rest : List Request} (serves : s.Serves .tableCommit q rest)
    (out : ¬ (1 ≤ (byteAt q.body 0).toNat ∧ (byteAt q.body 0).toNat ≤ 3)) :
    exec .tableCommit s = .next (s.answered rest (refusedResponse q .badField) none) := by
  show execTableCommit s = _
  rw [execTableCommit, State.request_run serves]
  split
  case h_4 => rw [State.finish_eq]; rfl
  all_goals omega

theorem exec_tableCommit_accepted {s : State} {q : Request} {rest : List Request} (serves : s.Serves .tableCommit q rest)
    {sel : Nat} (is : (byteAt q.body 0).toNat = sel) (low : 1 ≤ sel) (high : sel ≤ 3) :
    exec .tableCommit s = .next
      ((s.commitTables (decide (sel = 1 ∨ sel = 3)) (decide (sel = 2 ∨ sel = 3))).answered rest
        (acceptedResponse q [BitVec.ofNat 8 sel]) none) := by
  show execTableCommit s = _
  rw [execTableCommit, State.request_run serves, is]
  obtain rfl | rfl | rfl : sel = 1 ∨ sel = 2 ∨ sel = 3 := by omega
  all_goals
    simp only [State.finish_eq, beBytes_one]
    rfl

/-- Settles O48: the commit writes the live tables, and the clamp the deficits alone. -/
theorem tableCommitClampsDeficits : Obligations.TableCommitClampsDeficits := by
  intro s q rest serves
  refine ⟨exec_tableCommit_refused serves, fun low high =>
    ⟨_, exec_tableCommit_accepted serves rfl low high, ?_, fun i => ?_⟩⟩
  · refine (s.commitTables_eq _ _).trans ?_
    simp only [decide_eq_true_eq]
  · rw [State.station_commitTables, Station.clamped_eq]
    by_cases classes : (byteAt q.body 0).toNat = 1 ∨ (byteAt q.body 0).toNat = 3
    · simp only [classes, decide_true, if_true, true_and]
    · simp only [classes, decide_false, Bool.false_eq_true, if_false, false_and]

end Sys2Proof.Machine
end

section
/-! PROOFS. The choice of the arbiter, and a candidate that formation drops (06 §6.2, 6.3). -/
set_option Elab.async false

namespace Sys2Proof.Machine

/-! ### The choice of the arbiter (R97, R101, R102) -/

/-- What a candidate's leaving of its list writes (R102). -/
theorem State.takeRound_eq (s : State) (i : Nat) : s.takeRound i = { s with
    stations := (s.takeRound i).stations
    sched := { s.sched with
      entryList := s.sched.entryList.filter (· ≠ i)
      roundList := s.sched.roundList.filter (· ≠ i)
      candidate := some { station := i, kind := .round } } } := rfl

theorem State.station_takeRound_ne (s : State) (i : Nat) : OtherStationsKeep s (s.takeRound i) i :=
  fun _ ne => s.station_leaveList_ne ne

theorem State.topUp_of_empty (n : Nat) {s : State} (empty : s.sched.roundList = []) : State.topUp n s = (none, s) := by
  unfold State.topUp
  rw [empty]

section
variable {s : State}

theorem State.arbiterReady_of (running : s.sched.state = .running) (free : s.freeSlot ≠ none) (idle : s.feeder = none)
    (none_ : s.sched.candidate = none) : s.arbiterReady = true := by
  simp [State.arbiterReady, running, idle, none_, Option.isSome_iff_ne_none, free]

theorem exec_arbiterChoice_poll (ready : s.arbiterReady = true) {i : Nat} (poll : s.pollCandidate = some i) :
    exec .arbiterChoice s = .next (s.setCandidate (some { station := i, kind := .poll })) := by
  show execArbiterChoice s = _
  rw [execArbiterChoice, if_pos ready, poll]

theorem exec_arbiterChoice_entry (ready : s.arbiterReady = true) (poll : s.pollCandidate = none) {i : Nat}
    {rest : List Nat} (head : s.sched.entryList = i :: rest) : exec .arbiterChoice s = .next (s.takeRound i) := by
  show execArbiterChoice s = _
  rw [execArbiterChoice, if_pos ready, poll, head]

theorem exec_arbiterChoice_round (ready : s.arbiterReady = true) (poll : s.pollCandidate = none)
    (empty : s.sched.entryList = []) {u : State} {i : Nat} (found : State.topUp s.topUpBound s = (some i, u)) :
    exec .arbiterChoice s = .next (u.takeRound i) := by
  show execArbiterChoice s = _
  simp only [execArbiterChoice, ready, if_true, poll, empty, found]

theorem exec_arbiterChoice_none (ready : s.arbiterReady = true) (poll : s.pollCandidate = none)
    (empty : s.sched.entryList = []) {u : State} (found : State.topUp s.topUpBound s = (none, u)) :
    exec .arbiterChoice s = .next u := by
  show execArbiterChoice s = _
  simp only [execArbiterChoice, ready, if_true, poll, empty, found]

end

/-- Settles O29: the sources in their order; a top-up of the Round List always ends at a head with credit. -/
theorem arbiterChoosesInOrder : Obligations.ArbiterChoosesInOrder := by
  intro s canonical running free idle none_ poll
  obtain ⟨_, _, _, _, stations, _⟩ := canonical
  have ready := State.arbiterReady_of running free idle none_
  refine ⟨fun i found => exec_arbiterChoice_poll ready found, fun i rest noPoll head => ?_,
    fun noPoll noEntry listed members => ?_, fun noPoll noEntry noRound => ?_⟩
  · exact ⟨_, exec_arbiterChoice_entry ready noPoll head, s.takeRound_eq i,
      Table.get_set_same stations i _, s.station_takeRound_ne i⟩
  · obtain ⟨i, rest, u, found, tops, head, credit, entries, live⟩ :=
      State.topUp_finds s.topUpBound s members listed le_rfl
    refine ⟨u, u.takeRound i, i, rest, tops, head, credit, ?_, ?_, State.station_leaveList live,
      u.station_takeRound_ne i⟩
    · exact exec_arbiterChoice_round ready noPoll noEntry found
    · have none_left : u.sched.entryList = u.sched.entryList.filter (· ≠ i) := by rw [entries, noEntry]; rfl
      exact (u.takeRound_eq i).trans (by rw [← none_left])
  · exact exec_arbiterChoice_none ready noPoll noEntry (State.topUp_of_empty _ noRound)

/-! ### A candidate that may no longer be granted (R103) -/

section
variable {s : State} {c : Candidate}

theorem exec_grantFormation_granted (chosen : s.sched.candidate = some c)
    (ok : (s.setCandidate none).grantable c = true) :
    exec .grantFormation s = .next ((s.setCandidate none).form c) := by
  show execGrantFormation s = _
  simp only [execGrantFormation, chosen, ok, if_true]

theorem exec_grantFormation_dropped (chosen : s.sched.candidate = some c)
    (not_ : (s.setCandidate none).grantable c = false) :
    exec .grantFormation s = .next
      (if c.kind = .round ∧ (s.station c.station).eligible = true then
        (s.setCandidate none).joinList c.station false else s.setCandidate none) := by
  show execGrantFormation s = _
  simp only [execGrantFormation, chosen, not_, Bool.false_eq_true, if_false]
  rfl

end

/-- A station that joins a list by its deficit (R93, R96). -/
theorem State.joinList_by_deficit {s : State} {i : Nat} (live : (s.station i).admin ≠ .free) :
    let t := s.joinList i false
    if 0 < (s.station i).deficit then
      t.station i = { s.station i with list := .entry }
        ∧ t.sched.entryList = s.sched.entryList ++ [i] ∧ t.sched.roundList = s.sched.roundList
    else
      t.station i = { s.station i with list := .round }
        ∧ t.sched.entryList = s.sched.entryList ∧ t.sched.roundList = s.sched.roundList ++ [i] := by
  simp only [State.station_joinList false live, State.joinList_entryList, State.joinList_roundList,
    Bool.false_eq_true, false_or]
  split
  case isTrue credit => simp [not_le.2 credit]
  case isFalse broke => simp [not_lt.1 broke]

theorem Station.live_of_eligible {r : Station} (h : r.eligible = true) : r.admin ≠ .free := by
  intro free
  simp [Station.eligible, free] at h

/-- Settles O30: by the kind of the candidate, and for a ROUND one by its eligibility. -/
theorem formationDropsUngrantable : Obligations.FormationDropsUngrantable := by
  intro s i
  constructor
  · intro chosen may
    have dropped := exec_grantFormation_dropped chosen (by
      rcases may with stopped | ineligible
      · simp [State.grantable, stopped]
      · simp [State.grantable, show (s.setCandidate none).station i = s.station i from rfl, ineligible])
    by_cases eligible : (s.station i).eligible = true
    · rw [if_pos ⟨rfl, eligible⟩] at dropped
      refine ⟨_, dropped, ?_, fun not_ => ?_, fun _ => ⟨fun j ne => ?_, ?_⟩⟩
      · apply State.ext_fields <;> simp
        apply Scheduler.ext_fields <;> simp
      · rw [eligible] at not_; cases not_
      · exact (s.setCandidate none).station_joinList_ne false ne
      · exact State.joinList_by_deficit (s := s.setCandidate none) (Station.live_of_eligible eligible)
    · rw [if_neg fun h => eligible h.2] at dropped
      exact ⟨_, dropped, rfl, fun _ => ⟨rfl, rfl, rfl⟩, fun is => absurd is eligible⟩
  · intro chosen may
    have dropped := exec_grantFormation_dropped chosen (by
      have same : (s.setCandidate none).station i = s.station i := rfl
      rcases may with h | h | h | h | h | h <;> simp [State.grantable, same, Option.isSome_iff_ne_none, h])
    rw [if_neg (by simp)] at dropped
    exact dropped

end Sys2Proof.Machine
end

section
/-! PROOFS. The formation of a grant (06 §6.3): a queue examined frame by frame comes to one removal of the frames examined
and the releases after it; issue writes the slot, the record and the GRANT. -/
set_option Elab.async false

namespace Sys2Proof.Machine

/-! ### A table written twice at one index -/

theorem Table.set_set {α : Type} [DecidableEq α] {d : α} {t : Table α} (wf : Table.wf d t = true) (i : Nat) (v w : α) :
    Table.set d (Table.set d t i v) i w = Table.set d t i w := by
  have once := Table.wf_set wf i v
  refine Table.ext_get (Table.wf_set once i w) (Table.wf_set wf i w) fun j => ?_
  rw [Table.get_set once, Table.get_set wf, Table.get_set wf]
  split <;> rfl

theorem Table.set_get {α : Type} [DecidableEq α] {d : α} {t : Table α} (wf : Table.wf d t = true) (i : Nat) :
    Table.set d t i (Table.get d t i) = t := by
  refine Table.ext_get (Table.wf_set wf i _) wf fun j => ?_
  rw [Table.get_set wf]
  split
  case isTrue same => rw [same]
  case isFalse => rfl

theorem State.setStation_setStation {s : State} (wf : Table.wf Station.free s.stations = true) (i : Nat) (r q : Station) :
    (s.setStation i r).setStation i q = s.setStation i q := by
  simp only [State.setStation, Table.set_set wf]

theorem State.setStation_station {s : State} (wf : Table.wf Station.free s.stations = true) (i : Nat) :
    s.setStation i (s.station i) = s := by
  simp only [State.setStation, State.station, Table.set_get wf]

/-! ### The places of several descriptors -/

/-- The Place fields of the descriptors listed, written one after another. -/
def State.setPlaces (s : State) (p : Place) : List Nat → State
  | [] => s
  | d :: rest => (s.setDesc d { s.desc d with place := p }).setPlaces p rest

theorem State.queueAgain_eq_setPlaces : ∀ (ds : List Nat) (s : State), s.queueAgain ds = s.setPlaces .queued ds
  | [], _ => rfl
  | d :: rest, s => queueAgain_eq_setPlaces rest (s.setDesc d { s.desc d with place := .queued })

theorem State.agreesButTables_setPlaces (p : Place) : ∀ (ds : List Nat) (s : State),
    s.AgreesButTables (s.setPlaces p ds)
  | [], _ => rfl
  | d :: rest, s =>
    have first : s.AgreesButTables (s.setDesc d { s.desc d with place := p }) := rfl
    first.trans (agreesButTables_setPlaces p rest _)

theorem State.stations_setPlaces (p : Place) : ∀ (ds : List Nat) (s : State), (s.setPlaces p ds).stations = s.stations
  | [], _ => rfl
  | d :: rest, s => stations_setPlaces p rest (s.setDesc d { s.desc d with place := p })

theorem State.Keeps.setPlaces {s : State} (p : Place) : ∀ (ds : List Nat) {t : State}, s.Keeps t →
    s.Keeps (t.setPlaces p ds)
  | [], _, h => h
  | d :: rest, _, h => setPlaces p rest (h.setDesc d _)

theorem State.station_setPlaces (s : State) (p : Place) (ds : List Nat) (j : Nat) :
    (s.setPlaces p ds).station j = s.station j :=
  State.station_congr (State.stations_setPlaces p ds s) j

theorem State.desc_setPlaces_ne (p : Place) {e : Nat} : ∀ {ds : List Nat} (s : State), e ∉ ds →
    (s.setPlaces p ds).desc e = s.desc e
  | [], _, _ => rfl
  | d :: rest, s, out => by
    rw [List.mem_cons, not_or] at out
    rw [State.setPlaces, desc_setPlaces_ne p _ out.2, s.desc_setDesc_ne _ out.1]

theorem State.desc_setPlaces {p : Place} (used : p ≠ .free) {e : Nat} : ∀ {ds : List Nat} (s : State), e ∈ ds →
    (s.setPlaces p ds).desc e = { s.desc e with place := p }
  | [], _, mem => absurd mem List.not_mem_nil
  | d :: rest, s, mem => by
    have written : (s.setDesc d { s.desc d with place := p }).desc d = { s.desc d with place := p } :=
      s.desc_setDesc_same d (Descriptor.ne_cleared used)
    rw [State.setPlaces]
    by_cases later : e ∈ rest
    · rw [desc_setPlaces used _ later]
      by_cases same : e = d
      · rw [same, written]
      · rw [s.desc_setDesc_ne _ same]
    · obtain rfl : e = d := (List.mem_cons.1 mem).resolve_right later
      rw [State.desc_setPlaces_ne p _ later, written]

/-- Places of other descriptors may be written before a release or after it. -/
theorem State.setPlaces_release (p : Place) (i d : Nat) (reason : Reason) : ∀ {ds : List Nat} {s : State}, d ∉ ds →
    Table.wf Station.free s.stations = true → Table.wf Descriptor.cleared s.bm.descs = true →
    (s.release i d reason).setPlaces p ds = (s.setPlaces p ds).release i d reason
  | [], _, _, _, _ => rfl
  | e :: rest, s, out, stations, descs => by
    rw [List.mem_cons, not_or] at out
    rw [State.setPlaces, State.setPlaces, s.desc_release_ne reason (Ne.symm out.1),
      State.setDesc_release _ _ _ _ _ _ (Ne.symm out.1) stations descs]
    exact setPlaces_release p i d reason out.2 stations (Table.wf_set descs _ _)

/-! ### Frames taken out of a queue -/

/-- The state after frames have left the queue of station `i`, where `left` stays, and those of `placed` have entered a
grant (R105). -/
def State.taken (s : State) (i : Nat) (left placed : List Nat) : State :=
  (s.setStation i { s.station i with queue := left }).setPlaces .inGrant placed

section
variable {s : State} {i d : Nat} {left placed : List Nat}

theorem State.agreesButTables_taken (s : State) (i : Nat) (left placed : List Nat) :
    s.AgreesButTables (s.taken i left placed) :=
  have emptied : s.AgreesButTables (s.setStation i { s.station i with queue := left }) := rfl
  emptied.trans (State.agreesButTables_setPlaces _ _ _)

theorem State.Keeps.taken (s : State) (i : Nat) (left placed : List Nat) : s.Keeps (s.taken i left placed) :=
  .setPlaces _ _ ((State.Keeps.refl s).setStation i _)

theorem State.otherStationsKeep_taken (s : State) (i : Nat) (left placed : List Nat) :
    OtherStationsKeep s (s.taken i left placed) i := fun _ ne =>
  (State.station_setPlaces _ _ _ _).trans (s.station_setStation_ne _ ne)

theorem State.station_taken (live : (s.station i).admin ≠ .free) :
    (s.taken i left placed).station i = { s.station i with queue := left } :=
  (State.station_setPlaces _ _ _ _).trans (s.station_setStation_same i (Station.ne_free live))

theorem State.otherDescsKeep_taken (s : State) (i : Nat) (left placed : List Nat) :
    OtherDescsKeep s (s.taken i left placed) placed := fun _ out => State.desc_setPlaces_ne _ _ out

theorem State.desc_taken (mem : d ∈ placed) :
    (s.taken i left placed).desc d = { s.desc d with place := .inGrant } :=
  State.desc_setPlaces (by nofun) _ mem

/-- A frame popped and released first is one taken and released last. -/
theorem State.taken_popRelease (stations : Table.wf Station.free s.stations = true)
    (descs : Table.wf Descriptor.cleared s.bm.descs = true) (live : (s.station i).admin ≠ .free) (reason : Reason)
    (out : d ∉ placed) :
    ((s.popQueue i).release i d reason).taken i left placed = (s.taken i left placed).release i d reason := by
  have popped : Table.wf Station.free (s.popQueue i).stations = true := Table.wf_set stations _ _
  have reads : (s.popQueue i).station i = { s.station i with queue := (s.station i).queue.drop 1 } :=
    s.station_setStation_same i (Station.ne_free live)
  have written := State.setStation_release (s.popQueue i) i d reason (fun r => { r with queue := left }) popped descs
    (by rw [reads]; exact live) (fun _ => ⟨rfl, rfl⟩) fun _ _ => rfl
  rw [reads, State.popQueue, State.setStation_setStation stations] at written
  rw [State.taken, State.popQueue, written]
  exact State.setPlaces_release _ _ _ _ out (Table.wf_set stations _ _) descs

/-- A frame placed first is one taken with the others. -/
theorem State.taken_place (stations : Table.wf Station.free s.stations = true) (live : (s.station i).admin ≠ .free) :
    (s.place i d).taken i left placed = s.taken i left (d :: placed) := by
  have reads : (s.place i d).station i = { s.station i with queue := (s.station i).queue.drop 1 } :=
    s.station_setStation_same i (Station.ne_free live)
  have twice := State.setStation_setStation stations i { s.station i with queue := (s.station i).queue.drop 1 }
    { s.station i with queue := left }
  rw [State.taken, reads, State.taken, State.setPlaces, ← twice]
  rfl

theorem State.taken_nothing (stations : Table.wf Station.free s.stations = true) :
    s.taken i (s.station i).queue [] = s := s.setStation_station stations i

end

/-! ### The frames examined (R104) -/

theorem State.unfit_congr {s t : State} {i d : Nat} (now : t.timeBase = s.timeBase) (rp : t.rp = s.rp)
    (classes : t.sched.liveClass = s.sched.liveClass) (cls : (t.station i).cls = (s.station i).cls)
    (desc : t.desc d = s.desc d) : t.unfit i d = s.unfit i d := by
  have entry : t.liveClass (t.station i) = s.liveClass (s.station i) := by rw [State.liveClass, classes, cls]; rfl
  have expired : t.expired (t.station i) d = s.expired (s.station i) d := by
    rw [State.expired, State.expired, entry, desc, now, rp]
  rw [State.unfit, State.unfit, expired, desc]

/-- Formation is at queue `l` of station `i`: of each frame, `unfit` says why it may not be sent and `length` its length. -/
structure State.Examines (s : State) (i : Nat) (unfit : Nat → Option Reason) (length : Nat → Nat) (l : List Nat) :
    Prop where
  stations : Table.wf Station.free s.stations = true
  descs : Table.wf Descriptor.cleared s.bm.descs = true
  live : (s.station i).admin ≠ .free
  queue : (s.station i).queue = l
  fresh : l.Nodup
  finds : ∀ d ∈ l, s.unfit i d = unfit d ∧ (s.desc d).length.toNat = length d

/-- A frame as its grant records it (R99), its length given. -/
def frameOf (length : Nat → Nat) (d : Nat) : GrantFrame := { desc := d, length := length d }

namespace State.Examines
variable {s : State} {i d : Nat} {unfit : Nat → Option Reason} {length : Nat → Nat} {rest : List Nat}

theorem head (h : s.Examines i unfit length (d :: rest)) :
    s.unfit i d = unfit d ∧ s.grantFrame d = frameOf length d ∧ (s.desc d).length.toNat = length d := by
  obtain ⟨reason, long⟩ := h.finds d List.mem_cons_self
  exact ⟨reason, by rw [State.grantFrame, long]; rfl, long⟩

theorem out (h : s.Examines i unfit length (d :: rest)) : d ∉ rest := (List.nodup_cons.1 h.fresh).1

/-- What formation finds of the frames behind the head does not change while the head is dealt with. -/
theorem behind (h : s.Examines i unfit length (d :: rest)) {t : State} (now : t.timeBase = s.timeBase) (rp : t.rp = s.rp)
    (classes : t.sched.liveClass = s.sched.liveClass) (cls : (t.station i).cls = (s.station i).cls)
    (desc : ∀ e, e ≠ d → t.desc e = s.desc e) :
    ∀ e ∈ rest, t.unfit i e = unfit e ∧ (t.desc e).length.toNat = length e := by
  intro e mem
  have ne : e ≠ d := fun same => h.out (same ▸ mem)
  obtain ⟨reason, long⟩ := h.finds e (List.mem_cons_of_mem d mem)
  rw [State.unfit_congr now rp classes cls (desc e ne), desc e ne]
  exact ⟨reason, long⟩

theorem station_popQueue (h : s.Examines i unfit length (d :: rest)) :
    (s.popQueue i).station i = { s.station i with queue := rest } := by
  have reads : (s.popQueue i).station i = { s.station i with queue := (s.station i).queue.drop 1 } :=
    s.station_setStation_same i (Station.ne_free h.live)
  rw [h.queue] at reads
  exact reads

theorem pass (h : s.Examines i unfit length (d :: rest)) (reason : Reason) :
    ((s.popQueue i).release i d reason).Examines i unfit length rest := by
  have popped := h.station_popQueue
  have reads := (s.popQueue i).station_release i d reason
  rw [popped] at reads
  exact
    { stations := State.wf_release _ _ _ _ (Table.wf_set h.stations _ _)
      descs := State.wf_descs_release _ _ _ _ h.descs
      live := by rw [reads]; exact h.live
      queue := by rw [reads]
      fresh := (List.nodup_cons.1 h.fresh).2
      finds := h.behind (by simp) (by simp) (by simp) (by rw [reads]) fun e ne =>
        (s.popQueue i).desc_release_ne reason ne }

theorem place (h : s.Examines i unfit length (d :: rest)) : (s.place i d).Examines i unfit length rest := by
  have reads : (s.place i d).station i = { s.station i with queue := rest } := h.station_popQueue
  exact
    { stations := Table.wf_set h.stations _ _
      descs := Table.wf_set h.descs _ _
      live := by rw [reads]; exact h.live
      queue := by rw [reads]
      fresh := (List.nodup_cons.1 h.fresh).2
      finds := h.behind rfl rfl rfl (by rw [reads]) fun e ne => (s.popQueue i).desc_setDesc_ne _ ne }

theorem taken_all {l : List Nat} (h : s.Examines i unfit length l) : s.taken i l [] = s := by
  obtain rfl := h.queue
  exact State.taken_nothing h.stations

/-- ROUND formation divides the queue as R105 lays down: the frames taken out at once, then the releases in order. -/
theorem formRound (most : Nat) (limit : Int) (row : RateEntry) : ∀ (l placed : List Nat) (sum : Nat) {s : State},
    s.Examines i unfit length l → (placed = [] → sum = 0) →
    let x := divideRound unfit (fun d => frameEstimate row (length d)) most limit l placed sum
    ∃ new, x.placed = placed ++ new ∧ l.Perm (x.released.map Prod.fst ++ (new ++ x.rest))
      ∧ State.formRound i most limit row l (placed.map (frameOf length)) sum s =
          (x.placed.map (frameOf length), x.sum, (s.taken i x.rest new).releases i x.released)
  | [], placed, sum, s, h, _ => by
    refine ⟨[], (List.append_nil _).symm, .nil, ?_⟩
    show _ = (_, _, s.taken i [] [])
    rw [h.taken_all]
    rfl
  | d :: rest, placed, sum, s, h, zero => by
    obtain ⟨reasons, frame, long⟩ := h.head
    have stop : ∃ new, placed = placed ++ new ∧ (d :: rest).Perm ([] ++ (new ++ d :: rest))
        ∧ (placed.map (frameOf length), sum, s) =
          (placed.map (frameOf length), sum, (s.taken i (d :: rest) new).releases i []) :=
      ⟨[], (List.append_nil _).symm, .refl _, by rw [h.taken_all]; rfl⟩
    rw [divideRound, State.formRound, reasons, frame, long]
    simp only [ne_eq, List.map_eq_nil_iff, List.length_map]
    by_cases full : ¬placed = [] ∧ most ≤ placed.length
    · simp only [if_pos full]
      exact stop
    simp only [if_neg full]
    cases unfit d with
    | some reason =>
      obtain ⟨new, grown, parts, formed⟩ := formRound most limit row rest placed sum (h.pass reason) zero
      have out : d ∉ new := fun mem =>
        h.out (parts.mem_iff.2 (List.mem_append_right _ (List.mem_append_left _ mem)))
      refine ⟨new, grown, parts.cons d, ?_⟩
      simp only
      rw [formed, State.taken_popRelease h.stations h.descs h.live reason out]
      rfl
    | none =>
      have placing (more : List Nat) (total : Nat) (grows : more = placed ++ [d]) :
          let x := divideRound unfit (fun d => frameEstimate row (length d)) most limit rest more total
          ∃ new, x.placed = placed ++ new ∧ (d :: rest).Perm (x.released.map Prod.fst ++ (new ++ x.rest))
            ∧ State.formRound i most limit row rest (placed.map (frameOf length) ++ [frameOf length d]) total
                (s.place i d) =
              (x.placed.map (frameOf length), x.sum, (s.taken i x.rest new).releases i x.released) := by
        obtain ⟨new, grown, parts, formed⟩ := formRound most limit row rest more total h.place
          fun none_ => by rw [grows] at none_; simp at none_
        have mapped : placed.map (frameOf length) ++ [frameOf length d] = more.map (frameOf length) := by
          rw [grows, List.map_append]; rfl
        refine ⟨d :: new, ?_, (parts.cons d).trans List.perm_middle.symm, ?_⟩
        · rw [grown, grows, List.append_assoc]; rfl
        · rw [mapped, formed, State.taken_place h.stations h.live]
      by_cases first : placed = []
      · simp only [first, true_or, if_true]
        have := placing [d] (frameEstimate row (length d)) (by rw [first]; rfl)
        rw [first] at this
        rw [zero first, Nat.zero_add]
        exact this
      · simp only [first, false_or, if_false]
        split
        · exact placing _ _ rfl
        · exact stop

/-- POLL formation divides the queue as R106 lays down. -/
theorem formPoll (row : RateEntry) : ∀ (l : List Nat) {s : State}, s.Examines i unfit length l →
    let x := dividePoll unfit (fun d => frameEstimate row (length d)) l
    l.Perm (x.released.map Prod.fst ++ (x.placed ++ x.rest))
      ∧ State.formPoll i row l s =
          (x.placed.map (frameOf length), x.sum, (s.taken i x.rest x.placed).releases i x.released)
  | [], s, h => by
    refine ⟨.nil, ?_⟩
    show _ = (_, _, s.taken i [] [])
    rw [h.taken_all]
    rfl
  | d :: rest, s, h => by
    obtain ⟨reasons, frame, long⟩ := h.head
    rw [dividePoll, State.formPoll, reasons, frame, long]
    cases unfit d with
    | some reason =>
      obtain ⟨parts, formed⟩ := formPoll row rest (h.pass reason)
      have out : d ∉ (dividePoll unfit (fun d => frameEstimate row (length d)) rest).placed := fun mem =>
        h.out (parts.mem_iff.2 (List.mem_append_right _ (List.mem_append_left _ mem)))
      refine ⟨parts.cons d, ?_⟩
      simp only
      rw [formed, State.taken_popRelease h.stations h.descs h.live reason out]
      rfl
    | none =>
      refine ⟨.refl _, ?_⟩
      simp only
      rw [show s.taken i rest [d] = _ from (State.taken_place h.stations h.live).symm, h.place.taken_all]
      rfl

end State.Examines

/-- A ROUND formation that places no frame has gone through the whole queue (R105). -/
theorem divideRound_rest_of_empty (unfit : Nat → Option Reason) (estimate : Nat → Nat) (most : Nat) (limit : Int) :
    ∀ (l placed : List Nat) (sum : Nat), (divideRound unfit estimate most limit l placed sum).placed = [] →
      (divideRound unfit estimate most limit l placed sum).rest = []
  | [], _, _, _ => rfl
  | d :: rest, placed, sum, none_ => by
    have ih := divideRound_rest_of_empty unfit estimate most limit rest
    rw [divideRound] at none_ ⊢
    split at none_
    case isTrue full => exact absurd none_ full.1
    case isFalse more =>
      rw [if_neg more]
      cases found : unfit d with
      | some reason =>
        rw [found] at none_
        exact ih _ _ none_
      | none =>
        rw [found] at none_
        simp only at none_ ⊢
        split_ifs at none_ ⊢ with first fits
        · exact ih _ _ none_
        · exact ih _ _ none_
        · exact absurd none_ first

end Sys2Proof.Machine
end

section
/-! PROOFS. A ROUND grant and a POLL grant formed and begun (06 §6.3, 6.4): the state in which the unfit frames are
released, the releases, and what issue writes. -/
set_option Elab.async false

namespace Sys2Proof.Machine

/-! ### What releases leave alone -/

/-- A release raises no part-wide counter but those of faults (R163). -/
theorem State.ctr_release (s : State) (i d : Nat) (reason : Reason) : (s.release i d reason).ctr = { s.ctr with
    chainFaults := (s.release i d reason).ctr.chainFaults
    memoryFaults := (s.release i d reason).ctr.memoryFaults } := by
  have reported (u : State) (same : u.ctr = s.ctr) (phase : Phase) (cookie : BitVec 32) (f : WalkFault) :
      (u.reportFault phase i cookie f).ctr = { s.ctr with
        chainFaults := (u.reportFault phase i cookie f).ctr.chainFaults
        memoryFaults := (u.reportFault phase i cookie f).ctr.memoryFaults } := by
    rw [State.reportFault, ← same]
    split <;> rfl
  unfold State.release
  simp only
  split_ifs
  · simp
  · split
    · simp
    case h_2 f b _ =>
      simp only [State.count_ctr, State.toReclaim_ctr, State.claimFault_ctr]
      exact reported _ (by simp) _ _ f

theorem State.ctr_releases (i : Nat) : ∀ (l : List (Nat × Reason)) (s : State), (s.releases i l).ctr = { s.ctr with
    chainFaults := (s.releases i l).ctr.chainFaults, memoryFaults := (s.releases i l).ctr.memoryFaults }
  | [], _ => rfl
  | (d, reason) :: rest, s => by
    rw [State.releases]
    conv_lhs => rw [ctr_releases i rest, s.ctr_release i d reason]

theorem OtherStationsKeep.trans {s t u : State} {i : Nat} (h : OtherStationsKeep s t i) (g : OtherStationsKeep t u i) :
    OtherStationsKeep s u i := fun j ne => (g j ne).trans (h j ne)

theorem OtherStationsKeep.releases {s t : State} {i : Nat} (h : OtherStationsKeep s t i) (l : List (Nat × Reason)) :
    OtherStationsKeep s (t.releases i l) i := h.trans fun _ ne => State.station_releases_ne ne l t

theorem OtherDescsKeep.releases {s t : State} {ds : List Nat} (h : OtherDescsKeep s t ds) (i : Nat)
    (l : List (Nat × Reason)) : OtherDescsKeep s (t.releases i l) (ds ++ l.map Prod.fst) := by
  intro d out
  rw [List.mem_append, not_or] at out
  rw [State.desc_releases_ne i l t out.2, h d out.1]

/-! ### Issue (R107, R108, R13) -/

section
variable {s : State} {f : Feed} {g : Grant}

theorem State.slot_endStream (feeds : s.feeder = some f) (open_ : s.slot f.slot = some g) (ended : StreamEnd) :
    (s.endStream ended).slot f.slot =
      some { g with stream := .sent { limit := 1000 * s.rp.options.grantTimeout, elapsed := 0 } } := by
  simp only [State.endStream, feeds, open_]
  exact s.slot_setSlot_some f.slot _

theorem State.otherSlotsKeep_endStream (feeds : s.feeder = some f) (ended : StreamEnd) :
    OtherSlotsKeep s (s.endStream ended) f.slot := by
  intro l ne
  simp only [State.endStream, feeds]
  cases open_ : s.slot f.slot with
  | none => rfl
  | some g => exact s.slot_setSlot_ne _ ne

end

section
variable (u : State) (k i : Nat) (kind : GrantKind) (frames : List GrantFrame) (estimate : Nat)

/-- The grant of an issue fills its slot, streaming while the link is UP and SENT at once while it is DOWN. -/
theorem State.slot_issue : (u.issue k i kind frames estimate).slot k = some
    { serial := u.sched.serial, station := i, kind := kind, frames := frames, estimate := estimate
      stream := if u.radio.up = true then .streaming
        else .sent { limit := 1000 * u.rp.options.grantTimeout, elapsed := 0 } } := by
  have filled (g : Grant) (w : State) (slots : w.sched.slots = (u.setSlot k (some g)).sched.slots) :
      w.slot k = some g := (State.slot_congr slots k).trans (u.slot_setSlot_some k g)
  unfold State.issue
  simp only [State.count_radio, State.setStation_radio, State.setSlot_radio]
  split
  · exact filled _ _ (by simp)
  · refine (State.slot_endStream (f := { slot := k, frame := 0, segment := 1, walk := none }) rfl
      (filled _ _ (by simp; rfl)) _).trans ?_
    simp

theorem State.otherSlotsKeep_issue : OtherSlotsKeep u (u.issue k i kind frames estimate) k := by
  have filled (g : Grant) (w : State) (slots : w.sched.slots = (u.setSlot k (some g)).sched.slots) :
      OtherSlotsKeep u w k := fun l ne => (State.slot_congr slots l).trans (u.slot_setSlot_ne _ ne)
  unfold State.issue
  simp only [State.count_radio, State.setStation_radio, State.setSlot_radio]
  intro l ne
  split
  · exact filled _ _ (by simp; rfl) l ne
  · exact (State.otherSlotsKeep_endStream (f := { slot := k, frame := 0, segment := 1, walk := none }) rfl _ l ne).trans
      (filled _ _ (by simp; rfl) l ne)

theorem State.stations_issue : ∃ w : State, w.stations = u.stations ∧ (u.issue k i kind frames estimate).stations =
    ((w.setStation i { w.station i with slot := some k }).count i
      fun c => { c with grants := addTo c.grants 1 }).stations := by
  unfold State.issue
  simp only
  split
  · exact ⟨_, State.setSlot_stations u k _, rfl⟩
  · exact ⟨_, State.setSlot_stations u k _, State.endStream_stations _ _⟩

theorem State.otherStationsKeep_issue : OtherStationsKeep u (u.issue k i kind frames estimate) i := by
  obtain ⟨w, same, written⟩ := u.stations_issue k i kind frames estimate
  intro j ne
  rw [State.station_congr written, State.station_count_ne _ _ ne, w.station_setStation_ne _ ne,
    State.station_congr same]

/-- The record of a granted station has its slot and one grant more. -/
theorem State.station_issue (live : (u.station i).admin ≠ .free) :
    (u.issue k i kind frames estimate).station i = { u.station i with
      slot := some k, counters := { (u.station i).counters with grants := (u.station i).counters.grants + 1 } } := by
  obtain ⟨w, same, written⟩ := u.stations_issue k i kind frames estimate
  rw [← State.station_congr same] at live ⊢
  have reads : (w.setStation i { w.station i with slot := some k }).station i = { w.station i with slot := some k } :=
    w.station_setStation_same i (Station.ne_free live)
  rw [State.station_congr written, State.station_count_same _ _ _ (by rw [reads]; exact live), reads]
  rfl

end

/-- From `u` to `t` the grant of the frames placed opens slot `k` for station `i` and begins on the Radio Link (R99, R107,
R108, R13, R16), its figures as state `s` has them. -/
def State.GrantBegins (s u t : State) (k i : Nat) (kind : GrantKind) (placed : List Nat) (sum : Nat) : Prop :=
  t = { u with
      stations := t.stations
      sched := { u.sched with slots := t.sched.slots, serial := s.sched.serial + 1 }
      ctr := { u.ctr with grantsIssued := s.ctr.grantsIssued + 1 }
      feeder := if s.radio.up = true then some { slot := k, frame := 0, segment := 1, walk := none } else none
      radio := { s.radio with
        stream := some
          { slot := k, serial := s.sched.serial, station := i, kind := kind, count := placed.length
            estimate := sum, lengths := placed.map fun d => (s.desc d).length.toNat, sections := []
            ended := if s.radio.up = true then .inProgress else .cut } } }
    ∧ OtherSlotsKeep s t k
    ∧ t.slot k = some
      { serial := s.sched.serial, station := i, kind := kind
        frames := placed.map fun d => { desc := d, length := (s.desc d).length.toNat }
        estimate := sum
        stream := if s.radio.up = true then .streaming
          else .sent { limit := 1000 * s.rp.options.grantTimeout, elapsed := 0 } }
    ∧ OtherStationsKeep u t i
    ∧ t.station i = { u.station i with
        slot := some k
        counters := { (u.station i).counters with grants := (u.station i).counters.grants + 1 } }

/-- The beginning of a grant leaves these fields of the record alone. -/
theorem State.GrantBegins.station_fields {s u t : State} {k i : Nat} {kind : GrantKind} {placed : List Nat} {sum : Nat}
    (h : s.GrantBegins u t k i kind placed sum) :
    (t.station i).queue = (u.station i).queue ∧ (t.station i).deficit = (u.station i).deficit
      ∧ (t.station i).poll = (u.station i).poll ∧ (t.station i).power = (u.station i).power := by
  obtain ⟨_, _, _, _, station⟩ := h
  rw [station]
  exact ⟨rfl, rfl, rfl, rfl⟩

/-- The length of a queued frame as formation reads it (R104). -/
def State.lengthOf (s : State) (d : Nat) : Nat := (s.desc d).length.toNat

/-- Issue begins the grant, whatever releases went before it in the step. -/
theorem State.grantBegins_issue {s u : State} (k i : Nat) (kind : GrantKind) (placed : List Nat) (sum : Nat)
    (slots : u.sched.slots = s.sched.slots) (serial : u.sched.serial = s.sched.serial)
    (issued : u.ctr.grantsIssued = s.ctr.grantsIssued) (radio : u.radio = s.radio) (rp : u.rp = s.rp)
    (live : (u.station i).admin ≠ .free) :
    s.GrantBegins u (u.issue k i kind (placed.map (frameOf s.lengthOf)) sum) k i kind placed sum := by
  have begins := u.issue_eq k i kind (placed.map (frameOf s.lengthOf)) sum
  have opened := u.slot_issue k i kind (placed.map (frameOf s.lengthOf)) sum
  have others := u.otherSlotsKeep_issue k i kind (placed.map (frameOf s.lengthOf)) sum
  have lengths : (placed.map (frameOf s.lengthOf)).map GrantFrame.length = placed.map s.lengthOf := List.map_map
  simp only [serial, issued, radio, lengths, List.length_map] at begins
  rw [serial, radio, rp] at opened
  exact ⟨begins, fun l ne => (others l ne).trans (State.slot_congr slots l), opened,
    u.otherStationsKeep_issue k i kind _ sum, u.station_issue k i kind _ sum live⟩

/-! ### The grant of a candidate (R105, R106) -/

section
variable {s : State} {i k : Nat}

theorem State.grantable_round (running : s.sched.state = .running) (free : s.freeSlot = some k) (idle : s.feeder = none)
    (eligible : (s.station i).eligible = true) : s.grantable { station := i, kind := .round } = true := by
  simp [State.grantable, running, free, idle, eligible]

theorem State.grantable_poll (running : s.sched.state = .running) (free : s.freeSlot = some k) (idle : s.feeder = none)
    (active : (s.station i).admin = .active) (dozing : (s.station i).power = .dozing)
    (poll : (s.station i).poll = true) (hold : (s.station i).hold = false) (slot : (s.station i).slot = none) :
    s.grantable { station := i, kind := .poll } = true := by
  simp [State.grantable, running, free, idle, active, dozing, poll, hold, slot]

theorem State.form_round (free : s.freeSlot = some k) {frames : List GrantFrame} {sum : Nat} {u : State}
    (formed : State.formRound i (s.liveClass (s.station i)).maxFrames
      (min (s.station i).deficit (s.liveClass (s.station i)).maxAirtime) (s.liveRate (s.station i)) (s.station i).queue
      [] 0 s = (frames, sum, u)) :
    s.form { station := i, kind := .round } = if frames = [] then u else u.issue k i .round frames sum := by
  simp only [State.form, formed, free, Option.getD_some]
  cases frames <;> rfl

theorem State.form_poll (free : s.freeSlot = some k) {frames : List GrantFrame} {sum : Nat} {u : State}
    (formed : State.formPoll i (s.liveRate (s.station i)) (s.station i).queue s = (frames, sum, u)) :
    s.form { station := i, kind := .poll } = (u.cancelPoll i).issue k i .poll frames sum := by
  simp only [State.form, formed, free, Option.getD_some]

/-- The slot that `freeSlot` names is FREE (R99). -/
theorem State.slot_of_freeSlot (free : s.freeSlot = some k) : s.slot k = none := by
  have empty := State.slot_freeSlot (s := s) (by rw [free]; rfl)
  rw [free] at empty
  exact empty

/-- A candidacy over, formation examines the queue as it stands. -/
theorem State.Canonical.examines (canonical : s.Canonical) (live : (s.station i).admin ≠ .free)
    (fresh : (s.station i).queue.Nodup) :
    (s.setCandidate none).Examines i (s.unfit i) s.lengthOf (s.station i).queue := by
  obtain ⟨_, _, descs, _, stations, _⟩ := canonical
  exact ⟨stations, descs, live, rfl, fresh, fun _ _ => ⟨rfl, rfl⟩⟩

end

/-- What formation leaves alone, whether a grant begins or not: records but the station's, descriptors but those examined,
the two lists, packet memory; and the frames placed are IN_GRANT and otherwise as they were. -/
def State.FormationKeeps (s t : State) (i : Nat) (placed gone : List Nat) : Prop :=
  OtherStationsKeep s t i
    ∧ OtherDescsKeep s t (placed ++ gone)
    ∧ (∀ d ∈ placed, t.desc d = { s.desc d with place := .inGrant })
    ∧ t.sched.entryList = s.sched.entryList ∧ t.sched.roundList = s.sched.roundList
    ∧ t.bm.mem = s.bm.mem ∧ t.bm.ecc = s.bm.ecc

namespace State.FormationKeeps
variable {s v t : State} {i : Nat} {placed : List Nat}

/-- Frames taken out of the queue. -/
theorem taken (s : State) (i : Nat) (left placed : List Nat) :
    s.FormationKeeps (s.taken i left placed) i placed [] := by
  have agrees := s.agreesButTables_taken i left placed
  refine ⟨s.otherStationsKeep_taken i left placed, ?_, fun _ mem => State.desc_taken mem, ?_, ?_, ?_, ?_⟩
  · rw [List.append_nil]
    exact s.otherDescsKeep_taken i left placed
  all_goals rw [agrees]

theorem cancelPoll (h : s.FormationKeeps t i placed []) : s.FormationKeeps (t.cancelPoll i) i placed [] := by
  obtain ⟨stations, descs, entered, entries, rounds, mem, ecc⟩ := h
  have same (d : Nat) : (t.cancelPoll i).desc d = t.desc d := State.desc_congr (by simp) d
  refine ⟨stations.trans fun _ ne => t.station_cancelPoll_ne ne, fun d out => (same d).trans (descs d out),
    fun d is => (same d).trans (entered d is), ?_, ?_, ?_, ?_⟩ <;> simpa

/-- Frames that were not placed are released. -/
theorem releases (h : s.FormationKeeps v i placed []) (gone : List (Nat × Reason))
    (apart : ∀ d ∈ placed, d ∉ gone.map Prod.fst) :
    s.FormationKeeps (v.releases i gone) i placed (gone.map Prod.fst) := by
  obtain ⟨stations, descs, entered, entries, rounds, mem, ecc⟩ := h
  rw [List.append_nil] at descs
  refine ⟨stations.releases gone, descs.releases i gone, fun d is => ?_, ?_, ?_, ?_, ?_⟩
  · rw [State.desc_releases_ne i gone v (apart d is), entered d is]
  all_goals simpa

theorem issue {gone : List Nat} (h : s.FormationKeeps t i placed gone) (k : Nat) (kind : GrantKind)
    (frames : List GrantFrame) (estimate : Nat) :
    s.FormationKeeps (t.issue k i kind frames estimate) i placed gone := by
  obtain ⟨stations, descs, entered, entries, rounds, mem, ecc⟩ := h
  have bm := t.issue_bm k i kind frames estimate
  have begins := t.issue_eq k i kind frames estimate
  have same (d : Nat) : (t.issue k i kind frames estimate).desc d = t.desc d := State.desc_congr (by rw [bm]) d
  refine ⟨stations.trans (t.otherStationsKeep_issue k i kind frames estimate),
    fun d out => (same d).trans (descs d out), fun d is => (same d).trans (entered d is), ?_, ?_, ?_, ?_⟩
  · rw [begins]; exact entries
  · rw [begins]; exact rounds
  · rw [bm]; exact mem
  · rw [bm]; exact ecc

end State.FormationKeeps

/-- The frames placed are none of those released. -/
theorem placed_notMem_released {l placed rest : List Nat} {released : List (Nat × Reason)} (fresh : l.Nodup)
    (parts : l.Perm (released.map Prod.fst ++ (placed ++ rest))) : ∀ d ∈ placed, d ∉ released.map Prod.fst := by
  have nodup := parts.nodup_iff.1 fresh
  exact fun d is gone => (List.disjoint_of_nodup_append nodup) gone (List.mem_append_left _ is)

/-- The state in which the unfit frames are released has nothing of `s` changed but records, Place fields, the candidacy and
the Poll Queue. -/
def State.AboutToRelease (s v : State) (pollQueue : List Nat) : Prop :=
  v = { s with
    stations := v.stations
    sched := { s.sched with candidate := none, pollQueue := pollQueue }
    bm := { s.bm with descs := v.bm.descs } }

namespace State.AboutToRelease
variable {s v : State} {q : List Nat} {i k : Nat}

/-- The slot of the grant is FREE and the Feeder idle when the grant begins. -/
theorem unused (h : s.AboutToRelease v q) (free : s.freeSlot = some k) (idle : s.feeder = none) (l : List (Nat × Reason)) :
    (v.releases i l).slot k = none ∧ (v.releases i l).feeder = none ∧ (v.releases i l).radio = s.radio := by
  refine ⟨?_, ?_, ?_⟩
  · rw [State.slot_congr (s := s) (by rw [State.releases_sched_slots, h])]
    exact State.slot_of_freeSlot free
  · rw [State.releases_feeder, h]
    exact idle
  · rw [State.releases_radio, h]

theorem grantBegins (h : s.AboutToRelease v q) (live : (v.station i).admin ≠ .free) (l : List (Nat × Reason)) (k : Nat)
    (kind : GrantKind) (placed : List Nat) (sum : Nat) :
    s.GrantBegins (v.releases i l) ((v.releases i l).issue k i kind (placed.map (frameOf s.lengthOf)) sum) k i kind placed
      sum := by
  refine State.grantBegins_issue k i kind placed sum ?_ ?_ ?_ ?_ ?_ ?_
  · rw [State.releases_sched_slots, h]
  · rw [State.releases_sched_serial, h]
  · rw [State.ctr_releases, h]
  · rw [State.releases_radio, h]
  · rw [State.releases_rp, h]
  · rw [State.station_releases]
    exact live

end State.AboutToRelease

/-! ### A ROUND grant (R105) -/

/-- The division of the queue of station `i` by R105, as its record and the tables stand. -/
def State.roundDivision (s : State) (i : Nat) : Division :=
  let r := s.station i
  let c := s.liveClass r
  divideRound (s.unfit i) (fun d => frameEstimate (s.liveRate r) (s.lengthOf d)) c.maxFrames (min r.deficit c.maxAirtime)
    r.queue [] 0

/-- Formation of a ROUND candidate that may be granted, as one removal, the releases, and issue if a frame was placed. -/
theorem exec_grantFormation_round {s : State} {i k : Nat} (canonical : s.Canonical)
    (chosen : s.sched.candidate = some { station := i, kind := .round }) (running : s.sched.state = .running)
    (free : s.freeSlot = some k) (idle : s.feeder = none) (eligible : (s.station i).eligible = true)
    (fresh : (s.station i).queue.Nodup) :
    let x := s.roundDivision i
    let u := ((s.setCandidate none).taken i x.rest x.placed).releases i x.released
    exec .grantFormation s =
        .next (if x.placed = [] then u else u.issue k i .round (x.placed.map (frameOf s.lengthOf)) x.sum)
      ∧ ∀ d ∈ x.placed, d ∉ x.released.map Prod.fst := by
  intro x u
  have live := Station.live_of_eligible eligible
  obtain ⟨new, all, parts, formed⟩ := (canonical.examines live fresh).formRound (s.liveClass (s.station i)).maxFrames
    (min (s.station i).deficit (s.liveClass (s.station i)).maxAirtime) (s.liveRate (s.station i)) (s.station i).queue
    [] 0 fun _ => rfl
  obtain rfl : x.placed = new := all
  have form : (s.setCandidate none).form { station := i, kind := .round } =
      if x.placed.map (frameOf s.lengthOf) = [] then u
      else u.issue k i .round (x.placed.map (frameOf s.lengthOf)) x.sum :=
    State.form_round (s := s.setCandidate none) free formed
  simp only [List.map_eq_nil_iff] at form
  refine ⟨?_, placed_notMem_released fresh parts⟩
  rw [exec_grantFormation_granted chosen (State.grantable_round (s := s.setCandidate none) running free idle eligible),
    form]

/-- Settles O31: the queue divided, the releases after one removal, and issue if a frame was placed. -/
theorem roundGrantIsFormed : Obligations.RoundGrantIsFormed := by
  intro s i k canonical chosen running free idle eligible fresh r c x
  have live := Station.live_of_eligible eligible
  obtain ⟨granted, apart⟩ := exec_grantFormation_round canonical chosen running free idle eligible fresh
  have form : s.AboutToRelease ((s.setCandidate none).taken i x.rest x.placed) s.sched.pollQueue :=
    (s.setCandidate none).agreesButTables_taken i x.rest x.placed
  have record : ((s.setCandidate none).taken i x.rest x.placed).station i = { r with queue := x.rest } :=
    State.station_taken live
  have kept : s.FormationKeeps ((s.setCandidate none).taken i x.rest x.placed) i x.placed [] :=
    State.FormationKeeps.taken (s.setCandidate none) i x.rest x.placed
  have canonical' := (((State.Keeps.refl s).setCandidate none).trans
    (.taken _ i x.rest x.placed)).forms_and_capacities.1 canonical
  change exec .grantFormation s = .next (if x.placed = [] then
    ((s.setCandidate none).taken i x.rest x.placed).releases i x.released else
    (((s.setCandidate none).taken i x.rest x.placed).releases i x.released).issue k i .round
      (x.placed.map (frameOf s.lengthOf)) x.sum) at granted
  generalize (s.setCandidate none).taken i x.rest x.placed = v at granted form record kept canonical'
  have live' : (v.station i).admin ≠ .free := by rw [record]; exact live
  have keeps := kept.releases x.released apart
  have begins := form.grantBegins live' x.released k .round x.placed x.sum
  have reads : (v.releases i x.released).station i =
      { r with queue := x.rest, counters := ((v.releases i x.released).station i).counters } := by
    rw [State.station_releases, record]
  obtain ⟨unused, idle', radio⟩ := form.unused (i := i) free idle x.released
  obtain ⟨t, formed, empty, begun, left, queue, deficit⟩ : ∃ t, exec .grantFormation s = .next t
      ∧ (x.placed = [] → t = v.releases i x.released ∧ x.rest = [])
      ∧ (x.placed ≠ [] → s.GrantBegins (v.releases i x.released) t k i .round x.placed x.sum)
      ∧ s.FormationKeeps t i x.placed (x.released.map Prod.fst)
      ∧ (t.station i).queue = x.rest ∧ (t.station i).deficit = r.deficit := by
    by_cases none_ : x.placed = []
    · rw [if_pos none_] at granted
      exact ⟨_, granted, fun _ => ⟨rfl, divideRound_rest_of_empty _ _ _ _ _ _ _ none_⟩, fun some_ => absurd none_ some_,
        keeps, by rw [reads], by rw [reads]⟩
    · rw [if_neg none_] at granted
      obtain ⟨queue, deficit, _⟩ := begins.station_fields
      exact ⟨_, granted, fun is => absurd is none_, fun _ => begins, keeps.issue _ _ _ _, by rw [queue, reads],
        by rw [deficit, reads]⟩
  obtain ⟨stations, descs, entered, lists⟩ := left
  obtain ⟨stations', descs', entered', _⟩ := kept
  rw [List.append_nil] at descs'
  exact ⟨v, t, formed, form, canonical', stations', record, descs', entered',
    ⟨unused, idle', radio, empty, begun⟩, queue, deficit, stations, descs, entered, lists⟩

/-! ### A POLL grant (R106) -/

/-- The division of the queue of station `i` by R106. -/
def State.pollDivision (s : State) (i : Nat) : Division :=
  dividePoll (s.unfit i) (fun d => frameEstimate (s.liveRate (s.station i)) (s.lengthOf d)) (s.station i).queue

/-- A pending poll is cleared by a write to the record and one to the Poll Queue (R71). -/
theorem State.cancelPoll_of_poll {s : State} {i : Nat} (poll : (s.station i).poll = true) : s.cancelPoll i =
    (s.setStation i { s.station i with poll := false }).withPollQueue (s.sched.pollQueue.filter (· ≠ i)) := if_pos poll

/-- The pending poll may be cleared before the releases or after them. -/
theorem State.cancelPoll_releases {s : State} {i : Nat} (stations : Table.wf Station.free s.stations = true)
    (descs : Table.wf Descriptor.cleared s.bm.descs = true) (live : (s.station i).admin ≠ .free)
    (poll : (s.station i).poll = true) (l : List (Nat × Reason)) :
    (s.releases i l).cancelPoll i = (s.cancelPoll i).releases i l := by
  have pending : ((s.releases i l).station i).poll = true := by rw [State.station_releases]; exact poll
  rw [State.cancelPoll_of_poll pending, State.cancelPoll_of_poll poll, State.releases_withPollQueue,
    State.releases_sched_pollQueue]
  exact congrArg (State.withPollQueue · _) (State.setStation_releases i (fun r => { r with poll := false })
    (fun _ => ⟨rfl, rfl⟩) (fun _ _ => rfl) l s stations descs live)

/-- Formation of a POLL candidate that may be granted, as one removal, the releases, and issue. -/
theorem exec_grantFormation_poll {s : State} {i k : Nat} (canonical : s.Canonical)
    (chosen : s.sched.candidate = some { station := i, kind := .poll }) (free : s.freeSlot = some k)
    (ok : (s.setCandidate none).grantable { station := i, kind := .poll } = true)
    (live : (s.station i).admin ≠ .free) (poll : (s.station i).poll = true) (fresh : (s.station i).queue.Nodup) :
    let x := s.pollDivision i
    exec .grantFormation s =
        .next (((((s.setCandidate none).taken i x.rest x.placed).cancelPoll i).releases i x.released).issue k i .poll
          (x.placed.map (frameOf s.lengthOf)) x.sum)
      ∧ ∀ d ∈ x.placed, d ∉ x.released.map Prod.fst := by
  intro x
  obtain ⟨parts, formed⟩ := (canonical.examines live fresh).formPoll (s.liveRate (s.station i)) (s.station i).queue
  have canonical' := (((State.Keeps.refl s).setCandidate none).trans
    (.taken _ i x.rest x.placed)).forms_and_capacities.1 canonical
  obtain ⟨_, _, descs, _, stations, _⟩ := canonical'
  have record : ((s.setCandidate none).taken i x.rest x.placed).station i = { s.station i with queue := x.rest } :=
    State.station_taken live
  refine ⟨?_, placed_notMem_released fresh parts⟩
  rw [exec_grantFormation_granted chosen ok, State.form_poll (s := s.setCandidate none) free formed,
    ← State.cancelPoll_releases stations descs (by rw [record]; exact live) (by rw [record]; exact poll)]
  rfl

/-- The state in which the unfit frames of a POLL grant are released. -/
theorem State.aboutToRelease_cancelPoll {s v : State} {i : Nat} (form : s.AboutToRelease v s.sched.pollQueue)
    (poll : (v.station i).poll = true) :
    s.AboutToRelease (v.cancelPoll i) (s.sched.pollQueue.filter (· ≠ i)) := by
  rw [State.cancelPoll_of_poll poll]
  have queue : v.sched.pollQueue = s.sched.pollQueue := by rw [form]
  rw [queue]
  have written : v.AgreesButTables (v.setStation i { v.station i with poll := false }) := rfl
  generalize v.setStation i { v.station i with poll := false } = w at written
  rw [State.AboutToRelease, written, form]
  rfl

/-- Settles O32: as for a ROUND grant, the poll cleared before the releases; the grant is begun even if it is empty. -/
theorem pollGrantIsFormed : Obligations.PollGrantIsFormed := by
  intro s i k canonical chosen running free idle active dozing poll hold slot fresh r x
  have live : (s.station i).admin ≠ .free := by rw [active]; nofun
  have ok := State.grantable_poll (s := s.setCandidate none) running free idle active dozing poll hold slot
  obtain ⟨granted, apart⟩ := exec_grantFormation_poll canonical chosen free ok live poll fresh
  have form : s.AboutToRelease ((s.setCandidate none).taken i x.rest x.placed) s.sched.pollQueue :=
    (s.setCandidate none).agreesButTables_taken i x.rest x.placed
  have record : ((s.setCandidate none).taken i x.rest x.placed).station i = { r with queue := x.rest } :=
    State.station_taken live
  have kept : s.FormationKeeps ((s.setCandidate none).taken i x.rest x.placed) i x.placed [] :=
    State.FormationKeeps.taken (s.setCandidate none) i x.rest x.placed
  have canonical' := ((((State.Keeps.refl s).setCandidate none).trans
    (.taken _ i x.rest x.placed)).cancelPoll i).forms_and_capacities.1 canonical
  change exec .grantFormation s = .next
    (((((s.setCandidate none).taken i x.rest x.placed).cancelPoll i).releases i x.released).issue k i .poll
      (x.placed.map (frameOf s.lengthOf)) x.sum) at granted
  generalize (s.setCandidate none).taken i x.rest x.placed = w at granted form record kept canonical'
  replace form := State.aboutToRelease_cancelPoll form (i := i) (by rw [record]; exact poll)
  replace record : (w.cancelPoll i).station i = { r with queue := x.rest, poll := false } := by
    rw [State.station_cancelPoll_same (by rw [record]; exact live), record]
  replace kept := kept.cancelPoll
  generalize w.cancelPoll i = v at granted form record kept canonical'
  have begins := form.grantBegins (i := i) (by rw [record]; exact live) x.released k .poll x.placed x.sum
  have reads : (v.releases i x.released).station i =
      { r with queue := x.rest, poll := false, counters := ((v.releases i x.released).station i).counters } := by
    rw [State.station_releases, record]
  obtain ⟨unused, idle', radio⟩ := form.unused (i := i) free idle x.released
  obtain ⟨queue, deficit, poll', power⟩ := begins.station_fields
  obtain ⟨stations, descs, entered, lists⟩ :=
    (kept.releases x.released apart).issue k .poll (x.placed.map (frameOf s.lengthOf)) x.sum
  obtain ⟨stations', descs', entered', _⟩ := kept
  rw [List.append_nil] at descs'
  rw [reads] at queue deficit poll' power
  exact ⟨v, _, granted, form, canonical', stations', record, descs', entered', ⟨unused, idle', radio, begins⟩, queue,
    deficit, poll', power.trans dozing, stations, descs, entered, lists⟩

end Sys2Proof.Machine
end

section
/-! PROOFS. The end of a grant (06 §6.5 to 6.7): a DONE that is discarded, a valid DONE, and a timeout. -/
set_option Elab.async false

namespace Sys2Proof.Machine

/-! ### The outcomes of a DONE (12.3, R113, R114) -/

/-- The code of an outcome (12.3). -/
def FrameOutcome.code : FrameOutcome → Nat
  | .acked => 0
  | .notAcked => 1
  | .notSent => 2
  | .discarded => 3

theorem FrameOutcome.ofByte_eq_none {b : Byte} : FrameOutcome.ofByte b = none ↔ 4 ≤ b.toNat := by
  unfold FrameOutcome.ofByte
  split
  case h_5 not0 not1 not2 not3 =>
    simp only [imp_false] at not0 not1 not2 not3
    simp only [true_iff]
    omega
  all_goals simp only [reduceCtorEq, false_iff]; omega

theorem FrameOutcome.code_of_ofByte {b : Byte} {o : FrameOutcome} (h : FrameOutcome.ofByte b = some o) :
    b.toNat = o.code := by
  unfold FrameOutcome.ofByte at h
  split at h
  case h_5 => cases h
  all_goals
    cases h
    assumption

theorem outcomesOf_eq_none : ∀ {bytes : List Byte}, outcomesOf bytes = none ↔ ∃ b ∈ bytes, 4 ≤ b.toNat
  | [] => by simp [outcomesOf]
  | b :: rest => by
    have ih := outcomesOf_eq_none (bytes := rest)
    rw [outcomesOf]
    cases head : FrameOutcome.ofByte b with
    | none => simp [FrameOutcome.ofByte_eq_none.1 head]
    | some o =>
      have low : ¬ 4 ≤ b.toNat := fun high => by rw [FrameOutcome.ofByte_eq_none.2 high] at head; cases head
      cases tail : outcomesOf rest with
      | none => simpa [tail] using .inr (ih.1 tail)
      | some os => simpa [tail, not_le.1 low] using ih

theorem map_code_outcomesOf : ∀ {bytes : List Byte} {outcomes : List FrameOutcome}, outcomesOf bytes = some outcomes →
    outcomes.map FrameOutcome.code = bytes.map BitVec.toNat
  | [], outcomes, h => by cases h; rfl
  | b :: rest, outcomes, h => by
    rw [outcomesOf] at h
    split at h
    case h_1 o os head tail =>
      cases h
      rw [List.map_cons, List.map_cons, map_code_outcomesOf tail, FrameOutcome.code_of_ofByte head]
    case h_2 => cases h

theorem byteAt_drop (body : List Byte) (n j : Nat) : byteAt (body.drop n) j = byteAt body (n + j) := by
  simp only [byteAt, List.getD_eq_getElem?_getD, List.getElem?_drop]

/-! ### The test of a DONE (R113) -/

section
variable {s : State} {frame : List Byte} {m : DoneMsg} {g : Grant}

theorem exec_done (running : s.inReset = false) (ok : sound .radio 0x31 frame = true) :
    exec (.done frame) s = .next (s.takeDone (doneOf frame)) := by
  show execDone frame s = _
  rw [execDone, if_neg]
  rintro (is | unsound)
  · rw [running] at is
    cases is
  · exact unsound ok

theorem State.takeDone_of_no_grant (none_ : 4 ≤ m.slot.toNat ∨ s.slot m.slot.toNat = none) :
    s.takeDone m = s.lateDone m := by
  have absent : (if m.slot.toNat < Config.slotCount then s.slot m.slot.toNat else none) = none := by
    rcases none_ with far | free
    · exact if_neg (not_lt.2 far)
    · rw [free, ite_self]
  rw [State.takeDone, absent]

section
variable (known : m.slot.toNat < 4) (open_ : s.slot m.slot.toNat = some g)
include known open_

theorem State.takeDone_of_grant : s.takeDone m =
    if g.serial ≠ m.serial then s.lateDone m
    else
      match g.stream with
      | .streaming => s.protocolError .earlyDone kindDone m.slot m.serial 0
      | .sent _ =>
        match (if m.outcomes.length = g.frames.length then outcomesOf m.outcomes else none) with
        | none => s.protocolError .badOutcomes kindDone m.slot m.serial 0
        | some outcomes => s.validDone m.slot.toNat g m outcomes := by
  have found : (if m.slot.toNat < Config.slotCount then s.slot m.slot.toNat else none) = some g :=
    (if_pos known).trans open_
  rw [State.takeDone, found] <;> rfl

theorem State.takeDone_late (other : g.serial ≠ m.serial) : s.takeDone m = s.lateDone m :=
  (State.takeDone_of_grant known open_).trans (if_pos other)

theorem State.takeDone_early (serial : g.serial = m.serial) (streaming : g.stream = .streaming) :
    s.takeDone m = s.protocolError .earlyDone kindDone m.slot m.serial 0 := by
  rw [State.takeDone_of_grant known open_, if_neg (not_not.2 serial), streaming]

theorem State.takeDone_bad (serial : g.serial = m.serial) {tm : Timer} (sent : g.stream = .sent tm)
    (bad : m.outcomes.length ≠ g.frames.length ∨ ∃ o ∈ m.outcomes, 4 ≤ o.toNat) :
    s.takeDone m = s.protocolError .badOutcomes kindDone m.slot m.serial 0 := by
  have unread : (if m.outcomes.length = g.frames.length then outcomesOf m.outcomes else none) = none := by
    rcases bad with count | code
    · exact if_neg count
    · rw [outcomesOf_eq_none.2 code, ite_self]
  rw [State.takeDone_of_grant known open_, if_neg (not_not.2 serial), sent, unread]

theorem State.takeDone_valid (serial : g.serial = m.serial) {tm : Timer} (sent : g.stream = .sent tm)
    (count : m.outcomes.length = g.frames.length) {outcomes : List FrameOutcome}
    (read : outcomesOf m.outcomes = some outcomes) : s.takeDone m = s.validDone m.slot.toNat g m outcomes := by
  rw [State.takeDone_of_grant known open_, if_neg (not_not.2 serial), sent, if_pos count, read]

end

end

/-- Settles O33: by the first case of R113 that applies. -/
theorem unmatchedDoneIsDiscarded : Obligations.UnmatchedDoneIsDiscarded := by
  intro frame s running ok body slot serial
  rw [exec_done running ok]
  refine ⟨fun late => ?_, fun g known open_ same streaming => ?_, fun g tm known open_ same sent bad => ?_⟩
  · have late' : s.takeDone (doneOf frame) = s.lateDone (doneOf frame) := by
      by_cases far : 4 ≤ slot.toNat
      · exact State.takeDone_of_no_grant (.inl far)
      · rcases late with far' | free | ⟨g, open_, other⟩
        · exact absurd far' far
        · exact State.takeDone_of_no_grant (.inr free)
        · exact State.takeDone_late (m := doneOf frame) (not_le.1 far) open_ other
    rw [late']
    rfl
  · rw [State.takeDone_early (m := doneOf frame) known open_ same streaming]
    rfl
  · rw [State.takeDone_bad (m := doneOf frame) known open_ same sent]
    · rfl
    · rcases bad with count | code
      · exact .inl (by rw [show (doneOf frame).outcomes = body.drop 8 from rfl, List.length_drop]; exact count)
      · exact .inr code

/-! ### The releases and the slot at the end of a grant (R117, R118, R136, R144) -/

/-- Releases count frames, never airtime (R72). -/
theorem Reason.downlinkAirtime_counts (reason : Reason) (length : Nat) (c : StationCounters) :
    (reason.counts length c).downlinkAirtime = c.downlinkAirtime := by
  cases reason <;> rfl

theorem State.downlinkAirtime_release (s : State) (i d : Nat) (reason : Reason) :
    ((s.release i d reason).station i).counters.downlinkAirtime = (s.station i).counters.downlinkAirtime := by
  have counted (u : State) (same : u.stations = s.stations) (reason : Reason) (length : Nat) :
      ((u.count i (reason.counts length)).station i).counters.downlinkAirtime
        = (s.station i).counters.downlinkAirtime := by
    rw [State.station_count_eq same]
    split
    · rfl
    · exact reason.downlinkAirtime_counts length _
  by_cases marked : (s.desc d).reason = some .chainFault
  · rw [State.release_marked marked]
    exact counted _ (by simp) _ _
  · cases walked : (s.bm.releaseWalk d).1 with
    | none =>
      rw [State.release_clean marked walked]
      exact counted _ (by simp) _ _
    | some f =>
      rw [State.release_faulty marked walked]
      exact counted _ (by simp) _ _

theorem State.downlinkAirtime_releases (i : Nat) : ∀ (l : List (Nat × Reason)) (s : State),
    ((s.releases i l).station i).counters.downlinkAirtime = (s.station i).counters.downlinkAirtime
  | [], _ => rfl
  | (d, reason) :: rest, s => by
    rw [State.releases, downlinkAirtime_releases i rest, s.downlinkAirtime_release i d reason]

theorem State.slots_closeSlot (w : State) (k i : Nat) :
    (w.closeSlot k i).sched.slots = Table.set none w.sched.slots k none := by
  simp [State.closeSlot]

/-- The scheduler after a slot is closed (R136, R144, R146). -/
theorem State.state_closeSlot (w : State) (k i : Nat) :
    let t := w.closeSlot k i
    (w.sched.state = .freezing → t.openSlots = 0 → t.sched.state = .frozen)
      ∧ (w.sched.state = .freezing → t.openSlots ≠ 0 → t.sched.state = .freezing)
      ∧ (w.sched.state = .halted → t.sched.state = .halted)
      ∧ (w.sched.state = .running → t.sched.state = .running) := by
  obtain ⟨u, is, state⟩ : ∃ u : State, w.closeSlot k i = u.slotFreed ∧ u.sched.state = w.sched.state :=
    ⟨_, rfl, by simp⟩
  have slots : u.slotFreed.openSlots = u.openSlots := State.openSlots_congr (by simp)
  obtain ⟨frozen, halted, running⟩ := u.state_slotFreed
  rw [is, ← state]
  exact ⟨fun h none_ => frozen h (slots ▸ none_), fun h some_ => State.state_slotFreed_open h (slots ▸ some_), halted,
    running⟩

/-- The frames of a grant released and its slot closed, from `v` on: what `s`, of which `v` has the scheduler and the packet
memory, keeps. -/
theorem State.closeSlot_releases {s v : State} {k i : Nat} (gone : List (Nat × Reason)) (canonical : v.Canonical)
    (sched : v.sched = s.sched) (mem : v.bm.mem = s.bm.mem) (ecc : v.bm.ecc = s.bm.ecc)
    (others : OtherStationsKeep s v i) (live : (v.station i).admin ≠ .free) :
    let t := (v.releases i gone).closeSlot k i
    (v.releases i gone).SlotCloses k i t ∧ t.slot k = none ∧ OtherSlotsKeep s t k ∧ OtherStationsKeep s t i
      ∧ (t.bm.mem = s.bm.mem ∧ t.bm.ecc = s.bm.ecc)
      ∧ (s.sched.state = .freezing → t.openSlots = 0 → t.sched.state = .frozen ∨ t.sched.state = .halted)
      ∧ (s.sched.state = .freezing → t.openSlots ≠ 0 → t.sched.state = .freezing ∨ t.sched.state = .halted)
      ∧ (s.sched.state = .running → t.sched.state = .running ∨ t.sched.state = .halted) := by
  intro t
  obtain ⟨_, _, _, _, stations, _, _, _, _, slots⟩ := canonical
  have slots_eq : t.sched.slots = Table.set none s.sched.slots k none := by
    rw [State.slots_closeSlot, State.releases_sched_slots, sched]
  rw [sched] at slots
  obtain ⟨frozen, freezing, halted, running⟩ := (v.releases i gone).state_closeSlot k i
  have state := State.state_releases i gone v
  rw [sched] at state
  refine ⟨?_, ?_, fun l ne => ?_, ?_, ⟨?_, ?_⟩, fun is none_ => ?_, fun is some_ => ?_, fun is => ?_⟩
  · refine State.closeSlot_closes _ k i ?_ (State.wf_releases i gone v stations) ?_
    · rw [State.releases_sched_slots, sched]
      exact slots
    · rw [State.station_releases]
      exact live
  · rw [State.slot, slots_eq, Table.get_set_same slots]
  · rw [State.slot, slots_eq, Table.get_set_ne _ _ _ _ _ ne]
    rfl
  · exact (others.releases gone).trans fun _ ne => State.station_closeSlot_ne _ k ne
  · rw [State.closeSlot_bm, State.releases_bm_mem, mem]
  · rw [State.closeSlot_bm, State.releases_bm_ecc, ecc]
  · exact state.imp (fun same => frozen (same.trans is) none_) halted
  · exact state.imp (fun same => freezing (same.trans is) some_) halted
  · exact state.imp (fun same => running (same.trans is)) halted

/-- Descriptors that are not released read as before the releases, and the closing of the slot touches none. -/
theorem State.desc_closeSlot_releases {v : State} {k i d : Nat} {gone : List (Nat × Reason)}
    (out : d ∉ gone.map Prod.fst) : ((v.releases i gone).closeSlot k i).desc d = v.desc d :=
  (State.desc_congr (by rw [State.closeSlot_bm]) d).trans (State.desc_releases_ne i gone v out)

/-- The record of a station that is not torn down when its slot is freed. -/
theorem State.SlotCloses.station_of_stays {s t : State} {k i : Nat} (h : s.SlotCloses k i t)
    (stays : ¬ s.TornDown i (s.station i)) :
    t.station i = { s.station i with slot := none, list := (t.station i).list } := by
  obtain ⟨u, is, _, _, _, _, _, kept⟩ := h
  have same : t.station i = u.station i := by
    refine State.station_congr ?_ i
    rw [is, State.offIfDrained]
    split_ifs <;> rfl
  rw [same]
  exact (kept stays).1

/-! ### A timeout (R112, R118) -/

/-- The mark of the Feeder, by the reason a descriptor in a slot carries (R110). -/
theorem Descriptor.mark_eq (x : Descriptor) : x.mark =
    if x.reason = some .chainFault then some .chainFault
    else if x.reason = some .memoryError then some .memoryError else none := by
  unfold Descriptor.mark
  split <;> simp_all

/-- The reasons of a timeout: the mark of the Feeder, or NO_COMPLETION (R118). -/
theorem State.timeoutReasons_eq (s : State) (frames : List GrantFrame) : s.timeoutReasons frames =
    (frames.map GrantFrame.desc).map fun d =>
      (d, if (s.desc d).reason = some .chainFault then Reason.chainFault
          else if (s.desc d).reason = some .memoryError then .memoryError else .noCompletion) := by
  rw [State.timeoutReasons, List.map_map]
  refine List.map_congr_left fun fr _ => congrArg (Prod.mk fr.desc) ?_
  rw [Descriptor.mark_eq]
  split_ifs <;> rfl

theorem exec_grantTimeout {s : State} {k : Nat} {g : Grant} (open_ : s.slot k = some g) {tm : Timer}
    (sent : g.stream = .sent tm) (due : tm.limit ≤ tm.elapsed) : exec (.grantTimeout k) s = .next (s.timeout k g) := by
  show execGrantTimeout k s = _
  simp only [execGrantTimeout, open_, sent, if_pos due]

/-- The record of the station of a grant that has timed out, its charge made (R89, R118). -/
def State.timedOut (s : State) (g : Grant) : State :=
  { s.setStation g.station
      { s.station g.station with deficit := chargedDeficit (s.station g.station).deficit g.estimate } with
    ctr := { s.ctr with grantTimeouts := s.ctr.grantTimeouts + 1 } }

theorem State.timeout_eq (s : State) (k : Nat) (g : Grant) : s.timeout k g =
    ((s.timedOut g).releases g.station (s.timeoutReasons g.frames)).closeSlot k g.station := rfl

/-- Settles O35: the charge, the releases in grant order, and the slot. -/
theorem grantTimeoutEndsGrant : Obligations.GrantTimeoutEndsGrant := by
  intro s k g tm canonical open_ sent due i r descs gone _ live slot list
  have record : (s.timedOut g).station i = { r with deficit := max (r.deficit - g.estimate) (-1048575) } :=
    s.station_setStation_same i (Station.ne_free live)
  have canonical' : (s.timedOut g).Canonical :=
    (((State.Keeps.refl s).setStation i _).trans {}).forms_and_capacities.1 canonical
  have others : OtherStationsKeep s (s.timedOut g) i := fun _ ne => s.station_setStation_ne _ ne
  have live' : ((s.timedOut g).station i).admin ≠ .free := by rw [record]; exact live
  have done := exec_grantTimeout open_ sent due
  rw [s.timeout_eq, s.timeoutReasons_eq] at done
  have gone_descs : gone.map Prod.fst = descs := by
    rw [List.map_map]
    exact List.map_id _
  obtain ⟨closes, free, slots, stations, ⟨mem, ecc⟩, scheduler⟩ :=
    State.closeSlot_releases (s := s) (k := k) gone canonical' rfl rfl rfl others live'
  refine ⟨s.timedOut g, _, done, rfl, canonical', others, record, closes, free, slots, stations, fun d out => ?_, ?_,
    fun stays => ?_, mem, ecc, scheduler⟩
  · exact State.desc_closeSlot_releases (by rw [gone_descs]; exact out)
  · rw [State.closeSlot_ctr, State.ctr_releases]
    rfl
  · have reads := State.station_releases i gone (s.timedOut g)
    rw [record] at reads
    have purge : ((s.timedOut g).releases i gone).onPurgeList i = s.onPurgeList i := by
      rw [State.onPurgeList, State.releases_purge]
      rfl
    have station := closes.station_of_stays fun ⟨purging, off, empty⟩ =>
      stays ⟨by rw [reads] at purging; exact purging, purge ▸ off, by rw [reads] at empty; exact empty⟩
    have airtime := State.downlinkAirtime_releases i gone (s.timedOut g)
    rw [record] at airtime
    exact (congrArg (fun q : Station => q.counters.downlinkAirtime) station).trans airtime

end Sys2Proof.Machine
end

section
/-! PROOFS. A valid DONE (06 §6.6): what becomes of each frame, the record of the station, and the fault claims taken
first. -/
set_option Elab.async false

namespace Sys2Proof.Machine

/-! ### What becomes of each frame (R114, R115) -/

/-- The model decides a frame's fate as R114 and R115 lay down. -/
theorem State.endReason_eq_fate (s : State) (r : Station) (d : Nat) (o : FrameOutcome) :
    s.endReason r d o = s.fate r d o.code := by
  have open_ : (s.sched.state.open = true) ↔
      (s.sched.state = .running ∨ s.sched.state = .freezing ∨ s.sched.state = .frozen) := by
    cases s.sched.state <;> simp [SchedState.open]
  unfold State.endReason State.fate
  rw [Descriptor.mark_eq]
  by_cases chain : (s.desc d).reason = some .chainFault
  · simp only [if_pos chain]
  by_cases memory : (s.desc d).reason = some .memoryError
  · simp only [if_neg chain, if_pos memory]
  simp only [if_neg chain, if_neg memory]
  cases o with
  | acked => rfl
  | notAcked => rfl
  | discarded => rfl
  | notSent =>
    rw [State.notSentReason]
    simp only [open_]
    rfl

/-- The frames of a grant with their fates, in grant order: `outcome` gives the outcome byte of each by its place. -/
def State.fates (s : State) (r : Station) (descs : List Nat) (outcome : Nat → Nat) : List (Nat × Option Reason) :=
  descs.mapIdx fun j d => (d, s.fate r d (outcome j))

/-- The endings of the model are the fates by the outcome bytes. -/
theorem State.endings_eq_fates (s : State) (r : Station) {frames : List GrantFrame} {body : List Byte}
    {outcomes : List FrameOutcome} (read : outcomesOf (body.drop 8) = some outcomes)
    (count : body.length - 8 = frames.length) :
    s.endings r frames outcomes =
      s.fates r (frames.map GrantFrame.desc) fun j => (byteAt body (8 + j)).toNat := by
  have codes := map_code_outcomesOf read
  have length : outcomes.length = frames.length := by
    rw [length_outcomesOf read, List.length_drop, count]
  refine List.ext_getElem (by simp [State.endings, State.fates, length]) fun j inEndings inFates => ?_
  have inFrames : j < frames.length := by simpa [State.fates] using inFates
  have code : (outcomes[j]'(length ▸ inFrames)).code = (byteAt body (8 + j)).toNat := by
    have at_j := congrArg (·[j]?) codes
    have inBody : 8 + j < body.length := by omega
    simpa [length, inFrames, inBody, byteAt] using at_j
  simp only [State.endings, State.fates, List.getElem_zipWith, List.getElem_mapIdx, List.getElem_map,
    State.endReason_eq_fate, code]

theorem State.map_fst_fates (s : State) (r : Station) (descs : List Nat) (outcome : Nat → Nat) :
    (s.fates r descs outcome).map Prod.fst = descs := by
  refine List.ext_getElem (by simp [State.fates]) fun j _ _ => by simp [State.fates]

theorem released_eq_filterMap : ∀ l : List (Nat × Option Reason),
    released l = l.filterMap fun p => p.2.map fun reason => (p.1, reason)
  | [] => rfl
  | (d, some reason) :: rest => congrArg ((d, reason) :: ·) (released_eq_filterMap rest)
  | (_, none) :: rest => released_eq_filterMap rest

/-! ### The record of the station (R115, R116) -/

theorem State.chainMarked_eq_false {s : State} {frames : List GrantFrame} :
    s.chainMarked frames = false ↔ ∀ d ∈ frames.map GrantFrame.desc, (s.desc d).reason ≠ some .chainFault := by
  simp [State.chainMarked]

theorem Station.rate_atDone (r : Station) (back : List Nat) (m : DoneMsg) (chainMark : Bool) :
    (r.atDone back m chainMark).rate.val =
      if r.rateLock = .follow ∧ m.rate.toNat < 64 then m.rate.toNat else r.rate.val := by
  unfold Station.atDone
  split_ifs <;> rfl

theorem Station.faultFlag_atDone (r : Station) (back : List Nat) (m : DoneMsg) (chainMark : Bool) :
    (r.atDone back m chainMark).faultFlag = if r.admin = .active ∧ chainMark = false then false else r.faultFlag := by
  cases chainMark <;> by_cases active : r.admin = .active <;> simp [Station.atDone, active]

/-- The record of the station of a grant at its valid DONE, with each figure as R115 and R116 give it. -/
theorem State.station_atDone (s : State) (r : Station) (back : List Nat) (m : DoneMsg) (frames : List GrantFrame) :
    let q := r.atDone back m (s.chainMarked frames)
    q = { r with
      queue := back ++ r.queue
      deficit := max (r.deficit - m.airtime) (-1048575)
      counters := { r.counters with downlinkAirtime := r.counters.downlinkAirtime + BitVec.ofNat 48 m.airtime }
      rate := q.rate
      faultFlag :=
        if r.admin = .active ∧ (∀ d ∈ frames.map GrantFrame.desc, (s.desc d).reason ≠ some .chainFault) then false
        else r.faultFlag } := by
  intro q
  have flag : q.faultFlag = if r.admin = .active
      ∧ (∀ d ∈ frames.map GrantFrame.desc, (s.desc d).reason ≠ some .chainFault) then false else r.faultFlag :=
    (r.faultFlag_atDone back m (s.chainMarked frames)).trans
      (if_congr (and_congr_right' State.chainMarked_eq_false) rfl rfl)
  rw [← flag]
  rfl

/-! ### The claims of the grant's own stream (R170, log 14) -/

/-- The first entry of a list that passes a test is the head of those that do. -/
theorem filter_eq_cons_eraseIdx {α : Type} {p : α → Bool} {a : α} (passes : p a = true) : ∀ {l : List α} {n : Nat},
    l[n]? = some a → (∀ m b, m < n → l[m]? = some b → p b = false) → l.filter p = a :: (l.eraseIdx n).filter p
  | [], n, found, _ => by simp at found
  | b :: rest, 0, found, _ => by
    obtain rfl : b = a := by simpa using found
    simp [passes]
  | b :: rest, n + 1, found, first => by
    have fails : p b = false := first 0 b (Nat.succ_pos n) rfl
    have ih := filter_eq_cons_eraseIdx passes (l := rest) (n := n) (by simpa using found) fun m c below at_m =>
      first (m + 1) c (Nat.succ_lt_succ below) (by simpa using at_m)
    simp [fails, ih]

/-- An entry that fails a test may be taken out before those that pass it are picked. -/
theorem filter_eraseIdx_of_fails {α : Type} {p : α → Bool} {a : α} (fails : p a = false) : ∀ {l : List α} {n : Nat},
    l[n]? = some a → (l.eraseIdx n).filter p = l.filter p
  | [], n, found => by simp at found
  | b :: rest, 0, found => by
    obtain rfl : b = a := by simpa using found
    simp [fails]
  | b :: rest, n + 1, found => by
    have ih := filter_eraseIdx_of_fails fails (l := rest) (n := n) (by simpa using found)
    simp [List.filter_cons, ih]

/-- A claim of a FEED fault of station `i`. -/
def FaultClaim.ofStream (i : Nat) (c : FaultClaim) : Bool := c.station == i && c.phase == .feed

theorem State.settleFeedClaims_eq (s : State) (i : Nat) : s.settleFeedClaims i =
    (s.faultClaims.filter (FaultClaim.ofStream i)).foldl State.takeClaim
      (s.withClaims (s.faultClaims.filter fun c => !FaultClaim.ofStream i c)) := rfl

theorem State.settleFeedClaims_of_none {s : State} {i : Nat}
    (none_ : ∀ c ∈ s.faultClaims, c.station = i → c.phase ≠ .feed) : s.settleFeedClaims i = s := by
  have others : ∀ c ∈ s.faultClaims, FaultClaim.ofStream i c = false := fun c mem => by
    simpa [FaultClaim.ofStream] using none_ c mem
  have mine : s.faultClaims.filter (FaultClaim.ofStream i) = [] :=
    List.filter_eq_nil_iff.2 fun c mem => by simp [others c mem]
  have rest : (s.faultClaims.filter fun c => !FaultClaim.ofStream i c) = s.faultClaims :=
    List.filter_eq_self.2 fun c mem => by simp [others c mem]
  rw [State.settleFeedClaims_eq, mine, rest]
  rfl

/-- The first of the claims of a stream may be taken before the others are settled. -/
theorem State.settleFeedClaims_takeClaim {s : State} {i n : Nat} {c : FaultClaim} (found : s.faultClaims[n]? = some c)
    (own : FaultClaim.ofStream i c = true)
    (first : ∀ m e, m < n → s.faultClaims[m]? = some e → FaultClaim.ofStream i e = false) :
    ((s.withClaims (s.faultClaims.eraseIdx n)).takeClaim c).settleFeedClaims i = s.settleFeedClaims i := by
  have claims : ((s.withClaims (s.faultClaims.eraseIdx n)).takeClaim c).faultClaims = s.faultClaims.eraseIdx n :=
    State.takeClaim_faultClaims _ c
  have rest := filter_eraseIdx_of_fails (p := fun c => !FaultClaim.ofStream i c) (by simp [own]) found
  rw [State.settleFeedClaims_eq, State.settleFeedClaims_eq, claims, rest, filter_eq_cons_eraseIdx own found first,
    List.foldl_cons, State.takeClaim_withClaims, State.takeClaim_withClaims]
  rfl

theorem exec_faultClaim {s : State} {n : Nat} {c : FaultClaim} (found : s.faultClaims[n]? = some c) :
    exec (.faultClaim n) s = .next ((s.withClaims (s.faultClaims.eraseIdx n)).takeClaim c) := by
  show execFaultClaim n s = _
  simp only [execFaultClaim, found]
  rfl

/-! ### A valid DONE (R114 to R117) -/

/-- The state in which the frames of a valid DONE are released: those requeued are QUEUED, and the record is written. -/
def State.settled (s : State) (i : Nat) (r : Station) (back : List Nat) : State :=
  (s.setPlaces .queued back).setStation i r

theorem State.validDone_eq {s : State} {k : Nat} {g : Grant} (m : DoneMsg) (outcomes : List FrameOutcome)
    (none_ : ∀ c ∈ s.faultClaims, c.station = g.station → c.phase ≠ .feed) :
    let endings := s.endings (s.station g.station) g.frames outcomes
    s.validDone k g m outcomes =
      ((s.settled g.station ((s.station g.station).atDone (requeued endings) m (s.chainMarked g.frames))
        (requeued endings)).releases g.station (released endings)).closeSlot k g.station := by
  rw [State.validDone, State.settleFeedClaims_of_none none_]
  simp only [State.queueAgain_eq_setPlaces]
  rfl

section
variable (s : State) (i : Nat) {r : Station} {back : List Nat}

theorem State.agreesButTables_settled : s.AgreesButTables (s.settled i r back) :=
  have written : (s.setPlaces .queued back).AgreesButTables (s.settled i r back) := rfl
  (s.agreesButTables_setPlaces .queued back).trans written

theorem State.Keeps.settled : s.Keeps (s.settled i r back) := (State.Keeps.setPlaces .queued back (.refl s)).setStation i r

theorem State.otherStationsKeep_settled : OtherStationsKeep s (s.settled i r back) i := fun j ne =>
  (State.station_setStation_ne _ _ ne).trans (s.station_setPlaces .queued back j)

theorem State.otherDescsKeep_settled : OtherDescsKeep s (s.settled i r back) back := fun _ out =>
  State.desc_setPlaces_ne .queued s out

theorem State.desc_settled {d : Nat} (mem : d ∈ back) :
    (s.settled i r back).desc d = { s.desc d with place := .queued } := State.desc_setPlaces (by nofun) s mem

end

section
variable {frame : List Byte} {s : State} {g : Grant} {tm : Timer}

theorem outcomesOf_isSome {body : List Byte} {n : Nat} (count : body.length - 8 = n)
    (codes : ∀ j, j < n → (byteAt body (8 + j)).toNat ≤ 3) : ∃ outcomes, outcomesOf (body.drop 8) = some outcomes := by
  refine Option.ne_none_iff_exists'.1 fun none_ => ?_
  obtain ⟨b, mem, high⟩ := outcomesOf_eq_none.1 none_
  obtain ⟨j, inBytes, rfl⟩ := List.mem_iff_getElem.1 mem
  rw [List.length_drop] at inBytes
  have low := codes j (by omega)
  have inBody : 8 + j < body.length := by omega
  simp only [byteAt, List.getD_eq_getElem _ _ inBody] at low
  rw [List.getElem_drop] at high
  omega

theorem exec_done_valid (running : s.inReset = false) (ok : sound .radio 0x31 frame = true)
    (known : (byteAt (frameBody frame) 0).toNat < 4) (open_ : s.slot (byteAt (frameBody frame) 0).toNat = some g)
    (serial : g.serial = byteAt (frameBody frame) 1) (sent : g.stream = .sent tm)
    (count : (frameBody frame).length - 8 = g.frames.length) {outcomes : List FrameOutcome}
    (read : outcomesOf ((frameBody frame).drop 8) = some outcomes) :
    exec (.done frame) s =
      .next (s.validDone (byteAt (frameBody frame) 0).toNat g (doneOf frame) outcomes) := by
  rw [exec_done running ok, State.takeDone_valid (m := doneOf frame) known open_ serial sent
    ((List.length_drop ..).trans count) read]
  rfl

end

/-- What a valid DONE requeues and what it releases are together the frames of the grant, each once. -/
theorem requeued_released_apart {l : List (Nat × Option Reason)} (once : (l.map Prod.fst).Nodup) {d : Nat}
    (back : d ∈ requeued l) : d ∉ (released l).map Prod.fst :=
  List.disjoint_of_nodup_append ((perm_requeued_released l).nodup_iff.1 once) back

theorem mem_of_requeued_or_released {l : List (Nat × Option Reason)} {d : Nat}
    (mem : d ∈ requeued l ∨ d ∈ (released l).map Prod.fst) : d ∈ l.map Prod.fst :=
  (perm_requeued_released l).mem_iff.2 (List.mem_append.2 mem)

/-- Settles O34: the fates, the record, the releases and the slot; and the claims of the grant's stream, one by one. -/
theorem validDoneEndsGrant : Obligations.ValidDoneEndsGrant := by
  intro frame s g tm canonical running ok body k i r airtime rate outcome descs fates back gone known open_ serial sent
    count codes once live slot
  obtain ⟨outcomes, read⟩ := outcomesOf_isSome count codes
  have valid := exec_done_valid running ok known open_ serial sent count read
  constructor
  · intro list none_
    have gone_eq : released fates = gone := released_eq_filterMap fates
    have fates_descs : fates.map Prod.fst = descs := s.map_fst_fates r descs outcome
    have once' : (fates.map Prod.fst).Nodup := fates_descs ▸ once
    have written := s.station_atDone r back (doneOf frame) g.frames
    have rate' := r.rate_atDone back (doneOf frame) (s.chainMarked g.frames)
    have done : exec (.done frame) s = .next
        (((s.settled i (r.atDone back (doneOf frame) (s.chainMarked g.frames)) back).releases i gone).closeSlot k i) := by
      rw [valid, State.validDone_eq _ _ none_, s.endings_eq_fates r read count, ← gone_eq]
      rfl
    generalize r.atDone back (doneOf frame) (s.chainMarked g.frames) = q at written rate' done
    have live' : q.admin ≠ .free := by rw [written]; exact live
    have agrees := s.agreesButTables_settled i (r := q) (back := back)
    have record : (s.settled i q back).station i = q := State.station_setStation_same _ i (Station.ne_free live')
    have canonical' := (State.Keeps.settled s i (r := q) (back := back)).forms_and_capacities.1 canonical
    have others := s.otherStationsKeep_settled i (r := q) (back := back)
    obtain ⟨closes, free, slots, stations, ⟨mem, ecc⟩, scheduler⟩ :=
      State.closeSlot_releases (s := s) (k := k) gone canonical' (by rw [agrees]) (by rw [agrees]) (by rw [agrees]) others
        (by rw [record]; exact live')
    refine ⟨_, _, done, agrees, canonical', s.otherDescsKeep_settled i, fun d mem => s.desc_settled i mem, others,
      by rw [record]; exact rate', by rw [record]; exact written, closes, free, slots, stations, fun d out => ?_,
      fun d mem => ?_, mem, ecc, scheduler⟩
    · have unlisted := fun mem => out (fates_descs ▸ mem_of_requeued_or_released (d := d) mem)
      rw [State.desc_closeSlot_releases fun mem => unlisted (.inr (gone_eq ▸ mem))]
      exact s.otherDescsKeep_settled i d fun mem => unlisted (.inl mem)
    · rw [State.desc_closeSlot_releases (gone_eq ▸ requeued_released_apart once' mem)]
      exact s.desc_settled i mem
  · intro n c s' found station feed first taken
    rw [exec_faultClaim found] at taken
    cases taken
    have settled := State.settleFeedClaims_takeClaim (i := i) found (by simp [FaultClaim.ofStream, station, feed])
      fun m e below at_m => by simpa [FaultClaim.ofStream] using first m e below at_m
    have running' : ((s.withClaims (s.faultClaims.eraseIdx n)).takeClaim c).inReset = false :=
      (State.takeClaim_inReset _ c).trans running
    have open_' : ((s.withClaims (s.faultClaims.eraseIdx n)).takeClaim c).slot k = some g :=
      (State.slot_congr (State.takeClaim_sched_slots _ c) k).trans open_
    rw [valid, exec_done_valid running' ok known open_' serial sent count read, State.validDone, State.validDone, settled]

end Sys2Proof.Machine
end

section
/-! PROOFS. UP messages (07): the charge of the station and the storing or the loss of the frame (O25, O26). -/
set_option Elab.async false

namespace Sys2Proof.Machine

/-! ### The message read from a sound frame (12.5) -/

section
variable (frame : List Byte)

theorem toNat_station_upMessageOf : (upMessageOf frame).station.toNat = fieldAt (frameBody frame) 0 2 :=
  Nat.mod_eq_of_lt (fieldAt_lt _ 0 2)

theorem toNat_airtime_upMessageOf : (upMessageOf frame).airtime.toNat = fieldAt (frameBody frame) 2 2 :=
  Nat.mod_eq_of_lt (fieldAt_lt _ 2 2)

theorem length_bytes_upMessageOf : (upMessageOf frame).bytes.length = (frameBody frame).length - 8 := List.length_drop

end

theorem exec_upMessage {frame : List Byte} {s : State} (running : s.inReset = false)
    (ok : sound .radio 0x32 frame = true) : exec (.upMessage frame) s = .next (s.takeUp (upMessageOf frame)) := by
  show execUpMessage frame s = _
  rw [execUpMessage, if_neg (not_ignored (kind := kindUp) running ok)]

/-! ### The charge of a record (R90, R96, R128) -/

theorem State.uplinkKnown_iff (s : State) (i : Nat) :
    s.uplinkKnown i = true ↔ i < 512 ∧ ((s.station i).admin = .active ∨ (s.station i).admin = .faulted) := by
  simp [State.uplinkKnown]

theorem State.admin_ne_free_of_uplinkKnown {s : State} {i : Nat} (known : s.uplinkKnown i = true) :
    (s.station i).admin ≠ .free := by
  obtain ⟨-, active | faulted⟩ := (s.uplinkKnown_iff i).1 known
  · simp [active]
  · simp [faulted]

/-- A record after the charge of an uplink airtime: an Entry List member brought to 0 or below is in the Round List. -/
def Station.uplinkCharged (r : Station) (airtime : Nat) : Station :=
  let deficit := chargedDeficit r.deficit (uplinkCharge airtime r.share)
  { r with
    deficit := deficit
    counters := { r.counters with uplinkAirtime := addTo r.counters.uplinkAirtime airtime }
    list := if r.list = .entry ∧ deficit ≤ 0 then .round else r.list }

/-- The lists after an Entry List member has moved to the Round List tail (R96). -/
def Scheduler.toRoundTail (q : Scheduler) (i : Nat) : Scheduler :=
  { q with entryList := q.entryList.filter (· ≠ i), roundList := q.roundList ++ [i] }

/-- A charge writes the record, and moves the station between the lists if the record says so. -/
theorem State.chargeUplink_eq (s : State) (i airtime : Nat) : s.chargeUplink i airtime =
    { s.setStation i ((s.station i).uplinkCharged airtime) with
      sched :=
        if (s.station i).list = .entry
            ∧ chargedDeficit (s.station i).deficit (uplinkCharge airtime (s.station i).share) ≤ 0 then
          s.sched.toRoundTail i
        else s.sched } := by
  unfold State.chargeUplink Station.uplinkCharged
  simp only
  split_ifs <;> rfl

/-! ### The sorting (R127, R129) -/

section
variable {s : State} {m : UpMessage}

theorem State.sortUplink_known (known : s.uplinkKnown m.station.toNat = true) :
    s.sortUplink m = s.chargeUplink m.station.toNat m.airtime.toNat := if_pos known

theorem State.sortUplink_unknown (unknown : ¬ s.uplinkKnown m.station.toNat = true) :
    s.sortUplink m = { s with ctr := { s.ctr with unknownUplink := addTo s.ctr.unknownUplink 1 } } := if_neg unknown

/-- The sorting changes records, the two lists and the count of unknown stations alone. -/
theorem State.sortUplink_eq (s : State) (m : UpMessage) : s.sortUplink m =
    { s with
      stations := (s.sortUplink m).stations
      sched := { s.sched with
        entryList := (s.sortUplink m).sched.entryList, roundList := (s.sortUplink m).sched.roundList }
      ctr := { s.ctr with unknownUplink := (s.sortUplink m).ctr.unknownUplink } } := by
  by_cases known : s.uplinkKnown m.station.toNat = true
  · rw [State.sortUplink_known known, State.chargeUplink_eq]
    split_ifs <;> rfl
  · rw [State.sortUplink_unknown known]

@[simp] theorem State.sortUplink_timeBase (s : State) (m : UpMessage) : (s.sortUplink m).timeBase = s.timeBase := by
  rw [State.sortUplink_eq]

@[simp] theorem State.sortUplink_uplink (s : State) (m : UpMessage) : (s.sortUplink m).uplink = s.uplink := by
  rw [State.sortUplink_eq]

@[simp] theorem State.sortUplink_events (s : State) (m : UpMessage) : (s.sortUplink m).events = s.events := by
  rw [State.sortUplink_eq]

theorem State.sortUplink_ctr (s : State) (m : UpMessage) : (s.sortUplink m).ctr =
    { s.ctr with
      unknownUplink :=
        if m.station.toNat < 512
            ∧ ((s.station m.station.toNat).admin = .active ∨ (s.station m.station.toNat).admin = .faulted) then
          s.ctr.unknownUplink
        else s.ctr.unknownUplink + 1 } := by
  simp only [← State.uplinkKnown_iff]
  split_ifs with known
  · rw [State.sortUplink_known known, State.chargeUplink_eq]
    rfl
  · rw [State.sortUplink_unknown known]
    rfl

theorem State.otherStationsKeep_sortUplink (s : State) (m : UpMessage) :
    OtherStationsKeep s (s.sortUplink m) m.station.toNat := by
  intro j other
  by_cases known : s.uplinkKnown m.station.toNat = true
  · rw [State.sortUplink_known known, State.chargeUplink_eq]
    exact s.station_setStation_ne _ other
  · rw [State.sortUplink_unknown known]
    rfl

theorem State.station_sortUplink (known : s.uplinkKnown m.station.toNat = true) :
    (s.sortUplink m).station m.station.toNat = (s.station m.station.toNat).uplinkCharged m.airtime.toNat := by
  have live : ((s.station m.station.toNat).uplinkCharged m.airtime.toNat).admin ≠ .free :=
    State.admin_ne_free_of_uplinkKnown known
  rw [State.sortUplink_known known, State.chargeUplink_eq]
  exact s.station_setStation_same _ (Station.ne_free live)

end

/-! ### A frame for which no space was set aside (R130) -/

/-- A record after a lost frame has been counted. -/
def Station.frameDiscarded (r : Station) : Station :=
  { r with counters := { r.counters with uplinkDiscarded := addTo r.counters.uplinkDiscarded 1 } }

section
variable {s : State} {m : UpMessage}

theorem State.loseUplink_tooLong (long : 4096 < m.bytes.length) (known : Bool) :
    s.loseUplink m known = s.protocolError .upTooLong kindUp 0 0 m.station := by
  rw [State.loseUplink, if_neg (by omega), if_pos long]

/-- A frame of 1 to 4,096 bytes that is lost is counted for a station that is charged. -/
theorem State.loseUplink_counted (some_ : 1 ≤ m.bytes.length) (most : m.bytes.length ≤ 4096) :
    s.loseUplink m true =
      s.count m.station.toNat fun c => { c with uplinkDiscarded := addTo c.uplinkDiscarded 1 } := by
  rw [State.loseUplink, if_neg (by omega), if_neg (not_lt.2 most), if_pos rfl]

theorem State.loseUplink_of_no_frame (none_ : m.bytes.length = 0) (known : Bool) : s.loseUplink m known = s :=
  if_pos none_

theorem State.loseUplink_unknown (most : m.bytes.length ≤ 4096) : s.loseUplink m false = s := by
  rw [State.loseUplink, if_neg (not_lt.2 most), if_neg Bool.false_ne_true, ite_self]

/-- A count writes the Station Table alone. -/
theorem State.count_eq (s : State) (i : Nat) (f : StationCounters → StationCounters) :
    s.count i f = { s with stations := (s.count i f).stations } := by
  apply State.ext_fields <;> simp

/-- A frame that is not over-length is lost with no more than a count in a record. -/
theorem State.loseUplink_of_most (most : m.bytes.length ≤ 4096) (known : Bool) :
    s.loseUplink m known = { s with stations := (s.loseUplink m known).stations } := by
  cases known with
  | false => rw [State.loseUplink_unknown most]
  | true =>
    rcases Nat.eq_zero_or_pos m.bytes.length with none_ | some_
    · rw [State.loseUplink_of_no_frame none_]
    · rw [State.loseUplink_counted some_ most]
      exact s.count_eq _ _

/-- What the loss of a frame can change. -/
theorem State.loseUplink_eq (s : State) (m : UpMessage) (known : Bool) : s.loseUplink m known =
    { s with
      stations := (s.loseUplink m known).stations
      ctr := { s.ctr with protocolErrors := (s.loseUplink m known).ctr.protocolErrors }
      events := (s.loseUplink m known).events } := by
  rcases Nat.lt_or_ge 4096 m.bytes.length with long | most
  · rw [State.loseUplink_tooLong long]
    rfl
  · rw [State.loseUplink_of_most most]

theorem State.otherStationsKeep_loseUplink (s : State) (m : UpMessage) (known : Bool) :
    OtherStationsKeep s (s.loseUplink m known) m.station.toNat := by
  intro j other
  unfold State.loseUplink
  split_ifs
  · rfl
  · rfl
  · exact s.station_count_ne _ other
  · rfl

theorem State.station_loseUplink_known (live : (s.station m.station.toNat).admin ≠ .free) :
    (s.loseUplink m true).station m.station.toNat =
      if 1 ≤ m.bytes.length ∧ m.bytes.length ≤ 4096 then (s.station m.station.toNat).frameDiscarded
      else s.station m.station.toNat := by
  split_ifs with counted
  · rw [State.loseUplink_counted counted.1 counted.2]
    exact s.station_count_same _ _ live
  · rcases Nat.lt_or_ge 4096 m.bytes.length with long | most
    · rw [State.loseUplink_tooLong long]
      rfl
    · rw [State.loseUplink_of_no_frame (by omega)]

theorem State.station_loseUplink_unknown (s : State) (m : UpMessage) (i : Nat) :
    (s.loseUplink m false).station i = s.station i := by
  rcases Nat.lt_or_ge 4096 m.bytes.length with long | most
  · rw [State.loseUplink_tooLong long]
    rfl
  · rw [State.loseUplink_unknown most]

end

/-! ### The message taken (R127) -/

section
variable {s : State} {m : UpMessage}

theorem State.takeUp_unclaimed (unclaimed : s.uplink.claim = none) :
    s.takeUp m = (s.sortUplink m).loseUplink m (s.uplinkKnown m.station.toNat) := by
  rw [State.takeUp, unclaimed]

theorem State.takeUp_claimed (claimed : s.uplink.claim = some (16 + m.bytes.length)) : s.takeUp m =
    { s.sortUplink m with
      uplink :=
        { claim := none
          entries := s.uplink.entries ++
            [{ station := m.station, airtime := m.airtime, rate := m.rate, charge := s.chargeOf m, stamp := s.timeBase,
               bytes := m.bytes }] } } := by
  rw [State.takeUp, claimed]
  exact if_pos rfl

/-- The charge the entry records (R131). -/
theorem State.chargeOf_eq (s : State) (m : UpMessage) : s.chargeOf m =
    if m.station.toNat < 512
        ∧ ((s.station m.station.toNat).admin = .active ∨ (s.station m.station.toNat).admin = .faulted) then
      m.airtime.toNat * (s.station m.station.toNat).share.percent / 100
    else 0 := if_congr (s.uplinkKnown_iff _) rfl rfl

/-- A message that is taken changes nothing but what is sorted, stored, counted and reported. -/
theorem State.takeUp_eq (fits : s.uplink.claim = none ∨ s.uplink.claim = some (16 + m.bytes.length)) : s.takeUp m =
    { s with
      stations := (s.takeUp m).stations
      sched := { s.sched with
        entryList := (s.takeUp m).sched.entryList, roundList := (s.takeUp m).sched.roundList }
      uplink := (s.takeUp m).uplink
      ctr := { s.ctr with
        unknownUplink := (s.takeUp m).ctr.unknownUplink, protocolErrors := (s.takeUp m).ctr.protocolErrors }
      events := (s.takeUp m).events } := by
  rcases fits with unclaimed | claimed
  · rw [State.takeUp_unclaimed unclaimed, State.loseUplink_eq, State.sortUplink_eq]
  · rw [State.takeUp_claimed claimed, State.sortUplink_eq]

theorem State.otherStationsKeep_takeUp
    (fits : s.uplink.claim = none ∨ s.uplink.claim = some (16 + m.bytes.length)) :
    OtherStationsKeep s (s.takeUp m) m.station.toNat := by
  intro j other
  have sorted := s.otherStationsKeep_sortUplink m j other
  rcases fits with unclaimed | claimed
  · rw [State.takeUp_unclaimed unclaimed, State.otherStationsKeep_loseUplink _ m _ j other, sorted]
  · rw [State.takeUp_claimed claimed]
    exact sorted

/-- Storing or losing the frame leaves the scheduler and the count of unknown stations as the sorting left them. -/
theorem State.takeUp_sorted (fits : s.uplink.claim = none ∨ s.uplink.claim = some (16 + m.bytes.length)) :
    (s.takeUp m).sched = (s.sortUplink m).sched
      ∧ (s.takeUp m).ctr.unknownUplink = (s.sortUplink m).ctr.unknownUplink := by
  rcases fits with unclaimed | claimed
  · rw [State.takeUp_unclaimed unclaimed, State.loseUplink_eq]
    exact ⟨rfl, rfl⟩
  · rw [State.takeUp_claimed claimed]
    exact ⟨rfl, rfl⟩

theorem State.station_takeUp_unknown (fits : s.uplink.claim = none ∨ s.uplink.claim = some (16 + m.bytes.length))
    (unknown : ¬ s.uplinkKnown m.station.toNat = true) (i : Nat) : (s.takeUp m).station i = s.station i := by
  rcases fits with unclaimed | claimed
  · rw [State.takeUp_unclaimed unclaimed, Bool.eq_false_iff.2 unknown, State.station_loseUplink_unknown,
      State.sortUplink_unknown unknown]
    rfl
  · rw [State.takeUp_claimed claimed, State.sortUplink_unknown unknown]
    rfl

/-- The record of a station that is charged: as sorted, and with the frame counted if it is lost. -/
theorem State.station_takeUp_known (fits : s.uplink.claim = none ∨ s.uplink.claim = some (16 + m.bytes.length))
    (known : s.uplinkKnown m.station.toNat = true) :
    let q := (s.station m.station.toNat).uplinkCharged m.airtime.toNat
    (s.takeUp m).station m.station.toNat =
      if s.uplink.claim = none ∧ 1 ≤ m.bytes.length ∧ m.bytes.length ≤ 4096 then q.frameDiscarded else q := by
  intro q
  have sorted : (s.sortUplink m).station m.station.toNat = q := State.station_sortUplink known
  rcases fits with unclaimed | claimed
  · have live : ((s.sortUplink m).station m.station.toNat).admin ≠ .free := by
      rw [sorted]
      exact State.admin_ne_free_of_uplinkKnown known
    rw [State.takeUp_unclaimed unclaimed, known, State.station_loseUplink_known live, sorted]
    simp only [unclaimed, true_and]
  · rw [State.takeUp_claimed claimed, if_neg (by simp [claimed])]
    exact sorted

theorem State.sched_takeUp_known (fits : s.uplink.claim = none ∨ s.uplink.claim = some (16 + m.bytes.length))
    (known : s.uplinkKnown m.station.toNat = true) :
    let r := s.station m.station.toNat
    (s.takeUp m).sched =
      if r.list = .entry ∧ chargedDeficit r.deficit (uplinkCharge m.airtime.toNat r.share) ≤ 0 then
        s.sched.toRoundTail m.station.toNat
      else s.sched := by
  obtain ⟨sched, -⟩ := State.takeUp_sorted fits
  rw [sched, State.sortUplink_known known, State.chargeUplink_eq]

end

/-! ### The two statements -/

/-- Settles O25: the charge of the sorting, read off after the frame has been stored or lost. -/
theorem upMessageChargesStation : Obligations.UpMessageChargesStation := by
  intro frame s running ok body i airtime r charge known fits
  have taken := exec_upMessage running ok
  have station : (upMessageOf frame).station.toNat = i := toNat_station_upMessageOf frame
  have time : (upMessageOf frame).airtime.toNat = airtime := toNat_airtime_upMessageOf frame
  have length : (upMessageOf frame).bytes.length = body.length - 8 := length_bytes_upMessageOf frame
  generalize upMessageOf frame = m at taken station time length
  clear_value i airtime
  subst station time
  rw [← length] at fits
  have known_iff : s.uplinkKnown m.station.toNat = true ↔ known := s.uplinkKnown_iff _
  obtain ⟨sched, unknownCount⟩ := State.takeUp_sorted fits
  rw [State.sortUplink_ctr] at unknownCount
  refine ⟨s.takeUp m, taken, State.takeUp_eq fits, State.otherStationsKeep_takeUp fits, fun is => ?_, fun isNot => ?_⟩
  · have lost : (1 ≤ m.bytes.length ∧ m.bytes.length ≤ 4096) ↔ (9 ≤ body.length ∧ body.length ≤ 4104) := by omega
    have record := State.station_takeUp_known fits (known_iff.2 is)
    simp only [lost] at record
    have deficit : ((s.takeUp m).station m.station.toNat).deficit = max (r.deficit - charge) (-1048575) := by
      rw [record]
      split_ifs <;> rfl
    have list : ((s.takeUp m).station m.station.toNat).list = (r.uplinkCharged m.airtime.toNat).list := by
      rw [record]
      split_ifs <;> rfl
    have counted : ((s.takeUp m).station m.station.toNat).counters.uplinkAirtime =
        r.counters.uplinkAirtime + BitVec.ofNat 48 m.airtime.toNat := by
      rw [record]
      split_ifs <;> rfl
    refine ⟨deficit, counted, unknownCount.trans (if_pos is), ?_, ?_⟩
    · rw [record]
      split_ifs <;> rfl
    · rw [deficit, list, State.sched_takeUp_known fits (known_iff.2 is)]
      by_cases sinks : r.list = .entry ∧ max (r.deficit - charge) (-1048575) ≤ 0
      · rw [if_pos sinks]
        exact ⟨if_pos sinks, congrArg Scheduler.entryList (if_pos sinks), congrArg Scheduler.roundList (if_pos sinks)⟩
      · rw [if_neg sinks]
        exact ⟨if_neg sinks, if_neg sinks⟩
  · have unknown := fun h => isNot (known_iff.1 h)
    refine ⟨State.station_takeUp_unknown fits unknown _, ?_, unknownCount.trans (if_neg isNot)⟩
    rw [sched, State.sortUplink_unknown unknown]

/-- Settles O26: the frame is stored, lost, or lost and reported. -/
theorem upMessageStoresOrLosesFrame : Obligations.UpMessageStoresOrLosesFrame := by
  intro frame s running ok body i known
  have taken := exec_upMessage running ok
  have station : (upMessageOf frame).station.toNat = i := toNat_station_upMessageOf frame
  have length : (upMessageOf frame).bytes.length = body.length - 8 := length_bytes_upMessageOf frame
  have ctr := s.sortUplink_ctr (upMessageOf frame)
  rw [station] at ctr
  have uplink := s.sortUplink_uplink (upMessageOf frame)
  have events := s.sortUplink_events (upMessageOf frame)
  refine ⟨fun claimed => ⟨_, taken, ?_⟩, fun unclaimed most => ⟨_, taken, ?_⟩, fun unclaimed long => ⟨_, taken, ?_⟩⟩
  · have charge := s.chargeOf_eq (upMessageOf frame)
    rw [station, toNat_airtime_upMessageOf] at charge
    rw [State.takeUp_claimed (length ▸ claimed), charge]
    exact ⟨events, ctr, rfl⟩
  · rw [State.takeUp_unclaimed unclaimed, State.loseUplink_of_most (by omega)]
    exact ⟨uplink, events, ctr⟩
  · rw [State.takeUp_unclaimed unclaimed, State.loseUplink_tooLong (by omega), State.protocolError_ctr,
      State.protocolError_events, State.sortUplink_timeBase, events, ctr]
    exact ⟨uplink, rfl, rfl⟩

end Sys2Proof.Machine
end

section
/-! PROOFS. What every step keeps of the scheduler state with its causes, slots and link, of the sweep timer, of the
Feeder and of the retire limit (R99, R101, R111, R133, R142, R145, R151, O58). -/
set_option Elab.async false

namespace Sys2Proof.Machine

/-! ### The four laws (O58)

`State.Governed s` says that the four laws hold of `s`. An operation that leaves alone what they read keeps them
(`State.SameRule`). All others go through the few operations that move the scheduler state, hand over pools, or open,
end or free a slot; each of these has a lemma, and a command keeps the laws by the lemmas of the operations it is made
of. -/

/-- What the sweep timer law and the retire limit read is as before; during a reset no request arrives. -/
structure State.SameClock (s t : State) : Prop where
  state : t.sched.state = s.sched.state := by simp
  timer : t.sweep.timer.isSome = s.sweep.timer.isSome := by simp
  owners : t.bm.owners = s.bm.owners := by simp
  limit : t.rp.options.retireLimit = s.rp.options.retireLimit := by simp
  reset : t.inReset = s.inReset := by simp
  requests : s.inReset = true → s.rp.queue = [] → t.rp.queue = [] := by simp

/-- And so is what the relations of R133 and the Feeder law read: of the Feeder, the slot it streams. -/
structure State.SameRule (s t : State) : Prop extends s.SameClock t where
  causes : t.sched.causes = s.sched.causes := by simp
  slots : t.sched.slots = s.sched.slots := by simp
  up : t.radio.up = s.radio.up := by simp
  feeder : t.feeder.map Feed.slot = s.feeder.map Feed.slot := by simp

/-- The sweep timer law and the retire limit hold. -/
structure State.Clocked (s : State) : Prop where
  timer : s.SweepTimerLaw
  retire : s.RetireLaw

/-- The four laws hold, and the slots are in their canonical form. -/
structure State.Governed (s : State) : Prop where
  slots : Table.wf (none : Option Grant) s.sched.slots = true
  relations : s.SchedulerRelations
  clock : s.Clocked
  feeder : s.FeederLaw

/-! #### The sweep timer and the retire limit (R145, R151) -/

theorem State.SweepTimerLaw.of_same {s t : State} (h : s.SweepTimerLaw) (same : s.SameClock t) : t.SweepTimerLaw := by
  unfold State.SweepTimerLaw
  rw [same.timer, same.state]
  exact h

theorem State.Clocked.of_same {s t : State} (h : s.Clocked) (same : s.SameClock t := by exact {}) : t.Clocked := by
  obtain ⟨timer, below, resets⟩ := h
  refine ⟨timer.of_same same, fun may => ?_, fun during => ?_⟩
  · rw [same.limit, BufferManager.retiredCount, same.owners]
    exact below (same.state ▸ may)
  · obtain ⟨off, none_⟩ := resets (same.reset ▸ during)
    exact ⟨same.state.trans off, same.requests (same.reset ▸ during) none_⟩

theorem State.SweepTimerLaw.setSched {s : State} (h : s.SweepTimerLaw) {n : SchedState}
    (closes : n = .off → s.sched.state.sweeps = false) : (s.setSched n).SweepTimerLaw := by
  show (s.sweep.onState s.rp.options.sweep s.sched.state n).timer.isSome = n.sweeps
  unfold Sweep.onState
  split_ifs with stops starts
  · rw [stops]
    rfl
  · rw [Bool.and_eq_true] at starts
    exact starts.1.symm
  · rw [show s.sweep.timer.isSome = s.sched.state.sweeps from h]
    cases n with
    | off => exact closes rfl
    | stopping => exact absurd rfl stops
    | running | freezing | frozen | halted => simpa [SchedState.sweeps] using starts

/-- A move of the scheduler other than START: OFF is entered from a state that does not sweep and never left, and a
state that can halt is entered from one that can. -/
abbrev SchedState.Moves (a b : SchedState) : Prop :=
  (b = .off → a.sweeps = false) ∧ (a = .off → b = .off) ∧ (b.canHalt = true → a.canHalt = true)

namespace State.Clocked
variable {s : State}

theorem setSched (h : s.Clocked) {n : SchedState} (moves : s.sched.state.Moves n) : (s.setSched n).Clocked := by
  obtain ⟨timer, below, resets⟩ := h
  obtain ⟨closes, stays, halts⟩ := moves
  refine ⟨timer.setSched closes, fun may => below (halts may), fun during => ?_⟩
  obtain ⟨off, none_⟩ := resets during
  exact ⟨stays off, none_⟩

theorem record (h : s.Clocked) (e : Event) : (s.record e).Clocked := h.of_same

theorem setCause (h : s.Clocked) (c : Cause) (present : Bool) : (s.setCause c present).Clocked := h.of_same

theorem addCause (h : s.Clocked) (c : Cause) : (s.addCause c).Clocked := by
  unfold State.addCause
  simp only
  split_ifs with _ running
  · exact h
  · exact ((h.setCause c true).setSched (n := .frozen) (by simp only [State.setCause_sched, running]; decide)).record _
  · exact (h.setCause c true).setSched (by simp only [State.setCause_sched, running]; decide)
  · exact h.setCause c true

theorem removeCause (h : s.Clocked) (c : Cause) : (s.removeCause c).Clocked := by
  unfold State.removeCause
  simp only
  split_ifs with _ thaws
  · simp only [Bool.and_eq_true, Bool.or_eq_true, beq_iff_eq] at thaws
    refine ((h.setCause c false).setSched ?_).record _
    rcases thaws.2 with state | state <;> simp only [State.setCause_sched, state] <;> decide
  · exact h.setCause c false
  · exact h

theorem checkStopped (h : s.Clocked) : s.checkStopped.Clocked := by
  unfold State.checkStopped
  split
  case isTrue drained =>
    exact ((h.setCause .host false).setSched (by simp only [State.setCause_sched, drained.1]; decide)).record _
  case isFalse => exact h

theorem slotFreed (h : s.Clocked) : s.slotFreed.Clocked := by
  unfold State.slotFreed
  split
  case isTrue last => exact (h.setSched (n := .frozen) (by rw [last.1]; decide)).record _
  case isFalse => exact h.checkStopped

/-- The retired count or the retire limit handed over restores the law of the limit (R145). -/
theorem of_checkRetired (timer : s.SweepTimerLaw) (resets : s.inReset = true → s.sched.state = .off ∧ s.rp.queue = []) :
    s.checkRetired.Clocked := by
  unfold State.checkRetired
  split
  case isTrue due =>
    have halted : (s.setSched .halted).Clocked :=
      ⟨timer.setSched nofun, nofun, fun during => by
        rw [(resets during).1] at due
        cases due.1⟩
    exact halted.record _
  case isFalse below => exact ⟨timer, fun may => not_le.1 fun reached => below ⟨may, reached⟩, resets⟩

/-- A retired count that rises is handed over; one that does not stays below the limit (R30, R145). -/
theorem withPools (h : s.Clocked) (b : BufferManager) : (s.withPools b).Clocked := by
  obtain ⟨timer, below, resets⟩ := h
  unfold State.withPools
  simp only
  split
  case isTrue => exact of_checkRetired timer resets
  case isFalse risen => exact ⟨timer, fun may => (not_lt.1 risen).trans_lt (below may), resets⟩

end State.Clocked

/-! #### The Feeder (R99, R101, R111) -/

/-- Slot `k` is open and STREAMING. -/
def State.Streams (s : State) (k : Nat) : Prop := ∃ g, s.slot k = some g ∧ g.stream = .streaming

theorem State.feederLaw_iff {s : State} :
    s.FeederLaw ↔
      (∀ k, s.Streams k ↔ s.feeder.map Feed.slot = some k) ∧ (s.feeder.isSome = true → s.radio.up = true) := by
  simp only [State.FeederLaw, State.Streams, Option.map_eq_some_iff]

/-- The Feeder law reads which slots stream. -/
theorem State.FeederLaw.of_streams {s t : State} (h : s.FeederLaw) (streams : ∀ k, t.Streams k ↔ s.Streams k)
    (feeder : t.feeder.map Feed.slot = s.feeder.map Feed.slot) (up : t.radio.up = s.radio.up) : t.FeederLaw := by
  obtain ⟨feeds, linked⟩ := State.feederLaw_iff.1 h
  refine State.feederLaw_iff.2 ⟨fun k => ?_, fun busy => ?_⟩
  · rw [streams, feeder]
    exact feeds k
  · rw [← Option.isSome_map (f := Feed.slot), feeder, Option.isSome_map] at busy
    exact up.trans (linked busy)

theorem State.streams_congr {s t : State} {k : Nat} (slot : t.slot k = s.slot k) : t.Streams k ↔ s.Streams k := by
  unfold State.Streams
  rw [slot]

/-- The end of a stream leaves no slot STREAMING and the Feeder idle (R111). -/
theorem State.feederLaw_endStream {s : State} (feeds : ∀ k, s.Streams k ↔ s.feeder.map Feed.slot = some k)
    (ended : StreamEnd) : (s.endStream ended).FeederLaw := by
  have idle : (s.endStream ended).feeder = none := by
    unfold State.endStream
    split
    · assumption
    · rfl
  refine State.feederLaw_iff.2 ⟨fun k => ?_, by rw [idle]; nofun⟩
  rw [idle]
  refine iff_of_false (fun ⟨g, open_, streaming⟩ => ?_) nofun
  cases feeder : s.feeder with
  | none =>
    have same : s.endStream ended = s := by simp only [State.endStream, feeder]
    rw [same] at open_
    have := (feeds k).1 ⟨g, open_, streaming⟩
    rw [feeder] at this
    cases this
  | some f =>
    by_cases fed : k = f.slot
    · obtain ⟨g', was, _⟩ := (feeds f.slot).2 (by rw [feeder]; rfl)
      rw [fed, State.slot_endStream feeder was] at open_
      cases open_
      cases streaming
    · rw [State.otherSlotsKeep_endStream feeder ended k fed] at open_
      have := (feeds k).1 ⟨g, open_, streaming⟩
      rw [feeder] at this
      exact fed (Option.some.inj this).symm

/-! #### The operations the meanings share -/

/-- No more slots are open after one has been freed. -/
theorem State.openSlots_setSlot_none {s : State} (slots : Table.wf (none : Option Grant) s.sched.slots = true)
    (k : Nat) :
    (s.setSlot k none).openSlots ≤ s.openSlots := by
  refine List.countP_mono_left fun l _ => ?_
  rw [State.slot_setSlot slots]
  split
  · nofun
  · exact id

namespace State.Governed
variable {s t : State}

theorem of_same (h : s.Governed) (same : s.SameRule t := by exact {}) : t.Governed where
  slots := same.slots ▸ h.slots
  relations := h.relations.of_same same.state same.causes same.slots same.up
  clock := h.clock.of_same same.toSameClock
  feeder := h.feeder.of_streams (fun k => State.streams_congr (State.slot_congr same.slots k)) same.feeder same.up

theorem ite (c : Prop) [Decidable c] (h : s.Governed) (g : t.Governed) : (if c then s else t).Governed := by
  split
  · exact h
  · exact g

/-- The Feeder law reads no more of the state machine than the slots and the link. -/
theorem feeder_of_sched (h : s.Governed) (slots : t.sched.slots = s.sched.slots := by simp)
    (feeder : t.feeder = s.feeder := by simp) (up : t.radio.up = s.radio.up := by simp) : t.FeederLaw :=
  h.feeder.of_streams (fun k => State.streams_congr (State.slot_congr slots k)) (by rw [feeder]) up

theorem checkStopped (h : s.Governed) : s.checkStopped.Governed :=
  ⟨by simpa using h.slots, h.relations.checkStopped, h.clock.checkStopped, h.feeder_of_sched⟩

theorem withPools (h : s.Governed) (b : BufferManager) : (s.withPools b).Governed :=
  ⟨by simpa using h.slots, h.relations.withPools b, h.clock.withPools b, h.feeder_of_sched⟩

/-- HOST and RADIO come and go with the link as it is. -/
theorem addCause (h : s.Governed) {c : Cause} (link : (s.sched.causes.put c true).link = !s.radio.up) :
    (s.addCause c).Governed :=
  ⟨by simpa using h.slots, State.SchedulerRelations.addCause (up := s.radio.up) h.relations link, h.clock.addCause c,
    h.feeder_of_sched⟩

theorem removeCause (h : s.Governed) {c : Cause} (link : (s.sched.causes.put c false).link = !s.radio.up) :
    (s.removeCause c).Governed :=
  ⟨by simpa using h.slots, State.SchedulerRelations.removeCause (up := s.radio.up) h.relations link,
    h.clock.removeCause c, h.feeder_of_sched⟩

theorem link (h : s.Governed) : s.sched.causes.link = !s.radio.up := h.relations.2.2.2.2

theorem count (h : s.Governed) (i : Nat) (f : StationCounters → StationCounters) : (s.count i f).Governed := h.of_same

theorem release (h : s.Governed) (i d : Nat) (reason : Reason) : (s.release i d reason).Governed := by
  unfold State.release
  simp only
  split
  · exact h.of_same
  · split
    case h_1 b _ => exact (h.withPools b).of_same
    case h_2 f b _ => exact (h.withPools b).of_same

theorem releases (i : Nat) : ∀ (l : List (Nat × Reason)) {s : State}, s.Governed → (s.releases i l).Governed
  | [], _, h => h
  | (d, reason) :: rest, _, h => releases i rest (h.release i d reason)

theorem popRelease (h : s.Governed) (i d : Nat) (reason : Reason) : ((s.popQueue i).release i d reason).Governed :=
  release h.of_same i d reason

theorem takeClaim (h : s.Governed) (c : FaultClaim) : (s.takeClaim c).Governed := by
  have escalated (i : Nat) : (s.escalate i).Governed := by
    unfold State.escalate
    simp only
    exact .ite _ (checkStopped h.of_same) h.of_same
  exact .ite _ (.ite _ (escalated _) h.of_same) h

theorem settleFeedClaims (h : s.Governed) (i : Nat) : (s.settleFeedClaims i).Governed := by
  have taken : ∀ (claims : List FaultClaim) {u : State}, u.Governed → (claims.foldl State.takeClaim u).Governed := by
    intro claims
    induction claims with
    | nil => exact fun g => g
    | cons c rest ih => exact fun g => ih (g.takeClaim c)
  exact taken _ h.of_same

theorem endStream (h : s.Governed) (ended : StreamEnd) : (s.endStream ended).Governed := by
  obtain ⟨slots, held⟩ := State.held_endStream h.slots ended
  exact ⟨slots, h.relations.of_openSlots (State.openSlots_of_held held) (up := s.up_endStream ended), h.clock.of_same,
    State.feederLaw_endStream (State.feederLaw_iff.1 h.feeder).1 ended⟩

/-- A slot that is not STREAMING is freed: the scheduler is told (R117, R136, R144). -/
theorem closeSlot (h : s.Governed) {k : Nat} (i : Nat) (quiet : ¬ s.Streams k) : (s.closeSlot k i).Governed := by
  have fewer := State.openSlots_setSlot_none h.slots k
  obtain ⟨running, frozen, _, closed, link⟩ := h.relations
  refine ⟨by rw [State.slots_closeSlot]; exact Table.wf_set h.slots _ _, ?_, ?_, ?_⟩
  · unfold State.closeSlot
    refine State.SchedulerRelations.slotFreed ?_ ?_ (fun is => ?_) ?_
    · simpa using running
    · simpa using frozen
    · rw [State.openSlots_congr (s := s.setSlot k none) (by simp)]
      have := closed (by simpa using is)
      omega
    · simpa using link
  · exact State.Clocked.slotFreed h.clock.of_same
  · refine h.feeder.of_streams (fun l => ?_) (by simp) (by simp)
    have reads : (s.closeSlot k i).slot l = (s.setSlot k none).slot l := State.slot_congr (s.slots_closeSlot k i) l
    by_cases same : l = k
    · rw [same] at reads ⊢
      rw [State.slot_setSlot h.slots, if_pos rfl] at reads
      refine iff_of_false (fun ⟨g, open_, _⟩ => ?_) quiet
      rw [reads] at open_
      cases open_
    · exact State.streams_congr (reads.trans (s.slot_setSlot_ne none same))

/-- The frames of a grant released and its slot freed. -/
theorem endGrant (h : s.Governed) {k : Nat} (i : Nat) (l : List (Nat × Reason)) (quiet : ¬ s.Streams k) :
    ((s.releases i l).closeSlot k i).Governed :=
  (releases i l h).closeSlot i fun streams => quiet ((State.streams_congr (State.slot_congr (by simp) k)).1 streams)

/-- Issue in a scheduler that was RUNNING, and may have HALTED since, with the Feeder idle (R101, R107). -/
theorem issue (h : s.Governed) (runs : s.sched.state = .running ∨ s.sched.state = .halted) (idle : s.feeder = none)
    (k i : Nat) (kind : GrantKind) (frames : List GrantFrame) (estimate : Nat) :
    (s.issue k i kind frames estimate).Governed := by
  have form := s.issue_eq k i kind frames estimate
  have opened := s.slot_issue k i kind frames estimate
  have others := s.otherSlotsKeep_issue k i kind frames estimate
  have slots := ((State.Keeps.refl s).issue k i kind frames estimate).slots h.slots
  have quiet (l : Nat) : ¬ s.Streams l := fun streams => by
    have := ((State.feederLaw_iff.1 h.feeder).1 l).1 streams
    rw [idle] at this
    cases this
  simp only at form
  generalize s.issue k i kind frames estimate = t at form opened others slots ⊢
  have feeder := congrArg State.feeder form
  refine ⟨slots, h.relations.opens runs ?_ ?_ ?_, h.clock.of_same ?_,
    State.feederLaw_iff.2 ⟨fun l => ?_, fun busy => ?_⟩⟩
  · rw [form]
  · rw [form]
  · rw [form]
  · rw [form]
    exact {}
  · by_cases same : l = k
    · rw [same, feeder]
      unfold State.Streams
      rw [opened]
      by_cases up : s.radio.up = true <;> simp [up]
    · rw [State.streams_congr (others l same), feeder]
      refine iff_of_false (quiet l) ?_
      by_cases up : s.radio.up = true <;> simp [up, Ne.symm same]
  · have up : t.radio.up = s.radio.up := by rw [form]
    rw [up]
    by_contra down
    rw [feeder] at busy
    simp [down] at busy

end State.Governed

/-! #### Every command (O58) -/

/-- Whatever state the outcome `o` of a command on `s` names, the laws hold of it if they hold of `s`. -/
def State.GovernedBy (s : State) (o : Host.Outcome State Fault Refusal) : Prop :=
  s.Governed → ∀ t, o = .next t → t.Governed

theorem State.GovernedBy.next {s t : State} (h : s.Governed → t.Governed) : s.GovernedBy (.next t) := by
  rintro governed _ ⟨⟩
  exact h governed

/-- A command that its rules do not call for changes nothing. -/
theorem State.GovernedBy.unless {s t : State} (c : Prop) [Decidable c] (h : s.Governed → t.Governed) :
    s.GovernedBy (.next (if c then s else t)) := .next fun governed => .ite c governed (h governed)

/-- A message taken outside a reset alone. -/
theorem State.GovernedBy.unless_reset {s t : State} {c : Prop} [Decidable c]
    (h : s.Governed → s.inReset = false → t.Governed) : s.GovernedBy (.next (if s.inReset = true ∨ c then s else t)) :=
  .next fun governed => by
    split
    case isTrue => exact governed
    case isFalse taken => exact h governed (Bool.eq_false_iff.2 (not_or.1 taken).1)

/-! ##### The passing of time and the resets -/

theorem BufferManager.owners_damage (b : BufferManager) (x : Option (Nat × Config.Damage)) :
    (b.damage x).owners = b.owners := by
  unfold BufferManager.damage
  split
  · rfl
  · simp only
    split <;> rfl

theorem BufferManager.owners_damageWord (b : BufferManager) (x : Option (Nat × Ecc)) :
    (b.damageWord x).owners = b.owners := by
  unfold BufferManager.damageWord
  split
  · rfl
  · split <;> rfl

namespace State.Governed
variable {s : State}

theorem tick (h : s.Governed) : s.tick.Governed := by
  have reads (k : Nat) : Table.get none (s.sched.slots.map fun e => (e.1, e.2.map Grant.tick)) k
      = (s.slot k).map Grant.tick := Table.get_map none (f := Option.map Grant.tick) rfl _ k
  have ticked (g : Grant) : g.tick.held = g.held ∧ (g.tick.stream = .streaming ↔ g.stream = .streaming) := by
    unfold Grant.tick
    split
    case h_1 streaming => simp [streaming]
    case h_2 t sent => simp [sent, Grant.held]
  have held (k : Nat) : ((s.slot k).map Grant.tick).map Grant.held = (s.slot k).map Grant.held := by
    rw [Option.map_map]
    exact congrArg (Option.map · (s.slot k)) (funext fun g => (ticked g).1)
  have up : s.radio.tick.up = s.radio.up := by
    unfold RadioLink.tick
    split_ifs <;> rfl
  unfold State.tick
  split
  case isTrue => exact h
  case isFalse =>
    have owners := (BufferManager.owners_damageWord _ (Config.memoryDamage s.freeCtr)).trans
      (s.bm.owners_damage (Config.descriptorDamage s.freeCtr))
    refine ⟨Grant.wf_tick h.slots, h.relations.of_openSlots ?_ (up := up), h.clock.of_same { owners := owners },
      h.feeder.of_streams (fun k => ?_) rfl up⟩
    · exact State.openSlots_of_held fun k => (congrArg (Option.map Grant.held) (reads k)).trans (held k)
    · show (∃ g, Table.get none (s.sched.slots.map fun e => (e.1, e.2.map Grant.tick)) k = some g
        ∧ g.stream = .streaming) ↔ ∃ g, s.slot k = some g ∧ g.stream = .streaming
      rw [reads]
      cases s.slot k with
      | none => simp
      | some g => simp [(ticked g).2]

theorem blocksReset (pending : List Instr) (lock up : Bool) (mem : Memory) (ecc : Table Ecc) (n : Nat) :
    (State.blocksReset pending lock up mem ecc n).Governed where
  slots := rfl
  relations := (State.lawful_blocksReset ..).relations
  clock := ⟨rfl, nofun, fun _ => ⟨rfl, rfl⟩⟩
  feeder := State.feederLaw_iff.2 ⟨fun _ => iff_of_false (fun ⟨_, open_, _⟩ => nomatch open_) nofun, nofun⟩

/-- A reset ends in OFF, whatever packet memory the self-test has left (R34, R145). -/
theorem endReset (h : s.Governed) (off : s.sched.state = .off) (b : BufferManager) (n : Nat) (power : Bool) :
    (State.endReset { s with bm := b, freeCtr := n } power).Governed where
  slots := h.slots
  relations := h.relations.of_same rfl rfl rfl rfl
  clock := by
    refine ⟨h.clock.timer, fun may => ?_, nofun⟩
    have may : s.sched.state.canHalt = true := may
    rw [off] at may
    cases may
  feeder := h.feeder_of_sched rfl rfl rfl

theorem reset (pending : List Instr) (lock up : Bool) (mem : Memory) (ecc : Table Ecc) (n : Nat) (power : Bool) :
    ((State.blocksReset pending lock up mem ecc n).endReset power).Governed :=
  (blocksReset pending lock up mem ecc n).endReset rfl _ _ power

end State.Governed

theorem execPowerOnReset_governed (selfTest : Bool) (s : State) : s.GovernedBy (execPowerOnReset selfTest s) :=
  .next fun _ => .ite _ (.blocksReset ..) (.reset ..)

theorem execSelfTest_governed (failed : List Nat) (s : State) : s.GovernedBy (execSelfTest failed s) :=
  .next fun h => by
    split
    case isTrue during => exact h.endReset (h.clock.retire.2 during).1 _ _ true
    case isFalse => exact h

theorem execSoftReset_governed (s : State) : s.GovernedBy (execSoftReset s) :=
  .next fun h => .ite _ (.reset ..) h

/-! ##### The System Link and admission -/

theorem execIngressSpaceClaim_governed (header : List Byte) (s : State) :
    s.GovernedBy (execIngressSpaceClaim header s) := .unless _ fun h => .ite _ h.of_same h

theorem execDownFrameReceived_governed (frame : List Byte) (s : State) :
    s.GovernedBy (execDownFrameReceived frame s) :=
  .unless _ fun h => by
    split
    · exact h.of_same
    · exact .ite _ h.of_same h

theorem execRequestFrameReceived_governed (frame : List Byte) (s : State) :
    s.GovernedBy (execRequestFrameReceived frame s) :=
  .unless_reset fun h running => .ite _ (h.of_same { requests := by simp [running] }) h.of_same

theorem execSystemLinkBadFrame_governed (frame : List Byte) (s : State) :
    s.GovernedBy (execSystemLinkBadFrame frame s) := .unless _ fun h => h.of_same

namespace State.Governed
variable {s : State}

theorem startEvent (h : s.Governed) : s.startEvent.Governed := by
  unfold State.startEvent
  split
  · exact h
  · exact h.of_same

theorem startTraffic (h : s.Governed) : s.startTraffic.Governed := by
  have up : s.startUp.Governed := by
    unfold State.startUp
    split
    · exact h
    · exact h.of_same
  have disposal : s.startDisposal.Governed := by
    unfold State.startDisposal
    exact h.of_same
  exact .ite _ up (.ite _ disposal (.ite _ disposal up))

theorem chooseFrame (h : s.Governed) : s.chooseFrame.Governed := by
  have pause : s.startPause.Governed := by
    unfold State.startPause
    exact h.of_same
  unfold State.chooseFrame
  split
  · exact h.startEvent
  · split
    · exact pause
    · split
      · exact h.of_same
      · exact .ite _ h.startTraffic h.startEvent

theorem handOver (h : s.Governed) : s.handOver.Governed := by
  unfold State.handOver
  split
  · exact h.of_same
  · exact h

theorem lineEnded (h : s.Governed) : s.lineEnded.Governed := by
  unfold State.lineEnded
  split
  · exact h
  · split
    · exact handOver h.of_same
    · exact h.of_same

theorem addDisposal (h : s.Governed) (d : Nat) : State.Governed { s with disposal := s.disposal ++ [d] } := h.of_same

theorem admissionEnds (h : s.Governed) : s.admissionEnds.Governed := h.of_same

theorem countRefusal (h : s.Governed) (e : IngressEntry) : (s.countRefusal e).Governed := .ite _ (h.count _ _) h

theorem refuse (h : s.Governed) (e : IngressEntry) (reason : Reason) : (s.refuse e reason).Governed := by
  unfold State.refuse
  split
  · exact h.of_same
  case h_2 d b _ =>
    exact (((h.withPools (b.setDesc d (refusedDesc e reason))).addDisposal d).countRefusal e).admissionEnds

theorem decideAdmission (h : s.Governed) (e : IngressEntry) : (s.decideAdmission e).Governed := by
  unfold State.decideAdmission
  split
  · exact h.refuse e _
  · split
    · exact h.refuse e .noBuffer
    case h_2 d cells b _ => exact (h.withPools (b.setDesc d (acceptedDesc e cells))).of_same

theorem refuseLate (h : s.Governed) (e : IngressEntry) (d : Nat) (reason : Reason) :
    (s.refuseLate e d reason).Governed := by
  have pools := h.withPools ((s.bm.giveBack d (s.desc d).segs).setDesc d (refusedDesc e reason))
  exact ((pools.addDisposal d).countRefusal e).admissionEnds

theorem enqueue (h : s.Governed) (e : IngressEntry) (d : Nat) : (s.enqueue e d).Governed := by
  unfold State.enqueue
  exact h.of_same

end State.Governed

theorem execTransmitterChoice_governed (s : State) : s.GovernedBy (execTransmitterChoice s) :=
  .next fun h => by
    split
    · exact h.chooseFrame
    · exact .ite _ h h.lineEnded.chooseFrame

theorem execDisposalMessageSent_governed (s : State) : s.GovernedBy (execDisposalMessageSent s) :=
  .next fun h => by
    split
    · exact State.Governed.withPools h.of_same _
    · exact h

theorem execUpFrameSent_governed (s : State) : s.GovernedBy (execUpFrameSent s) :=
  .next fun h => by
    split
    · exact h.of_same
    · exact h

theorem execStartEventSent_governed (s : State) : s.GovernedBy (execStartEventSent s) :=
  .next fun h => by
    split
    · exact h.of_same
    · exact h

theorem execAdmissionDecision_governed (s : State) : s.GovernedBy (execAdmissionDecision s) :=
  .next fun h => by
    split
    · exact h.decideAdmission _
    · exact h

theorem execAdmissionRetry_governed (s : State) : s.GovernedBy (execAdmissionRetry s) :=
  .next fun h => by
    split
    · exact .ite _ h (h.decideAdmission _)
    · exact h

theorem execAppend_governed (s : State) : s.GovernedBy (execAppend s) :=
  .next fun h => by
    split
    case h_1 d e _ _ _ =>
      have stored : State.Governed { s with bm := s.bm.store (s.desc d).segs e.bytes } := h.of_same { owners := rfl }
      simp only
      split
      · exact stored.enqueue e d
      · exact stored.refuseLate e d _
    case h_2 => exact h

/-! ##### The Radio Link -/

namespace State.Governed
variable {s : State}

/-- LINK is removed in the step that moves the link UP (R142). -/
theorem linkUp (h : s.Governed) :
    ((State.record { s with radio := { s.radio with up := true, settle := 0 } } (.radioLink true)).removeCause
      .link).Governed := by
  obtain ⟨feeds, _⟩ := State.feederLaw_iff.1 h.feeder
  refine ⟨by simpa using h.slots, ?_, State.Clocked.removeCause h.clock.of_same .link,
    State.feederLaw_iff.2 ⟨fun k => ?_, by simp⟩⟩
  · refine State.SchedulerRelations.removeCause (up := s.radio.up) ?_ rfl
    exact h.relations.of_same rfl rfl rfl rfl
  · rw [State.streams_congr (s := s) (State.slot_congr (by simp) k), State.removeCause_feeder]
    exact feeds k

/-- The stream is cut and LINK added once the link has gone DOWN (R13, R142). -/
theorem cutStream (slots : Table.wf (none : Option Grant) s.sched.slots = true)
    (relations : State.SchedulerRelations { s with radio := { s.radio with up := true } }) (clock : s.Clocked)
    (feeds : ∀ k, s.Streams k ↔ s.feeder.map Feed.slot = some k) (down : s.radio.up = false) :
    ((s.endStream .cut).addCause .link).Governed := by
  obtain ⟨cut, held⟩ := State.held_endStream slots .cut
  refine ⟨by simpa using cut, State.SchedulerRelations.addCause (up := true) ?_ ?_,
    State.Clocked.addCause clock.of_same .link, ?_⟩
  · exact relations.of_openSlots (State.openSlots_of_held held)
  · rw [State.up_endStream, down]
    rfl
  · exact (State.feederLaw_endStream feeds .cut).of_streams (fun k => State.streams_congr (State.slot_congr (by simp) k))
      (by simp) (by simp)

/-- LINK is added in the step that moves the link DOWN (R13, R142). -/
theorem linkDown (h : s.Governed) (up : s.radio.up = true) : (((State.record { s with
    radio := { s.radio with up := false, settle := 0 }, uplink := { s.uplink with claim := none } }
    (.radioLink false)).endStream .cut).addCause .link).Governed :=
  cutStream h.slots (h.relations.of_same rfl rfl rfl up.symm) h.clock.of_same (State.feederLaw_iff.1 h.feeder).1 rfl

end State.Governed

theorem execReceiveLockChange_governed (lock : Bool) (s : State) : s.GovernedBy (execReceiveLockChange lock s) :=
  .unless _ fun h => h.of_same

theorem execLinkUp_governed (s : State) : s.GovernedBy (execLinkUp s) := .next fun h => .ite _ h.linkUp h

theorem execLinkDown_governed (s : State) : s.GovernedBy (execLinkDown s) :=
  .next fun h => by
    split
    case isTrue lost => exact h.linkDown lost.1
    case isFalse => exact h

theorem execRadioLinkBadFrame_governed (frame : List Byte) (s : State) :
    s.GovernedBy (execRadioLinkBadFrame frame s) :=
  .unless _ fun h => by
    split
    · exact h
    · exact h.of_same

theorem execUplinkSpaceClaim_governed (header : List Byte) (s : State) :
    s.GovernedBy (execUplinkSpaceClaim header s) := .unless _ fun h => .ite _ h.of_same h

/-! ##### Notes and uplink forwarding -/

namespace State.Governed
variable {s : State}

theorem doze (h : s.Governed) (i : Nat) : (s.doze i).Governed := by
  unfold State.doze
  split
  · exact h.of_same
  · exact h.of_same
  · exact h.of_same
  · exact h.of_same

theorem wake (h : s.Governed) (i : Nat) : (s.wake i).Governed := by
  unfold State.wake
  split
  · exact h.of_same
  · exact h.of_same
  · exact h.of_same
  · exact .ite _ h.of_same h

theorem takePoll (h : s.Governed) (i : Nat) : (s.takePoll i).Governed := by
  unfold State.takePoll
  split
  · exact h.of_same
  · exact h.of_same
  · exact h.of_same
  · exact .ite _ h.of_same h.of_same

theorem takeUp (h : s.Governed) (m : UpMessage) : (s.takeUp m).Governed := by
  have charged (i airtime : Nat) : (s.chargeUplink i airtime).Governed := .ite _ h.of_same h.of_same
  have sorted : (s.sortUplink m).Governed := .ite _ (charged _ _) h.of_same
  unfold State.takeUp
  simp only
  split
  · exact .ite _ sorted (.ite _ sorted.of_same (.ite _ (sorted.count _ _) sorted))
  · exact .ite _ sorted.of_same h

end State.Governed

theorem execUpMessage_governed (frame : List Byte) (s : State) : s.GovernedBy (execUpMessage frame s) :=
  .unless _ fun h => h.takeUp _

theorem execDoze_governed (frame : List Byte) (s : State) : s.GovernedBy (execDoze frame s) :=
  .unless _ fun h => h.doze _

theorem execWake_governed (frame : List Byte) (s : State) : s.GovernedBy (execWake frame s) :=
  .unless _ fun h => h.wake _

theorem execPoll_governed (frame : List Byte) (s : State) : s.GovernedBy (execPoll frame s) :=
  .unless _ fun h => h.takePoll _

theorem execMediumHold_governed (frame : List Byte) (s : State) : s.GovernedBy (execMediumHold frame s) :=
  .unless _ fun h => h.addCause (c := .radio) h.link

theorem execMediumRelease_governed (frame : List Byte) (s : State) : s.GovernedBy (execMediumRelease frame s) :=
  .unless _ fun h => h.removeCause (c := .radio) h.link

/-! ##### The end of a grant -/

namespace State.Governed
variable {s : State}

theorem timeout (h : s.Governed) {k : Nat} (g : Grant) (quiet : ¬ s.Streams k) : (s.timeout k g).Governed :=
  endGrant (s := { s.setStation g.station _ with ctr := _ }) h.of_same g.station _ quiet

theorem validDone (h : s.Governed) {k : Nat} (g : Grant) (quiet : ¬ s.Streams k) (m : DoneMsg)
    (outcomes : List FrameOutcome) : (s.validDone k g m outcomes).Governed := by
  have settled := h.settleFeedClaims g.station
  have slots := s.slots_settleFeedClaims g.station
  unfold State.validDone
  simp only
  refine endGrant (s := State.setStation _ g.station _) settled.of_same g.station _ fun streams => quiet ?_
  exact (State.streams_congr (State.slot_congr (by simp [slots]) k)).1 streams

/-- A slot that is SENT does not stream. -/
theorem not_streams_of_sent {k : Nat} {g : Grant} {t : Timer} (open_ : s.slot k = some g) (sent : g.stream = .sent t) :
    ¬ s.Streams k := by
  rintro ⟨g', open_', streaming⟩
  cases open_.symm.trans open_'
  rw [sent] at streaming
  cases streaming

theorem takeDone (h : s.Governed) (m : DoneMsg) : (s.takeDone m).Governed := by
  have late : (s.lateDone m).Governed := h.of_same
  have error (cause : ProtocolCause) : (s.protocolError cause kindDone m.slot m.serial 0).Governed := h.of_same
  unfold State.takeDone
  split
  · exact late
  case h_2 g open_ =>
    split
    · exact late
    · split
      · exact error _
      case h_2 _ sent =>
        split
        · exact error _
        · split_ifs at open_
          exact h.validDone g (not_streams_of_sent open_ sent) m _

end State.Governed

theorem execDone_governed (frame : List Byte) (s : State) : s.GovernedBy (execDone frame s) :=
  .unless _ fun h => h.takeDone _

theorem execGrantTimeout_governed (k : Nat) (s : State) : s.GovernedBy (execGrantTimeout k s) :=
  .next fun h => by
    split
    · exact h
    case h_2 g open_ =>
      split
      · exact h
      case h_2 t sent => exact .ite _ (h.timeout g (State.Governed.not_streams_of_sent open_ sent)) h

/-! ##### Choice, formation and feeding -/

/-- The laws hold and a grant may be issued: the scheduler was RUNNING, and may have HALTED since, with the Feeder idle
(R101, R103, R145). -/
structure State.MayIssue (s : State) : Prop where
  governed : s.Governed
  runs : s.sched.state = .running ∨ s.sched.state = .halted
  idle : s.feeder = none

namespace State.MayIssue
variable {s : State}

theorem popRelease (h : s.MayIssue) (i d : Nat) (reason : Reason) : ((s.popQueue i).release i d reason).MayIssue where
  governed := h.governed.popRelease i d reason
  runs := ((s.popQueue i).state_release i d reason).elim (fun same => same ▸ h.runs) .inr
  idle := by simpa using h.idle

theorem place (h : s.MayIssue) (i d : Nat) : (s.place i d).MayIssue := by
  unfold State.place
  exact ⟨h.governed.of_same, by simpa using h.runs, by simpa using h.idle⟩

theorem formRound (i most : Nat) (limit : Int) (row : RateEntry) : ∀ (queue : List Nat) (frames : List GrantFrame)
    (sum : Nat) {s : State}, s.MayIssue → (State.formRound i most limit row queue frames sum s).2.2.MayIssue
  | [], _, _, _, h => h
  | d :: rest, frames, sum, s, h => by
    rw [State.formRound]
    split
    · exact h
    · split
      · exact formRound i most limit row rest _ _ (h.popRelease i d _)
      · simp only
        split
        · exact formRound i most limit row rest _ _ (h.place i d)
        · exact h

theorem formPoll (i : Nat) (row : RateEntry) : ∀ (queue : List Nat) {s : State}, s.MayIssue →
    (State.formPoll i row queue s).2.2.MayIssue
  | [], _, h => h
  | d :: rest, s, h => by
    rw [State.formPoll]
    split
    · exact formPoll i row rest (h.popRelease i d _)
    · exact h.place i d

theorem cancelPoll (h : s.MayIssue) (i : Nat) : (s.cancelPoll i).MayIssue :=
  ⟨h.governed.of_same, by simpa using h.runs, by simpa using h.idle⟩

theorem issue (h : s.MayIssue) (k i : Nat) (kind : GrantKind) (frames : List GrantFrame) (estimate : Nat) :
    (s.issue k i kind frames estimate).Governed := h.governed.issue h.runs h.idle k i kind frames estimate

theorem form (h : s.MayIssue) (c : Candidate) : (s.form c).Governed := by
  unfold State.form
  simp only
  split
  · have formed := formRound c.station (s.liveClass (s.station c.station)).maxFrames
      (min (s.station c.station).deficit (s.liveClass (s.station c.station)).maxAirtime)
      (s.liveRate (s.station c.station)) (s.station c.station).queue [] 0 h
    split
    case h_1 e =>
      rw [e] at formed
      exact formed.governed
    case h_2 e =>
      rw [e] at formed
      exact formed.issue _ _ _ _ _
  · exact ((formPoll c.station _ _ h).cancelPoll c.station).issue _ _ _ _ _

end State.MayIssue

theorem State.Governed.topUp : ∀ (n : Nat) {s : State}, s.Governed → (State.topUp n s).2.Governed := by
  intro n
  induction n with
  | zero =>
    intro s h
    unfold State.topUp
    split
    · exact h
    · split <;> exact h
  | succ n ih =>
    intro s h
    unfold State.topUp
    split
    · exact h
    · split
      · exact h
      · exact ih h.of_same

theorem State.Governed.takeRound {s : State} (h : s.Governed) (i : Nat) : (s.takeRound i).Governed := by
  unfold State.takeRound
  exact h.of_same

theorem execArbiterChoice_governed (s : State) : s.GovernedBy (execArbiterChoice s) :=
  .next fun h => by
    split
    · split
      · exact h.of_same
      · split
        · exact h.takeRound _
        · have topped := State.Governed.topUp s.topUpBound h
          split
          case h_1 e =>
            rw [e] at topped
            exact topped.takeRound _
          case h_2 e =>
            rw [e] at topped
            exact topped
    · exact h

theorem execGrantFormation_governed (s : State) : s.GovernedBy (execGrantFormation s) :=
  .next fun h => by
    have ended : (s.setCandidate none).Governed := h.of_same
    split
    · exact h
    case h_2 c _ =>
      simp only
      split
      case isTrue may =>
        obtain ⟨running, _⟩ := State.grantable_iff may
        simp only [State.grantable, Bool.and_eq_true, Option.isNone_iff_eq_none] at may
        exact State.MayIssue.form ⟨ended, .inl running, may.1.2⟩ c
      case isFalse => exact .ite _ ended.of_same ended

/-- The Feeder streams the slot of the grant that is fed. -/
theorem State.feeder_of_fed {s : State} {f : Feed} {g : Grant} (fed : s.fed = some (f, g)) : s.feeder = some f := by
  unfold State.fed at fed
  split at fed
  · cases fed
  · split at fed <;> cases fed
    assumption

theorem execFeedFault_governed (frame : Nat) (cell : Option Nat) (s : State) :
    s.GovernedBy (execFeedFault frame cell s) :=
  .next fun h => by
    split
    · exact h
    case h_2 f g fed =>
      have feeder := State.feeder_of_fed fed
      split
      · refine .ite _ ?_ h
        unfold State.markFault
        simp only
        split <;> exact h.of_same { feeder := by simp [feeder] }
      · exact h

theorem execStreamEnd_governed (s : State) : s.GovernedBy (execStreamEnd s) :=
  .next fun h => by
    split
    · exact h
    · refine .ite _ ?_ h
      split
      · exact State.Governed.endStream h.of_same .whole
      · exact h

theorem execCorrectedEccError_governed (word : Nat) (s : State) : s.GovernedBy (execCorrectedEccError word s) :=
  .next fun h => by
    split
    · exact h
    case h_2 f g fed =>
      have feeder := State.feeder_of_fed fed
      split
      · exact .ite _ (h.of_same { feeder := by simp [feeder] }) h
      · exact h

/-! ##### Faults, reclaim, ageing and purge -/

theorem execFaultClaim_governed (n : Nat) (s : State) : s.GovernedBy (execFaultClaim n s) :=
  .next fun h => by
    split
    · exact h
    · exact State.Governed.takeClaim h.of_same _

theorem execReclaimScanStart_governed (s : State) : s.GovernedBy (execReclaimScanStart s) :=
  .next fun h => by
    split
    · exact .ite _ h.of_same h.of_same
    · exact h

theorem execReclaimScanVisit_governed (s : State) : s.GovernedBy (execReclaimScanVisit s) :=
  .next fun h => by
    split
    · exact h
    · exact .ite _ (h.withPools _) h

theorem execReclaimScanEnd_governed (s : State) : s.GovernedBy (execReclaimScanEnd s) :=
  .next fun h => by
    split
    · exact h
    · exact .ite _ h.of_same h

theorem execSweepTimer_governed (s : State) : s.GovernedBy (execSweepTimer s) :=
  .next fun h => by
    split
    · exact h
    case h_2 t running => exact .ite _ (h.of_same { timer := by simp [running] }) h

theorem State.Governed.sweepQueue (i : Nat) : ∀ (queue : List Nat) {s : State}, s.Governed →
    (State.sweepQueue i queue s).Governed
  | [], _, h => h
  | d :: rest, s, h => by
    rw [State.sweepQueue]
    exact .ite _ (sweepQueue i rest (h.popRelease i d .expired)) h

theorem Sweep.timer_advance (w : Sweep) (i : Nat) : (w.advance i).timer = w.timer := by
  unfold Sweep.advance
  split_ifs <;> rfl

theorem execSweepVisit_governed (s : State) : s.GovernedBy (execSweepVisit s) :=
  .next fun h => by
    split
    · exact h
    case h_2 i _ =>
      have swept : (s.sweepStation i).Governed := by
        unfold State.sweepStation
        exact (State.Governed.sweepQueue i (s.station i).queue h).of_same
      exact swept.of_same { timer := congrArg Option.isSome (Sweep.timer_advance _ _) }

namespace State.Governed
variable {s : State}

theorem purgeHead (h : s.Governed) (i : Nat) (reason : Reason) : (s.purgeHead i reason).Governed := by
  unfold State.purgeHead
  split
  · exact h
  case h_2 d _ _ => exact (h.popRelease i d reason).of_same

theorem purgeEntryLeaves (h : s.Governed) (i : Nat) : (s.purgeEntryLeaves i).Governed := checkStopped h.of_same

end State.Governed

theorem execPurgeStep_governed (s : State) : s.GovernedBy (execPurgeStep s) :=
  .next fun h => by
    split
    · exact h
    case h_2 e _ _ =>
      have stepped := h.purgeHead e.station e.purpose.reason
      exact .ite _ (stepped.purgeEntryLeaves e.station) stepped

/-! ##### Requests -/

namespace State.Governed
variable {s : State}

theorem finish (h : s.Governed) (r : Response) (cursor : Option Cursor) : (s.finish r cursor).Governed :=
  h.of_same
    { limit := by rw [State.finish_eq]; rfl
      requests := by rw [State.finish_eq]; exact fun _ none_ => none_ }

theorem progress (h : s.Governed) (e : Execution) (out : List Byte) : (s.progress e out).Governed := h.of_same

/-- A request is taken outside a reset alone. -/
theorem takeRequest (h : s.Governed) {k : Option RequestKind} {q : Request} {u : State}
    (taken : s.takeRequest k = some (q, u)) : u.Governed ∧ u.inReset = false := by
  unfold State.takeRequest at taken
  split at taken
  · split at taken
    case h_1 rest waiting =>
      split at taken <;> cases taken
      refine ⟨h.of_same { requests := by simp [waiting] }, Bool.eq_false_iff.2 fun during => ?_⟩
      have none_ := (h.clock.retire.2 during).2
      rw [waiting] at none_
      cases none_
    case h_2 => cases taken
  · cases taken

theorem claims {claim : Execution → State → State} (each : ∀ e {u : State}, u.Governed → (claim e u).Governed) :
    ∀ (n : Nat) {s : State}, s.Governed → (State.claims claim n s).Governed
  | 0, _, h => h
  | n + 1, s, h => by
    rw [State.claims]
    split
    · exact h
    · exact claims each n (each _ h)

theorem entryClaim (h : s.Governed) (e : Execution) (entries index : Nat) {result : Except Reason State}
    (effect : ∀ u, result = .ok u → u.Governed) : (s.entryClaim e entries index result).Governed := by
  unfold State.entryClaim
  split
  · exact h.finish _ none
  case h_2 u =>
    have done := effect u rfl
    exact .ite _ (done.finish _ none) (done.progress e [])

end State.Governed

/-- A request executed in one step keeps the laws if its run does, outside a reset and in a state that the request is
not refused in. -/
theorem State.GovernedBy.request {s : State} (k : RequestKind) {run : Request → State → State}
    (runs : ∀ q {u : State}, u.Governed → u.inReset = false → k.stateFault u.sched.state = none → (run q u).Governed) :
    s.GovernedBy (.next (s.request k run)) := by
  refine .next fun h => ?_
  unfold State.request
  split
  · exact h
  case h_2 q u taken =>
    obtain ⟨served, running⟩ := h.takeRequest taken
    split
    · exact served.finish _ none
    case h_2 sound =>
      refine runs q served running (by_contra fun fault => ?_)
      rw [requestFault_eq, if_pos fault] at sound
      split at sound
      · cases sound
      · exact fault sound

/-- A request that does no more than report keeps the laws. -/
theorem State.GovernedBy.report {s : State} (k : RequestKind) {run : Request → State → State}
    (runs : ∀ q {u : State}, u.Governed → (run q u).Governed) : s.GovernedBy (.next (s.request k run)) :=
  .request k fun q _ h _ _ => runs q h

/-- A request executed claim by claim keeps the laws if every claim does. -/
theorem State.GovernedBy.claimRequest {s : State} (k : RequestKind) (fields : Request → State → Option Reason)
    {claim : Execution → State → State} (each : ∀ e {u : State}, u.Governed → (claim e u).Governed) (n : Nat) :
    s.GovernedBy (.next (s.claimRequest k fields claim n)) := by
  refine .next fun h => ?_
  unfold State.claimRequest
  split
  · exact .ite _ (h.claims each n) h
  · split
    · exact h
    case h_2 q u taken =>
      obtain ⟨served, _⟩ := h.takeRequest taken
      split
      · exact served.finish _ none
      · exact State.Governed.claims each n served.of_same

/-! ##### Requests to the scheduler -/

namespace State.Governed
variable {s : State}

/-- A changed retire limit is handed to the scheduler (R145, R181). -/
theorem writeOptions (h : s.Governed) (o : Options) : (s.writeOptions o).Governed := by
  unfold State.writeOptions
  simp only
  split
  case isTrue same => exact h.of_same { limit := same }
  case isFalse =>
    obtain ⟨timer, _, resets⟩ := h.clock
    refine ⟨by simpa using h.slots, State.SchedulerRelations.checkRetired ?_, .of_checkRetired timer resets,
      h.feeder_of_sched⟩
    exact h.relations.of_same rfl rfl rfl rfl

/-- START is taken in OFF, outside a reset and below the retire limit alone (R138). -/
theorem startScheduler (h : s.Governed) (off : s.sched.state = .off) (running : s.inReset = false)
    (below : s.bm.retiredCount < s.rp.options.retireLimit) : s.startScheduler.Governed := by
  obtain ⟨_, _, _, closed, link⟩ := h.relations
  have started (n : SchedState) (on : n ≠ .off) : (s.setSched n).Clocked :=
    ⟨h.clock.timer.setSched fun is => absurd is on, fun _ => below, fun during => by
      rw [show s.inReset = true from during] at running
      cases running⟩
  unfold State.startScheduler
  split
  case isTrue clear =>
    exact ⟨h.slots, ⟨fun _ => clear, nofun, nofun, nofun, link⟩, started .running nofun, h.feeder_of_sched⟩
  case isFalse present =>
    exact ⟨h.slots, ⟨nofun, fun _ => Bool.eq_false_iff.2 present, nofun, fun _ => closed (.inr off), link⟩,
      (started .frozen nofun).record _, h.feeder_of_sched⟩

/-- STOP is taken in RUNNING, FREEZING and FROZEN alone (R143). -/
theorem stopScheduler (h : s.Governed) (open_ : s.sched.state.open = true) : s.stopScheduler.Governed := by
  have moves : s.sched.state.Moves .stopping := by
    cases state : s.sched.state
    case running | freezing | frozen => decide
    case off | stopping | halted =>
      rw [state] at open_
      cases open_
  have stopping : (s.setSched .stopping).Governed :=
    ⟨h.slots, ⟨nofun, nofun, nofun, nofun, h.link⟩, h.clock.setSched moves, h.feeder_of_sched⟩
  unfold State.stopScheduler
  exact checkStopped stopping.of_same

/-! ##### Requests on station records -/

theorem programEntry (h : s.Governed) (body : List Byte) (k : Nat) :
    ∀ u, s.programEntry body k = .ok u → u.Governed := by
  intro u effect
  unfold State.programEntry at effect
  split at effect
  · cases effect
  · simp only at effect
    split at effect
    · cases effect
    · cases effect
    · cases effect
      exact h.of_same
    · split at effect <;> cases effect
      exact h.of_same

theorem listForPurge (h : s.Governed) (i : Nat) (p : Purpose) : (s.listForPurge i p).Governed :=
  .ite _ (checkStopped h.of_same) h.of_same

theorem removeEntry (h : s.Governed) (i : Nat) : ∀ u, s.removeEntry i = .ok u → u.Governed := by
  have removed :
      (((s.change i false fun r => { r with admin := .purging }).cancelPoll i).listForPurge i .remove).Governed :=
    listForPurge h.of_same i .remove
  intro u effect
  unfold State.removeEntry at effect
  split at effect
  · cases effect
  · split at effect <;> cases effect
    · exact h
    · exact removed
    · exact removed

theorem clearEntry (h : s.Governed) (i : Nat) : ∀ u, s.clearEntry i = .ok u → u.Governed := by
  intro u effect
  unfold State.clearEntry at effect
  split at effect
  · cases effect
  · simp only at effect
    split at effect
    · cases effect
    · cases effect
    · split at effect <;> cases effect
      exact h.of_same
    · split at effect <;> cases effect
      exact h.of_same

theorem positionClaim (h : s.Governed) (e : Execution) (hold : Bool) : (s.positionClaim e hold).Governed := by
  have held : (s.holdPosition e.done (mapBit e.request.body e.done) hold).Governed := .ite _ h.of_same h
  exact .ite _ (held.finish _ none) (held.progress e [])

theorem readClaim (h : s.Governed) (e : Execution) : (s.readClaim e).Governed := by
  have cleared (c : Prop) [Decidable c] (i : Nat) : (if c then s.clearCounters i else s).Governed :=
    .ite _ (.ite _ h h.of_same) h
  exact .ite _ ((cleared _ _).finish _ _) ((cleared _ _).progress e _)

theorem counterClaim (h : s.Governed) (e : Execution) : (s.counterClaim e).Governed := by
  have cleared (c : Prop) [Decidable c] : (if c then { s with ctr := s.ctr.clear e.done } else s).Governed :=
    .ite _ h.of_same h
  exact .ite _ ((cleared _).finish _ none) ((cleared _).progress e _)

end State.Governed

/-! ##### Requests, as commands -/

theorem execIdentify_governed (s : State) : s.GovernedBy (execIdentify s) := .report _ fun _ _ h => h.finish _ none

theorem execSetOptions_governed (s : State) : s.GovernedBy (execSetOptions s) :=
  .report _ fun _ _ h => by
    split
    · exact h.finish _ none
    · exact .ite _ (h.finish _ none) ((h.writeOptions _).finish _ none)

theorem execStart_governed (s : State) : s.GovernedBy (execStart s) :=
  .request _ fun _ u h running sound => by
    have off : u.sched.state = .off := by
      simp only [RequestKind.stateFault] at sound
      split at sound
      · assumption
      · cases sound
    split
    · exact h.finish _ none
    · split
      case isTrue => exact h.finish _ none
      case isFalse below => exact (h.startScheduler off running (not_le.1 below)).finish _ none

theorem execStop_governed (s : State) : s.GovernedBy (execStop s) :=
  .request _ fun _ u h _ sound => by
    have open_ : u.sched.state.open = true := by
      simp only [RequestKind.stateFault] at sound
      split at sound
      · assumption
      · cases sound
    exact (h.stopScheduler open_).finish _ none

theorem execFreeze_governed (s : State) : s.GovernedBy (execFreeze s) :=
  .report _ fun _ _ h => (h.addCause (c := .host) h.link).finish _ none

theorem execThaw_governed (s : State) : s.GovernedBy (execThaw s) :=
  .report _ fun _ _ h => (h.removeCause (c := .host) h.link).finish _ none

theorem execPartReset_governed (s : State) : s.GovernedBy (execPartReset s) :=
  .report _ fun _ _ h => State.Governed.finish h.of_same _ none

theorem execBacklogMap_governed (s : State) : s.GovernedBy (execBacklogMap s) := .report _ fun _ _ h => h.finish _ none

theorem execClassWrite_governed (s : State) : s.GovernedBy (execClassWrite s) :=
  .report _ fun _ _ h => .ite _ (h.finish _ none) (State.Governed.finish h.of_same _ none)

theorem execRateWrite_governed (s : State) : s.GovernedBy (execRateWrite s) :=
  .report _ fun _ _ h => .ite _ (h.finish _ none) (State.Governed.finish h.of_same _ none)

theorem execTableCommit_governed (s : State) : s.GovernedBy (execTableCommit s) :=
  .report _ fun _ u h => by
    have classes : u.commitClasses.Governed := by
      unfold State.commitClasses
      exact h.of_same
    have rates {v : State} (g : v.Governed) : v.commitRates.Governed := by
      unfold State.commitRates
      exact g.of_same
    split
    · exact classes.finish _ none
    · exact (rates h).finish _ none
    · exact (rates classes).finish _ none
    · exact h.finish _ none

theorem execTableRead_governed (s : State) : s.GovernedBy (execTableRead s) :=
  .report _ fun _ _ h => by
    simp only
    split <;> exact h.finish _ none

theorem execUnknownRequest_governed (s : State) : s.GovernedBy (execUnknownRequest s) :=
  .next fun h => by
    split
    · exact h
    case h_2 taken => exact (h.takeRequest taken).1.finish _ none

theorem execStationProgram_governed (n : Nat) (s : State) : s.GovernedBy (execStationProgram n s) :=
  .claimRequest _ _ (fun e _ h => h.entryClaim e _ _ (h.programEntry _ _)) n

theorem execStationRemove_governed (n : Nat) (s : State) : s.GovernedBy (execStationRemove n s) :=
  .claimRequest _ _ (fun e _ h => h.entryClaim e _ _ (h.removeEntry _)) n

theorem execStationClearFault_governed (n : Nat) (s : State) : s.GovernedBy (execStationClearFault n s) :=
  .claimRequest _ _ (fun e _ h => h.entryClaim e _ _ (h.clearEntry _)) n

theorem execStationHold_governed (n : Nat) (s : State) : s.GovernedBy (execStationHold n s) :=
  .claimRequest _ _ (fun e _ h => h.positionClaim e true) n

theorem execStationRelease_governed (n : Nat) (s : State) : s.GovernedBy (execStationRelease n s) :=
  .claimRequest _ _ (fun e _ h => h.positionClaim e false) n

theorem execStationRead_governed (n : Nat) (s : State) : s.GovernedBy (execStationRead n s) :=
  .claimRequest _ _ (fun e _ h => h.readClaim e) n

theorem execCounterRead_governed (n : Nat) (s : State) : s.GovernedBy (execCounterRead n s) :=
  .claimRequest _ _ (fun e _ h => h.counterClaim e) n

/-! #### Every step (O58) -/

theorem exec_governed (c : Instr) (s : State) : s.GovernedBy (exec c s) := by
  cases c with
  | powerOnReset selfTest => exact execPowerOnReset_governed selfTest s
  | selfTest failed => exact execSelfTest_governed failed s
  | softReset => exact execSoftReset_governed s
  | ingressSpaceClaim header => exact execIngressSpaceClaim_governed header s
  | downFrameReceived frame => exact execDownFrameReceived_governed frame s
  | requestFrameReceived frame => exact execRequestFrameReceived_governed frame s
  | systemLinkBadFrame frame => exact execSystemLinkBadFrame_governed frame s
  | admissionDecision => exact execAdmissionDecision_governed s
  | admissionRetry => exact execAdmissionRetry_governed s
  | append => exact execAppend_governed s
  | transmitterChoice => exact execTransmitterChoice_governed s
  | disposalMessageSent => exact execDisposalMessageSent_governed s
  | upFrameSent => exact execUpFrameSent_governed s
  | startEventSent => exact execStartEventSent_governed s
  | receiveLockChange lock => exact execReceiveLockChange_governed lock s
  | linkUp => exact execLinkUp_governed s
  | linkDown => exact execLinkDown_governed s
  | radioLinkBadFrame frame => exact execRadioLinkBadFrame_governed frame s
  | uplinkSpaceClaim header => exact execUplinkSpaceClaim_governed header s
  | upMessage frame => exact execUpMessage_governed frame s
  | doze frame => exact execDoze_governed frame s
  | wake frame => exact execWake_governed frame s
  | poll frame => exact execPoll_governed frame s
  | mediumHold frame => exact execMediumHold_governed frame s
  | mediumRelease frame => exact execMediumRelease_governed frame s
  | done frame => exact execDone_governed frame s
  | grantTimeout k => exact execGrantTimeout_governed k s
  | arbiterChoice => exact execArbiterChoice_governed s
  | grantFormation => exact execGrantFormation_governed s
  | feedFault frame cell => exact execFeedFault_governed frame cell s
  | streamEnd => exact execStreamEnd_governed s
  | faultClaim n => exact execFaultClaim_governed n s
  | reclaimScanStart => exact execReclaimScanStart_governed s
  | reclaimScanVisit => exact execReclaimScanVisit_governed s
  | reclaimScanEnd => exact execReclaimScanEnd_governed s
  | sweepTimer => exact execSweepTimer_governed s
  | sweepVisit => exact execSweepVisit_governed s
  | purgeStep => exact execPurgeStep_governed s
  | identify => exact execIdentify_governed s
  | setOptions => exact execSetOptions_governed s
  | start => exact execStart_governed s
  | stop => exact execStop_governed s
  | freeze => exact execFreeze_governed s
  | thaw => exact execThaw_governed s
  | stationProgram n => exact execStationProgram_governed n s
  | stationRemove n => exact execStationRemove_governed n s
  | stationHold n => exact execStationHold_governed n s
  | stationRelease n => exact execStationRelease_governed n s
  | stationClearFault n => exact execStationClearFault_governed n s
  | stationRead n => exact execStationRead_governed n s
  | backlogMap => exact execBacklogMap_governed s
  | classWrite => exact execClassWrite_governed s
  | rateWrite => exact execRateWrite_governed s
  | tableCommit => exact execTableCommit_governed s
  | tableRead => exact execTableRead_governed s
  | counterRead n => exact execCounterRead_governed n s
  | partReset => exact execPartReset_governed s
  | unknownRequest => exact execUnknownRequest_governed s
  | correctedEccError word => exact execCorrectedEccError_governed word s

/-- A step is a microsecond or the command at the front of the queue. -/
theorem step_governed {s t : State} (h : s.Governed) (stepped : step s = .next t) : t.Governed := by
  unfold step at stepped
  split at stepped
  · cases stepped
    exact h.tick
  case h_2 c rest _ => exact exec_governed c _ h.of_same t stepped

/-- Settles O58: every command is made of operations that keep the four laws together, and so is the passing of time. -/
theorem stepKeepsSchedulerLaws : Obligations.StepKeepsSchedulerLaws := by
  rintro s t ⟨_, _, _, _, _, _, _, _, _, slots⟩ relations timer feeder retire stepped
  have kept := step_governed ⟨slots, relations, ⟨timer, retire⟩, feeder⟩ stepped
  exact ⟨kept.relations, kept.clock.timer, kept.feeder, kept.clock.retire⟩

end Sys2Proof.Machine
end

section
/-! PROOFS. SET OPTIONS, PART RESET, START and STOP (R133, R138, R143 to R145, R151, R180, R181, R188, O45, O46). -/
set_option Elab.async false

namespace Sys2Proof.Machine

/-! ### The answer of a request served in one step -/

section
variable (s : State) (q : Request) (rest : List Request)

theorem State.finish_refused (reason : Reason) :
    (s.awaiting rest).finish (q.refused reason) none = s.answered rest (refusedResponse q reason) none := by
  rw [State.finish_eq]
  rfl

theorem State.finish_accepted (result : List Byte) :
    (s.awaiting rest).finish (q.accepted result) none = s.answered rest (acceptedResponse q result) none := by
  rw [State.finish_eq]
  rfl

/-- What is handed to the scheduler does not read the Request Queue. -/
theorem State.haltedIfDue_awaiting : (s.awaiting rest).haltedIfDue = s.haltedIfDue.awaiting rest := by
  unfold State.haltedIfDue
  split_ifs <;> rfl

theorem State.offIfDrained_awaiting : (s.awaiting rest).offIfDrained = s.offIfDrained.awaiting rest := by
  have slots : (s.awaiting rest).openSlots = s.openSlots := rfl
  unfold State.offIfDrained
  simp only [slots]
  split_ifs <;> rfl

end

/-! ### SET OPTIONS (R145, R180, R181) -/

/-- The ranges of R180, on the fields of a SET OPTIONS body (12.4). -/
def OptionsInRange (body : List Byte) : Prop :=
  (byteAt body 0).toNat ≤ 1 ∧ (byteAt body 1).toNat ≤ 1
    ∧ (1 ≤ (byteAt body 2).toNat ∧ (byteAt body 2).toNat ≤ 4) ∧ 1 ≤ (byteAt body 3).toNat
    ∧ (10 ≤ fieldAt body 4 2 ∧ fieldAt body 4 2 ≤ 1000) ∧ (16 ≤ fieldAt body 6 2 ∧ fieldAt body 6 2 ≤ 1024)

/-- The Options that a SET OPTIONS body in range carries. -/
def optionsAt (body : List Byte) : Options where
  format := if (byteAt body 0).toNat = 0 then .compact else .full
  lifetime := if (byteAt body 1).toNat = 0 then .honor else .ignore
  slots := (byteAt body 2).toNat
  grantTimeout := (byteAt body 3).toNat
  sweep := fieldAt body 4 2
  retireLimit := fieldAt body 6 2

/-- The bound 255 of the grant timeout holds of every byte. -/
theorem optionsOf_of_inRange {body : List Byte} (valid : OptionsInRange body) :
    optionsOf body = some (optionsAt body) := by
  obtain ⟨format, lifetime, ⟨slots, slots'⟩, timeout, ⟨sweep, sweep'⟩, limit, limit'⟩ := valid
  have timeout' : (byteAt body 3).toNat ≤ 255 := Nat.le_of_lt_succ (byteAt body 3).isLt
  exact if_pos ⟨format, lifetime, slots, slots', timeout, timeout', sweep, sweep', limit, limit'⟩

theorem optionsOf_of_not_inRange {body : List Byte} (invalid : ¬ OptionsInRange body) : optionsOf body = none := by
  refine if_neg fun range => invalid ?_
  obtain ⟨format, lifetime, slots, slots', timeout, _, sweep, sweep', limit, limit'⟩ := range
  exact ⟨format, lifetime, ⟨slots, slots'⟩, timeout, ⟨sweep, sweep'⟩, limit, limit'⟩

theorem beBytes_bit {b : Byte} (h : b.toNat ≤ 1) : beBytes 1 (if b.toNat = 0 then 0 else 1) = [b] := by
  have bit : (if b.toNat = 0 then 0 else 1) = b.toNat := by split <;> omega
  rw [bit, beBytes_byte]

theorem code_format_optionsAt (body : List Byte) :
    (optionsAt body).format.code = if (byteAt body 0).toNat = 0 then 0 else 1 := apply_ite ReportFormat.code _ _ _

theorem code_lifetime_optionsAt (body : List Byte) :
    (optionsAt body).lifetime.code = if (byteAt body 1).toNat = 0 then 0 else 1 := apply_ite LifetimeMode.code _ _ _

/-- The Options written, as the response gives them, are the body that carried them. -/
theorem bytes_optionsAt {body : List Byte} (length : body.length = 8) (valid : OptionsInRange body) :
    (optionsAt body).bytes = body := by
  obtain ⟨format, lifetime, _⟩ := valid
  match body, length with
  | [b0, b1, b2, b3, b4, b5, b6, b7], _ =>
    have sweep : beBytes 2 (fieldAt [b0, b1, b2, b3, b4, b5, b6, b7] 4 2) = [b4, b5] := beBytes_beNat [b4, b5]
    have limit : beBytes 2 (fieldAt [b0, b1, b2, b3, b4, b5, b6, b7] 6 2) = [b6, b7] := beBytes_beNat [b6, b7]
    rw [Options.bytes, code_format_optionsAt, code_lifetime_optionsAt, beBytes_bit format, beBytes_bit lifetime]
    simp only [optionsAt, beBytes_byte, sweep, limit]
    rfl

/-- The Options replaced whole. -/
def State.withOptions (s : State) (o : Options) : State := { s with rp := { s.rp with options := o } }

/-- A changed retire limit is handed to the scheduler (R145). -/
theorem State.writeOptions_awaiting (s : State) (rest : List Request) (o : Options) :
    (s.awaiting rest).writeOptions o =
      (if o.retireLimit = s.rp.options.retireLimit then s.withOptions o
        else (s.withOptions o).haltedIfDue).awaiting rest := by
  unfold State.writeOptions
  simp only [State.checkRetired_eq]
  split
  case isTrue => rfl
  case isFalse => exact (s.withOptions o).haltedIfDue_awaiting rest

section
variable {s : State} {q : Request} {rest : List Request} (serves : s.Serves .setOptions q rest)
include serves

theorem exec_setOptions_badField (invalid : ¬ OptionsInRange q.body) :
    exec .setOptions s = .next (s.answered rest (refusedResponse q .badField) none) := by
  show execSetOptions s = _
  rw [execSetOptions, State.request_run serves, optionsOf_of_not_inRange invalid]
  exact congrArg _ (s.finish_refused q rest .badField)

theorem exec_setOptions_badState (valid : OptionsInRange q.body)
    (changed : (optionsAt q.body).slots ≠ s.rp.options.slots) (busy : s.sched.state ≠ .off) :
    exec .setOptions s = .next (s.answered rest (refusedResponse q .badState) none) := by
  show execSetOptions s = _
  rw [execSetOptions, State.request_run serves, optionsOf_of_inRange valid]
  simp only
  rw [if_pos ⟨changed, busy⟩, State.finish_refused]

theorem exec_setOptions_accepted (valid : OptionsInRange q.body)
    (free : (optionsAt q.body).slots = s.rp.options.slots ∨ s.sched.state = .off) :
    exec .setOptions s = .next
      ((if (optionsAt q.body).retireLimit = s.rp.options.retireLimit then s.withOptions (optionsAt q.body)
        else (s.withOptions (optionsAt q.body)).haltedIfDue).answered rest (acceptedResponse q q.body) none) := by
  have length : q.body.length = 8 := by
    obtain ⟨_, _, _, _, _, _, _, ok⟩ := serves
    exact eq_of_beq ok
  show execSetOptions s = _
  rw [execSetOptions, State.request_run serves, optionsOf_of_inRange valid]
  simp only
  rw [if_neg fun ⟨changed, busy⟩ => free.elim changed busy, State.writeOptions_awaiting, State.finish_accepted,
    bytes_optionsAt length valid]

end

/-! ### PART RESET (R188) -/

theorem exec_partReset {s : State} {q : Request} {rest : List Request} (serves : s.Serves .partReset q rest) :
    exec .partReset s = .next
      (({ s with rp := { s.rp with stopped := true } } : State).answered rest (acceptedResponse q []) none) := by
  show execPartReset s = _
  rw [execPartReset, State.request_run serves]
  exact congrArg _ (State.finish_accepted { s with rp := { s.rp with stopped := true } } q rest [])

/-- Settles O45: the body is read whole before anything is written. -/
theorem optionsAreWrittenWhole : Obligations.OptionsAreWrittenWhole := by
  intro s q rest
  exact ⟨fun serves => ⟨exec_setOptions_badField serves, exec_setOptions_badState serves,
    exec_setOptions_accepted serves⟩, exec_partReset⟩

/-! ### START (R133, R138, R147, R151) -/

/-- The station keeps START from being taken (R138). -/
def State.RateUnset (s : State) (i : Nat) : Prop := (s.station i).admin = .active ∧ (s.liveRate (s.station i)).cost = 0

theorem State.unsetStation_eq_some {s : State} {i : Nat} (below : i < 512) (unset : s.RateUnset i)
    (lowest : ∀ j, j < i → ¬ s.RateUnset j) : s.unsetStation = some i := by
  refine List.find?_range_eq_some.2 ⟨by simpa [State.RateUnset] using unset, List.mem_range.2 below, fun j less => ?_⟩
  simpa [State.RateUnset, imp_iff_not_or] using lowest j less

theorem State.unsetStation_eq_none {s : State} (set_ : ∀ i, i < 512 → ¬ s.RateUnset i) : s.unsetStation = none := by
  refine List.find?_range_eq_none.2 fun i below => ?_
  simpa [State.RateUnset, imp_iff_not_or] using set_ i below

theorem CauseSet.isEmpty_iff (c : CauseSet) :
    c.isEmpty = true ↔ c = { host := false, radio := false, link := false } := by
  obtain ⟨host, radio, link⟩ := c
  simp [CauseSet.isEmpty, and_assoc]

/-- The scheduler leaves OFF for `n`: the sweep timer starts (R151). -/
def State.started (s : State) (n : SchedState) : State :=
  { s with
    sched := { s.sched with state := n }
    sweep := { s.sweep with timer := s.freshSweepTimer } }

theorem State.setSched_of_off {s : State} (off : s.sched.state = .off) {n : SchedState} (sweeps : n.sweeps = true)
    (moves : n ≠ .stopping) : s.setSched n = s.started n := by
  have starts : s.sweep.onState s.rp.options.sweep s.sched.state n = { s.sweep with timer := s.freshSweepTimer } := by
    rw [Sweep.onState, if_neg moves, if_pos (by rw [off, sweeps]; rfl)]
    rfl
  rw [State.setSched, starts]
  rfl

theorem State.startScheduler_of_clear {s : State} (off : s.sched.state = .off)
    (clear : s.sched.causes = { host := false, radio := false, link := false }) :
    s.startScheduler = s.started .running := by
  rw [State.startScheduler, if_pos ((CauseSet.isEmpty_iff _).2 clear), State.setSched_of_off off rfl (by decide)]

/-- A start with a cause present is recorded as any other entry into FROZEN (R147). -/
theorem State.startScheduler_of_present {s : State} (off : s.sched.state = .off)
    (present : s.sched.causes ≠ { host := false, radio := false, link := false }) :
    s.startScheduler = (s.started .frozen).record (.frozen s.sched.causes) := by
  rw [State.startScheduler, if_neg (mt (CauseSet.isEmpty_iff _).1 present), State.enterFrozen,
    State.setSched_of_off off rfl (by decide)]

section
variable {s : State} {q : Request} {rest : List Request} (serves : s.Serves .start q rest)
include serves

theorem State.Serves.start_off : s.sched.state = .off := by
  obtain ⟨_, _, _, _, _, _, valid, _⟩ := serves
  simpa [RequestKind.stateFault] using valid

theorem exec_start_rateUnset (i : Nat) (below : i < 512) (unset : s.RateUnset i)
    (lowest : ∀ j, j < i → ¬ s.RateUnset j) :
    exec .start s = .next (s.answered rest { refusedResponse q .rateUnset with station := i } none) := by
  have found : (s.awaiting rest).unsetStation = some i := State.unsetStation_eq_some below unset lowest
  show execStart s = _
  rw [execStart, State.request_run serves]
  simp only [found]
  rw [State.finish_eq]
  rfl

theorem exec_start_retireFull (set_ : ∀ i, i < 512 → ¬ s.RateUnset i)
    (full : s.rp.options.retireLimit ≤ s.bm.retiredCount) :
    exec .start s = .next (s.answered rest (refusedResponse q .retireFull) none) := by
  have none_ : (s.awaiting rest).unsetStation = none := State.unsetStation_eq_none set_
  show execStart s = _
  rw [execStart, State.request_run serves]
  simp only [none_]
  rw [if_pos full, State.finish_refused]

/-- A START that is taken, whose effect is `t`, is answered with the state it leads to. -/
theorem exec_start_accepted {t : State} {n : SchedState} {code : Byte} (set_ : ∀ i, i < 512 → ¬ s.RateUnset i)
    (below : s.bm.retiredCount < s.rp.options.retireLimit) (effect : (s.awaiting rest).startScheduler = t.awaiting rest)
    (state : t.sched.state = n) (is : beBytes 1 n.code = [code]) :
    exec .start s = .next (t.answered rest (acceptedResponse q [code]) none) := by
  have none_ : (s.awaiting rest).unsetStation = none := State.unsetStation_eq_none set_
  show execStart s = _
  rw [execStart, State.request_run serves]
  simp only [none_, effect]
  rw [if_neg (Nat.not_le.2 below), State.finish_accepted, state, is]

end

/-! ### STOP (R143, R144, R151) -/

/-- Asking for STOP entries station by station adds one entry for each station that wants one and has none: an entry
asked for before is another station's. -/
theorem foldl_askPurge_stop (s : State) : ∀ (stations : List Nat) (list : List PurgeEntry), stations.Nodup →
    stations.foldl (fun list i => if (s.station i).queue = [] then list else askPurge list i .stop) list
      = list ++ (stations.filter fun i => decide ((s.station i).queue ≠ [] ∧ ¬ ∃ e ∈ list, e.station = i)).map
          fun i => { station := i, purpose := .stop }
  | [], list, _ => (List.append_nil list).symm
  | i :: rest, list, distinct => by
    obtain ⟨new, distinct⟩ := List.nodup_cons.1 distinct
    rw [List.foldl_cons, foldl_askPurge_stop s rest _ distinct, askPurge_stop]
    by_cases empty : (s.station i).queue = []
    · simp [empty]
    · by_cases listed : ∃ e ∈ list, e.station = i
      · simp [empty, listed]
      · have others : ∀ j ∈ rest, i ≠ j := fun j there same => new (same ▸ there)
        have same : (rest.filter fun j => decide ((s.station j).queue ≠ []
              ∧ ¬ ∃ e ∈ list ++ [{ station := i, purpose := .stop }], e.station = j))
            = rest.filter fun j => decide ((s.station j).queue ≠ [] ∧ ¬ ∃ e ∈ list, e.station = j) := by
          refine List.filter_congr fun j there => ?_
          simp [or_and_right, exists_or, others j there]
        rw [if_neg empty, if_neg listed, same, List.filter_cons_of_pos (by simpa using ⟨empty, by simpa using listed⟩),
          List.map_cons, List.append_assoc, List.singleton_append]

theorem State.purgeForStop_eq (s : State) :
    s.purgeForStop = s.purge ++ ((List.range 512).filter fun i =>
      decide ((s.station i).queue ≠ [] ∧ ¬ ∃ e ∈ s.purge, e.station = i)).map fun i =>
        { station := i, purpose := .stop } :=
  foldl_askPurge_stop s _ _ List.nodup_range

/-- STOPPING entered, with the purge entries `purge`: the sweep timer stops (R143, R151). -/
def State.stopping (s : State) (purge : List PurgeEntry) : State :=
  { s with
    purge := purge
    sched := { s.sched with state := .stopping }
    sweep := { s.sweep with timer := none, heldBack := false } }

theorem State.stopScheduler_awaiting (s : State) (rest : List Request) :
    (s.awaiting rest).stopScheduler = (s.stopping s.purgeForStop).offIfDrained.awaiting rest := by
  rw [State.stopScheduler, State.checkStopped_eq]
  exact (s.stopping s.purgeForStop).offIfDrained_awaiting rest

/-- STOPPING may end at once (R144). -/
theorem State.state_offIfDrained {s : State} (stopping : s.sched.state = .stopping) :
    s.offIfDrained.sched.state = .off ∨ s.offIfDrained.sched.state = .stopping := by
  unfold State.offIfDrained
  split
  case isTrue => exact .inl rfl
  case isFalse => exact .inr stopping

theorem State.beBytes_offIfDrained {s : State} (stopping : s.sched.state = .stopping) :
    beBytes 1 s.offIfDrained.sched.state.code = [if s.offIfDrained.sched.state = .off then 0 else 4] := by
  obtain off | stays := State.state_offIfDrained stopping
  · rw [off]
    rfl
  · rw [stays]
    rfl

theorem exec_stop {s : State} {q : Request} {rest : List Request} (serves : s.Serves .stop q rest) :
    exec .stop s = .next ((s.stopping s.purgeForStop).offIfDrained.answered rest
      (acceptedResponse q [if (s.stopping s.purgeForStop).offIfDrained.sched.state = .off then 0 else 4]) none) := by
  show execStop s = _
  rw [execStop, State.request_run serves]
  simp only
  rw [State.stopScheduler_awaiting, State.finish_accepted, State.beBytes_offIfDrained rfl]

/-- Settles O46: START by the checks in their order, STOP by induction on the stations asked. -/
theorem startAndStopMoveScheduler : Obligations.StartAndStopMoveScheduler := by
  intro s q rest
  refine ⟨fun serves => ⟨exec_start_rateUnset serves, exec_start_retireFull serves, fun set_ below =>
    ⟨fun clear => ?_, fun present => ?_⟩⟩, fun serves => ?_⟩
  · exact exec_start_accepted (t := s.started .running) serves set_ below
      (State.startScheduler_of_clear (s := s.awaiting rest) serves.start_off clear) (n := .running) rfl rfl
  · exact exec_start_accepted (t := (s.started .frozen).record (.frozen s.sched.causes)) serves set_ below
      (State.startScheduler_of_present (s := s.awaiting rest) serves.start_off present) (n := .frozen) rfl rfl
  · rw [exec_stop serves, State.purgeForStop_eq]
    rfl

end Sys2Proof.Machine
end

section
/-! PROOFS. The expiry of a frame and the ends of sent frames (R149, O28; R11, R19, R36, R161, O15). -/
set_option Elab.async false

namespace Sys2Proof.Machine

/-! ### Expiry (R149) -/

/-- The Lifetime field is honored only where it is set and below the maximum age. -/
theorem effectiveLifetime_eq (mode : LifetimeMode) (lifetime maxAge : Nat) : effectiveLifetime mode lifetime maxAge =
    if mode = .honor ∧ 1 ≤ lifetime ∧ lifetime ≤ maxAge - 1 then lifetime else maxAge := by
  cases mode with
  | ignore => rfl
  | honor =>
    simp only [effectiveLifetime, true_and]
    split_ifs <;> omega

/-- Settles O28: the effective lifetime, then the comparison of the model. -/
theorem frameExpiry : Obligations.FrameExpiry := by
  intro s r d entry field lifetime
  rw [State.expired, effectiveLifetime_eq]
  rfl

/-! ### The end of a frame on the System Link (R11, R19, R36, R161) -/

/-- The state after the first `n` descriptors of the Disposal List have been returned and the line is idle. -/
def State.recordsSent (s : State) (n : Nat) : State :=
  { s with
    tx := { s.tx with line := none }
    disposal := s.disposal.drop n
    bm := BufferManager.evaluateFrom s.startUnsent s.bm (s.bm.returnDescs (s.disposal.take n)) }

/-- With the line idle, whether START waits to be sent is as with a frame on it that does not carry START (R189). -/
theorem State.startUnsent_lineEnds {s : State} {f : OutFrame} (line : s.tx.line = some f)
    (other : f.carriesStart = false) (disposal : List Nat) :
    State.startUnsent { s with tx := { s.tx with line := none }, disposal := disposal } = s.startUnsent := by
  simp [State.startUnsent, line, other]

section
variable {s : State} {flag : Bool}

theorem exec_disposalMessageSent {stamp : Stamp} {records : List DisposalRecord}
    (line : s.tx.line = some { pauseFlag := flag, body := .disposal stamp records }) :
    exec .disposalMessageSent s = .next (s.recordsSent records.length) := by
  have retired : (s.bm.returnDescs (s.disposal.take records.length)).retiredCount ≤ s.bm.retiredCount := by
    rw [BufferManager.returnDescs_eq]
    exact le_refl _
  show execDisposalMessageSent s = _
  simp only [execDisposalMessageSent, line]
  refine congrArg Host.Outcome.next ((State.withPools_of_le _ _ ?_).trans ?_)
  · exact retired
  · rw [State.startUnsent_lineEnds line rfl]
    rfl

/-- The descriptors of a message are returned in order, and PAUSE is evaluated after them. -/
theorem State.recordsSent_returns (canonical : s.Canonical) (n : Nat) :
    let t := s.recordsSent n
    t = { s with
        tx := { s.tx with line := none }
        disposal := s.disposal.drop n
        bm := { s.bm with descs := t.bm.descs, freeDescs := t.bm.freeDescs, pauseWanted := t.bm.pauseWanted } }
      ∧ t.bm.freeDescs.toList = s.bm.freeDescs.toList ++ s.disposal.take n
      ∧ (∀ d, d ∈ s.disposal.take n → t.desc d = Descriptor.cleared)
      ∧ OtherDescsKeep s t (s.disposal.take n)
      ∧ PauseFollows s t := by
  intro t
  obtain ⟨_, _, descs, _⟩ := canonical
  have form := BufferManager.returnDescs_eq (s.disposal.take n) s.bm
  have reads (d : Nat) : t.desc d = if d ∈ s.disposal.take n then Descriptor.cleared else s.desc d :=
    BufferManager.desc_returnDescs (s.disposal.take n) s.bm d descs
  refine ⟨?_, BufferManager.freeDescs_returnDescs _ s.bm, fun d sent => by rw [reads, if_pos sent],
    fun d other => by rw [reads, if_neg other], pauseFollows_evaluateFrom rfl (by rw [form])⟩
  simp only [t, State.recordsSent]
  rw [form]
  rfl

theorem exec_upFrameSent {u : UpEntry} (line : s.tx.line = some { pauseFlag := flag, body := .up u }) :
    exec .upFrameSent s = .next
      { s with tx := { s.tx with line := none }, uplink := { s.uplink with entries := s.uplink.entries.tail } } := by
  show execUpFrameSent s = _
  simp only [execUpFrameSent, line, List.drop_one]

theorem exec_startEventSent {stamp : Stamp} {power : Bool} {result : BitVec 16}
    (line : s.tx.line = some { pauseFlag := flag, body := .event { stamp := stamp, event := .start power result } }) :
    exec .startEventSent s = .next
      { s with
        tx := { s.tx with line := none }
        bm := { s.bm with
          pauseWanted :=
            if s.bm.freeGeneral < 256 ∨ s.bm.freeCellCount < 512 then true
            else if 512 ≤ s.bm.freeGeneral ∧ 1024 ≤ s.bm.freeCellCount then false
            else s.bm.pauseWanted } } := by
  show execStartEventSent s = _
  simp only [execStartEventSent, line]
  rfl

end

/-- Settles O15: each command by the frame on the line. -/
theorem sentFramesLeaveTheirUnits : Obligations.SentFramesLeaveTheirUnits := by
  intro s flag
  refine ⟨fun stamp records canonical line => ?_, fun u => exec_upFrameSent, fun stamp power result line => ?_⟩
  · exact ⟨_, exec_disposalMessageSent line, s.recordsSent_returns canonical records.length⟩
  · exact exec_startEventSent line

end Sys2Proof.Machine
end

section
/-! PROOFS. The Age Sweep and the Purge Engine (09 §9.2, 9.3): frames taken from a queue in one removal and released in
order, and the lists following after the releases (R149 to R157, O41, O42). -/
set_option Elab.async false

namespace Sys2Proof.Machine

/-! ### A record changed before the lists follow (R57) -/

/-- Where eligibility has not changed the hand-over moves nothing. -/
theorem State.relist_own (s : State) (i : Nat) (freed : Bool) : s.relist i (s.station i).eligible freed = s := by
  rcases s.relist_cases i (s.station i).eligible freed with
    ⟨_, e⟩ | ⟨_, was, now, _⟩ | ⟨_, was, now, _⟩ | ⟨_, _, e⟩
  · exact e
  · rw [was] at now; cases now
  · rw [was] at now; cases now
  · exact e

/-- From `s` to `u` the record of `i` may have changed, but not its admin state, its list or anything the lists hold. -/
structure State.ListsWait (s u : State) (i : Nat) : Prop where
  candidate : u.sched.candidate = s.sched.candidate
  entryList : u.sched.entryList = s.sched.entryList
  roundList : u.sched.roundList = s.sched.roundList
  admin : (u.station i).admin = (s.station i).admin
  list : (u.station i).list = (s.station i).list

/-- The hand-over writes the records and the two lists alone. -/
theorem State.relist_eq (u : State) (i : Nat) (was freed : Bool) :
    u.relist i was freed = { u with
      stations := (u.relist i was freed).stations
      sched := { u.sched with
        entryList := (u.relist i was freed).sched.entryList
        roundList := (u.relist i was freed).sched.roundList } } := by
  apply State.ext_fields <;> simp
  apply Scheduler.ext_fields <;> simp

namespace State.ListsWait
variable {s u : State} {i : Nat}

theorem live (h : s.ListsWait u i) (was : (s.station i).eligible = true) : (u.station i).admin ≠ .free := by
  rw [h.admin]
  exact Station.live_of_eligible was

theorem station_relist (h : s.ListsWait u i) (freed : Bool) :
    let w := u.relist i (s.station i).eligible freed
    w.station i = { u.station i with list := (w.station i).list } := by
  intro w
  by_cases free : (u.station i).admin = .free
  · have none_ : w = u := by
      rcases u.relist_cases i (s.station i).eligible freed with
        ⟨_, e⟩ | ⟨_, _, now, _⟩ | ⟨_, was, _, _⟩ | ⟨_, _, e⟩
      · exact e
      · exact absurd free (Station.live_of_eligible now)
      · exact absurd free (h.live was)
      · exact e
    rw [none_]
  · exact State.station_relist _ freed free

/-- The lists follow the change by the hand-over. -/
theorem listsFollow (h : s.ListsWait u i) (freed : Bool) :
    ListsFollow s (u.relist i (s.station i).eligible freed) i freed := by
  have reads := h.station_relist freed
  have eligible : ((u.relist i (s.station i).eligible freed).station i).eligible = (u.station i).eligible := by
    rw [reads]; rfl
  have deficit : ((u.relist i (s.station i).eligible freed).station i).deficit = (u.station i).deficit := by rw [reads]
  unfold ListsFollow
  simp only [eligible, deficit]
  rcases u.relist_cases i (s.station i).eligible freed with
    ⟨chosen, e⟩ | ⟨free, was, now, e⟩ | ⟨free, was, now, e⟩ | ⟨_, same, e⟩
  · rw [h.candidate] at chosen
    simp [chosen, e, h.entryList, h.roundList, h.list]
  · rw [h.candidate] at free
    rw [e]
    simp only [was, now, ne_eq, free, not_false_eq_true, and_self, if_true]
    rw [State.station_joinList freed (Station.live_of_eligible now), State.joinList_entryList,
      State.joinList_roundList, h.entryList, h.roundList]
    by_cases broke : freed = true ∨ (u.station i).deficit ≤ 0
    · have not_ : ¬ (freed = false ∧ 0 < (u.station i).deficit) := by
        rintro ⟨kept, credit⟩
        rcases broke with is | low
        · rw [kept] at is; cases is
        · omega
      simp only [if_pos broke, if_neg not_, and_self]
    · have credit : freed = false ∧ 0 < (u.station i).deficit := by simpa using broke
      simp only [if_neg broke, if_pos credit, and_self]
  · rw [h.candidate] at free
    rw [e]
    simp only [was, now, ne_eq, free, not_false_eq_true, and_self, if_true, Bool.true_eq_false, false_and, and_false,
      if_false]
    rw [State.station_leaveList (h.live was)]
    simp [State.leaveList, h.entryList, h.roundList]
  · rw [e, same]
    cases (u.station i).eligible <;> simp [h.entryList, h.roundList, h.list]

end State.ListsWait

/-! ### Frames taken from a queue and released -/

section
variable {s : State} {i : Nat}

/-- The record after frames have left the queue, whether it is in use or not. -/
theorem State.station_taken_nothing (stations : Table.wf Station.free s.stations = true) (left : List Nat) :
    (s.taken i left []).station i = { s.station i with queue := left } :=
  (s.station_setStation stations i i _).trans (if_pos rfl)

/-- Frames taken from the queue and released leave the lists to follow. -/
theorem State.listsWait_releases (stations : Table.wf Station.free s.stations = true) (left : List Nat)
    (gone : List (Nat × Reason)) : s.ListsWait ((s.taken i left []).releases i gone) i := by
  have reads := State.station_releases i gone (s.taken i left [])
  rw [State.station_taken_nothing stations] at reads
  exact
    { candidate := State.releases_sched_candidate i gone _
      entryList := State.releases_sched_entryList i gone _
      roundList := State.releases_sched_roundList i gone _
      admin := by rw [reads]
      list := by rw [reads] }

/-- What the sweep and the Purge Engine come to at a station: the frames of `gone` leave its queue, where `left` stays,
they are released in order, and the lists follow (R57, R152, R155). -/
def State.withdraw (s : State) (i : Nat) (left : List Nat) (gone : List (Nat × Reason)) : State :=
  ((s.taken i left []).releases i gone).relist i (s.station i).eligible false

theorem State.withdraw_nothing (stations : Table.wf Station.free s.stations = true) :
    s.withdraw i (s.station i).queue [] = s :=
  (congrArg (State.relist · i _ false) (State.taken_nothing stations)).trans (s.relist_own i false)

/-- The state in which the frames are released, and the lists after it. -/
theorem State.withdraw_follows (canonical : s.Canonical) (left : List Nat) (gone : List (Nat × Reason)) :
    let v := s.taken i left []
    let u := v.releases i gone
    let w := s.withdraw i left gone
    (v = { s with stations := v.stations } ∧ v.Canonical ∧ OtherStationsKeep s v i
        ∧ v.station i = { s.station i with queue := left })
      ∧ (w = { u with
            stations := w.stations
            sched := { u.sched with entryList := w.sched.entryList, roundList := w.sched.roundList } }
          ∧ OtherStationsKeep u w i ∧ w.station i = { u.station i with list := (w.station i).list })
      ∧ ListsFollow s w i false := by
  intro v u w
  have canonical' := (State.Keeps.taken s i left []).forms_and_capacities.1 canonical
  obtain ⟨_, _, _, _, stations, _⟩ := canonical
  have waits := State.listsWait_releases (i := i) stations left gone
  exact ⟨⟨rfl, canonical', s.otherStationsKeep_taken i left [], State.station_taken_nothing stations left⟩,
    ⟨u.relist_eq i _ false, fun _ ne => u.station_relist_ne _ _ ne, waits.station_relist false⟩,
    waits.listsFollow false⟩

theorem State.wf_withdraw (stations : Table.wf Station.free s.stations = true) (left : List Nat)
    (gone : List (Nat × Reason)) : Table.wf Station.free (s.withdraw i left gone).stations = true :=
  State.wf_relist _ i _ false (State.wf_releases i gone _ (Table.wf_set stations i _))

/-- Of the record only the queue, the counters and the list may change. -/
theorem State.station_withdraw (stations : Table.wf Station.free s.stations = true) (left : List Nat)
    (gone : List (Nat × Reason)) :
    let x := (s.withdraw i left gone).station i
    x = { s.station i with queue := left, counters := x.counters, list := x.list } := by
  intro x
  have record : x = _ := (State.listsWait_releases (i := i) stations left gone).station_relist false
  rw [State.station_releases, State.station_taken_nothing stations] at record
  have counters := congrArg Station.counters record
  rw [counters]
  exact record

theorem State.otherStationsKeep_withdraw (s : State) (i : Nat) (left : List Nat) (gone : List (Nat × Reason)) :
    OtherStationsKeep s (s.withdraw i left gone) i :=
  ((s.otherStationsKeep_taken i left []).releases gone).trans fun _ ne => State.station_relist_ne _ _ _ ne

/-- What a withdrawal leaves alone outside the Station Table. -/
theorem State.withdraw_keeps (s : State) (i : Nat) (left : List Nat) (gone : List (Nat × Reason)) :
    let w := s.withdraw i left gone
    OtherDescsKeep s w (gone.map Prod.fst)
      ∧ w.bm.mem = s.bm.mem ∧ w.bm.ecc = s.bm.ecc ∧ w.sched.slots = s.sched.slots ∧ w.purge = s.purge
      ∧ w.timeBase = s.timeBase
      ∧ (w.sched.state = s.sched.state ∨ w.sched.state = .halted) := by
  intro w
  have bm : w.bm = ((s.taken i left []).releases i gone).bm := State.relist_bm _ i _ false
  have state := State.state_releases i gone (s.taken i left [])
  rw [← State.relist_sched_state _ i (s.station i).eligible false] at state
  refine ⟨fun d out => ?_, ?_, ?_, ?_, ?_, ?_, state⟩
  · exact (State.desc_congr (congrArg _ bm) d).trans (State.desc_releases_ne i gone _ out)
  · rw [bm, State.releases_bm_mem]; rfl
  · rw [bm, State.releases_bm_ecc]; rfl
  · exact (State.relist_sched_slots _ i _ false).trans (State.releases_sched_slots i gone _)
  · exact (State.relist_purge _ i _ false).trans (State.releases_purge i gone _)
  · exact (State.relist_timeBase _ i _ false).trans (State.releases_timeBase i gone _)

/-- The frames released, by their names alone. -/
theorem map_fst_withReason (l : List Nat) (reason : Reason) : (l.map fun d => (d, reason)).map Prod.fst = l :=
  List.map_map.trans (List.map_id l)

end

/-! ### The expired head frames of a queue (R152) -/

theorem State.expired_congr {s t : State} {i d : Nat} (now : t.timeBase = s.timeBase) (rp : t.rp = s.rp)
    (classes : t.sched.liveClass = s.sched.liveClass) (cls : (t.station i).cls = (s.station i).cls)
    (desc : t.desc d = s.desc d) : t.expired (t.station i) d = s.expired (s.station i) d := by
  have entry : t.liveClass (t.station i) = s.liveClass (s.station i) := by rw [State.liveClass, classes, cls]; rfl
  rw [State.expired, State.expired, entry, desc, now, rp]

/-- The sweep of a queue comes to one removal of its expired head frames and their releases in order. -/
theorem State.Examines.sweepQueue {i : Nat} {unfit : Nat → Option Reason} {length : Nat → Nat} {expired : Nat → Bool} :
    ∀ (l : List Nat) {s : State}, s.Examines i unfit length l →
      (∀ d ∈ l, s.expired (s.station i) d = expired d) →
      State.sweepQueue i l s =
        (s.taken i (l.dropWhile expired) []).releases i ((l.takeWhile expired).map fun d => (d, .expired))
  | [], s, h, _ => h.taken_all.symm
  | d :: rest, s, h, finds => by
    rw [State.sweepQueue, finds d List.mem_cons_self]
    cases old : expired d with
    | false =>
      rw [List.dropWhile_cons_of_neg (by simp [old]), List.takeWhile_cons_of_neg (by simp [old]), h.taken_all]
      rfl
    | true =>
      have cls : (((s.popQueue i).release i d .expired).station i).cls = (s.station i).cls := by
        rw [State.station_release, h.station_popQueue]
      have behind : ∀ e ∈ rest, ((s.popQueue i).release i d .expired).expired
          (((s.popQueue i).release i d .expired).station i) e = expired e := by
        intro e mem
        have ne : e ≠ d := fun same => h.out (same ▸ mem)
        rw [State.expired_congr (s := s) (by simp) (by simp) (by simp) cls ((s.popQueue i).desc_release_ne _ ne),
          finds e (List.mem_cons_of_mem d mem)]
      rw [List.dropWhile_cons_of_pos (by simp [old]), List.takeWhile_cons_of_pos (by simp [old]), if_pos rfl,
        (h.pass .expired).sweepQueue rest behind,
        State.taken_popRelease h.stations h.descs h.live .expired List.not_mem_nil]
      rfl

/-! ### The Age Sweep (R150 to R153) -/

theorem exec_sweepTimer {s : State} {tm : Timer} (timer : s.sweep.timer = some tm) (due : tm.limit ≤ tm.elapsed) :
    exec .sweepTimer s = .next
      { s with sweep :=
          { timer := s.freshSweepTimer
            position := some (s.sweep.position.getD 0)
            heldBack := s.sweep.heldBack || s.sweep.position.isSome } } := by
  show execSweepTimer s = _
  simp only [execSweepTimer, timer, if_pos due]
  rfl

/-- Retirements that halt the scheduler may start the sweep timer; the pass under way goes on (R145, R151). -/
theorem State.sweep_withPools (s : State) (b : BufferManager) :
    (s.withPools b).sweep = { s.sweep with timer := (s.withPools b).sweep.timer } := by
  rw [State.withPools_halted]
  unfold State.haltedIfDue
  split_ifs <;> rfl

theorem State.sweep_release (s : State) (i d : Nat) (reason : Reason) :
    (s.release i d reason).sweep = { s.sweep with timer := (s.release i d reason).sweep.timer } := by
  by_cases marked : (s.desc d).reason = some .chainFault
  · rw [State.release_marked marked]
    simp
  · have pools := s.sweep_withPools (s.bm.releaseWalk d).2
    cases walked : (s.bm.releaseWalk d).1 with
    | none =>
      rw [State.release_clean marked walked]
      simpa using pools
    | some f =>
      rw [State.release_faulty marked walked]
      simpa using pools

theorem State.sweep_releases (i : Nat) : ∀ (l : List (Nat × Reason)) (s : State),
    (s.releases i l).sweep = { s.sweep with timer := (s.releases i l).sweep.timer }
  | [], _ => rfl
  | (d, reason) :: rest, s => by
    rw [State.releases]
    conv_lhs => rw [sweep_releases i rest, s.sweep_release i d reason]

/-- After the last station a held-back pass begins (R152, R153). -/
theorem Sweep.advance_eq (w : Sweep) (i : Nat) : w.advance i =
    { w with
      position := if i + 1 < 512 then some (i + 1) else if w.heldBack = true then some 0 else none
      heldBack := if i + 1 < 512 then w.heldBack else false } := by
  unfold Sweep.advance
  rw [Config.stationCount_eq]
  by_cases more : i + 1 < 512
  · simp only [if_pos more]
  · cases held : w.heldBack <;> simp [more]

/-- The pass goes on from a withdrawal as from the state before it (R152, R153). -/
theorem State.sweep_withdraw (s : State) (i : Nat) (left : List Nat) (gone : List (Nat × Reason)) :
    let w := s.withdraw i left gone
    w.sweep = ((s.taken i left []).releases i gone).sweep ∧ w.sweep.heldBack = s.sweep.heldBack := by
  have same : (s.withdraw i left gone).sweep = ((s.taken i left []).releases i gone).sweep :=
    State.relist_sweep _ i _ false
  exact ⟨same, by rw [same, State.sweep_releases]; rfl⟩

/-- The expired frames at the head of the queue of station `i` (R152). -/
def State.expiredHeads (s : State) (i : Nat) : List Nat := (s.station i).queue.takeWhile (s.expired (s.station i))

section
variable {s : State} {i : Nat}

/-- A visit takes the expired head frames out at once, and releases them in order. -/
theorem State.sweepStation_eq (canonical : s.Canonical) (fresh : (s.station i).queue.Nodup)
    (live : (s.station i).queue ≠ [] → (s.station i).admin ≠ .free) :
    s.sweepStation i = s.withdraw i ((s.station i).queue.drop (s.expiredHeads i).length)
      ((s.expiredHeads i).map fun d => (d, .expired)) := by
  obtain ⟨_, _, descs, _, stations, _⟩ := canonical
  have left : (s.station i).queue.drop (s.expiredHeads i).length =
      (s.station i).queue.dropWhile (s.expired (s.station i)) := by
    conv_lhs => rw [← List.takeWhile_append_dropWhile (p := s.expired (s.station i)) (l := (s.station i).queue)]
    exact List.drop_left
  rw [State.sweepStation, left]
  by_cases empty : (s.station i).queue = []
  · have nothing := State.withdraw_nothing (i := i) stations
    rw [empty] at nothing
    rw [State.expiredHeads, empty]
    exact (s.relist_own i false).trans nothing.symm
  · have examines : s.Examines i (s.unfit i) s.lengthOf (s.station i).queue :=
      ⟨stations, descs, live empty, rfl, fresh, fun _ _ => ⟨rfl, rfl⟩⟩
    rw [examines.sweepQueue _ fun _ _ => rfl]
    rfl

/-- The state with another sweep. -/
def State.withSweep (s : State) (x : Sweep) : State := { s with sweep := x }

/-- A visit, whole: the withdrawal of the expired head frames, and the pass gone on (R152, R153). -/
theorem exec_sweepVisit (canonical : s.Canonical) (position : s.sweep.position = some i)
    (fresh : (s.station i).queue.Nodup) (live : (s.station i).queue ≠ [] → (s.station i).admin ≠ .free) :
    let left := (s.station i).queue.drop (s.expiredHeads i).length
    let gone := (s.expiredHeads i).map fun d => (d, Reason.expired)
    exec .sweepVisit s = .next ((s.withdraw i left gone).withSweep { ((s.taken i left []).releases i gone).sweep with
      position := if i + 1 < 512 then some (i + 1) else if s.sweep.heldBack = true then some 0 else none
      heldBack := if i + 1 < 512 then s.sweep.heldBack else false }) := by
  intro left gone
  obtain ⟨pass, held⟩ := s.sweep_withdraw i left gone
  have visit : exec .sweepVisit s =
      .next ((s.sweepStation i).withSweep ((s.sweepStation i).sweep.advance i)) := by
    show execSweepVisit s = _
    simp only [execSweepVisit, position]
    rfl
  rw [visit, State.sweepStation_eq canonical fresh live, Sweep.advance_eq, held, pass]

end

/-- Settles O41: the timer by its guard; a visit as one removal, the releases, the hand-over and the advance. -/
theorem sweepExpiresHeadFrames : Obligations.SweepExpiresHeadFrames := by
  intro s
  refine ⟨fun tm => exec_sweepTimer, fun i canonical position fresh live => ?_⟩
  intro r gone
  obtain ⟨released, ⟨form, handed⟩, lists⟩ := State.withdraw_follows (i := i) canonical (r.queue.drop gone.length)
    (gone.map fun d => (d, .expired))
  obtain ⟨taken, canonical', others', record'⟩ := released
  obtain ⟨descs, mem, ecc, slots, purge, -⟩ := s.withdraw_keeps i (r.queue.drop gone.length)
    (gone.map fun d => (d, .expired))
  rw [map_fst_withReason] at descs
  have visit := exec_sweepVisit canonical position fresh live
  obtain ⟨_, _, _, _, stations, _⟩ := canonical
  refine ⟨_, _, visit, taken, canonical', others', record', ⟨congrArg (State.withSweep · _) form, handed⟩, lists, rfl,
    rfl, s.otherStationsKeep_withdraw i _ _, ?_, descs, mem, ecc, fun k => State.slot_congr slots k, purge, fun none_ => ?_⟩
  · exact congrArg Station.queue (State.station_withdraw stations _ _)
  · have unswept : s.withdraw i (r.queue.drop gone.length) (gone.map fun d => (d, .expired)) = s := by
      rw [none_]
      exact State.withdraw_nothing stations
    exact congrArg (State.withSweep · _) unswept

/-! ### The Purge Engine (R154 to R157) -/

section
variable {s : State}

/-- A step on a station takes the head frame out, if there is one, and releases it. -/
theorem State.purgeHead_eq (stations : Table.wf Station.free s.stations = true) (i : Nat) (reason : Reason) :
    s.purgeHead i reason =
      s.withdraw i (s.station i).queue.tail (((s.station i).queue.take 1).map fun d => (d, reason)) := by
  unfold State.purgeHead
  cases queue : (s.station i).queue with
  | nil =>
    have nothing := State.withdraw_nothing (i := i) stations
    rw [queue] at nothing
    exact nothing.symm
  | cons d rest =>
    simp only [State.popQueue, queue]
    rfl

/-- The state after the head entry has left the Purge List, where `rest` stays, and its station has been checked for
teardown (R156, R157). -/
def State.entryLeaves (s : State) (rest : List PurgeEntry) (i : Nat) : State := { s with purge := rest }.checkTeardown i

/-- A step, whole: the withdrawal of the head frame, and the end of the entry if no frame is behind it (R155, R156). -/
theorem exec_purgeStep (stations : Table.wf Station.free s.stations = true) {e : PurgeEntry} {rest : List PurgeEntry}
    (purge : s.purge = e :: rest) :
    let queue := (s.station e.station).queue
    let w := s.withdraw e.station queue.tail ((queue.take 1).map fun d => (d, e.purpose.reason))
    exec .purgeStep s = .next (if queue.length ≤ 1 then (w.entryLeaves rest e.station).offIfDrained else w) := by
  intro queue w
  have left : (w.station e.station).queue = queue.tail := congrArg Station.queue (State.station_withdraw stations _ _)
  have last : queue.tail = [] ↔ queue.length ≤ 1 := by
    rw [← List.length_eq_zero_iff, List.length_tail]
    omega
  obtain ⟨-, -, -, -, kept, -⟩ := s.withdraw_keeps e.station queue.tail
    ((queue.take 1).map fun d => (d, e.purpose.reason))
  have stepped : exec .purgeStep s = .next
      (if ((s.purgeHead e.station e.purpose.reason).station e.station).queue = [] then
        (s.purgeHead e.station e.purpose.reason).purgeEntryLeaves e.station
      else s.purgeHead e.station e.purpose.reason) := by
    show execPurgeStep s = _
    simp only [execPurgeStep, purge]
  have whole : s.purgeHead e.station e.purpose.reason = w := State.purgeHead_eq stations e.station e.purpose.reason
  have ends : w.purgeEntryLeaves e.station = (w.entryLeaves rest e.station).offIfDrained := by
    rw [State.purgeEntryLeaves, State.checkStopped_eq, kept, purge]
    rfl
  rw [stepped, whole, left, ends]
  exact congrArg Host.Outcome.next (if_congr last rfl rfl)

end

/-- The check for teardown writes the record and the event alone (R157). -/
theorem State.checkTeardown_eq (s : State) (i : Nat) : s.checkTeardown i = { s with
    stations := (s.checkTeardown i).stations
    events :=
      if (s.station i).admin = .purging ∧ s.onPurgeList i = false ∧ (s.station i).queue = [] ∧ (s.station i).slot = none
      then s.events.put s.timeBase (.stationFreed i) else s.events } := by
  unfold State.checkTeardown
  simp only
  split_ifs <;> rfl

section
variable {w : State} {rest : List PurgeEntry} {i : Nat}

/-- A station with its queue empty and its entry gone is torn down if it is PURGING with its slot free and no entry. -/
theorem State.entryLeaves_tearsDown (stations : Table.wf Station.free w.stations = true)
    (empty : (w.station i).queue = []) {r : Station} (admin : (w.station i).admin = r.admin)
    (slot : (w.station i).slot = r.slot) {now : Stamp} (clock : w.timeBase = now) :
    let torn := r.admin = .purging ∧ r.slot = none ∧ ∀ x ∈ rest, x.station ≠ i
    let z := w.entryLeaves rest i
    z = { w with
        purge := rest, stations := z.stations
        events := if torn then w.events.put now (.stationFreed i) else w.events }
      ∧ OtherStationsKeep w z i
      ∧ z.station i = (if torn then Station.free else w.station i) := by
  intro torn z
  subst clock
  have same : ((({ w with purge := rest } : State).station i).admin = .purging
      ∧ ({ w with purge := rest } : State).onPurgeList i = false
      ∧ (({ w with purge := rest } : State).station i).queue = []
      ∧ (({ w with purge := rest } : State).station i).slot = none) ↔ torn := by
    have off : ({ w with purge := rest } : State).onPurgeList i = false ↔ ∀ x ∈ rest, x.station ≠ i := by
      simp [State.onPurgeList]
    rw [show ({ w with purge := rest } : State).station i = w.station i from rfl, off, empty, admin, slot]
    tauto
  have form := State.checkTeardown_eq { w with purge := rest } i
  have record := State.station_checkTeardown { w with purge := rest } stations i
  simp only [same] at form record
  exact ⟨form, fun _ ne => State.station_checkTeardown_ne _ ne, record⟩

/-- The end of an entry leaves the Buffer Manager, the Grant Slots and the other records alone; STOPPING may end (R144,
R156). -/
theorem State.entryLeaves_keeps (w : State) (rest : List PurgeEntry) (i : Nat) :
    let t := (w.entryLeaves rest i).offIfDrained
    OtherStationsKeep w t i ∧ t.bm = w.bm ∧ t.sched.slots = w.sched.slots
      ∧ t.sched.state = (if w.sched.state = .stopping ∧ (∀ x ∈ rest, x.purpose ≠ .stop) ∧ w.openSlots = 0 then .off
          else w.sched.state) := by
  intro t
  have checked : t = (w.entryLeaves rest i).checkStopped := (State.checkStopped_eq _).symm
  have sched : (w.entryLeaves rest i).sched = w.sched := State.checkTeardown_sched _ i
  have purge : (w.entryLeaves rest i).purge = rest := State.checkTeardown_purge _ i
  rw [checked]
  refine ⟨fun j ne => ?_, ?_, ?_, ?_⟩
  · rw [State.station_congr (State.checkStopped_stations _), State.entryLeaves, State.station_checkTeardown_ne _ ne]
    rfl
  · rw [State.checkStopped_bm, State.entryLeaves, State.checkTeardown_bm]
  · rw [State.checkStopped_sched_slots, sched]
  · rw [State.state_checkStopped, State.openSlots_congr (s := w) (congrArg Scheduler.slots sched), sched, purge]

end

/-- Settles O42: the withdrawal of the head frame, and the end of the entry if no frame is behind it. -/
theorem purgeStepEmptiesQueue : Obligations.PurgeStepEmptiesQueue := by
  intro s e rest canonical purge i r reason last _
  let gone := (r.queue.take 1).map fun d => (d, reason)
  obtain ⟨⟨taken, canonical', others', record'⟩, ⟨form, handed⟩, lists⟩ := State.withdraw_follows (i := i) canonical
    r.queue.tail gone
  obtain ⟨descs, mem, ecc, slots, purge', now, state⟩ := s.withdraw_keeps i r.queue.tail gone
  rw [map_fst_withReason] at descs
  obtain ⟨_, _, _, _, stations, _⟩ := canonical
  have wf := State.wf_withdraw (i := i) stations r.queue.tail gone
  have record := State.station_withdraw (i := i) stations r.queue.tail gone
  have others := s.otherStationsKeep_withdraw i r.queue.tail gone
  have stepped : exec .purgeStep s = .next (if last then
      ((s.withdraw i r.queue.tail gone).entryLeaves rest i).offIfDrained else s.withdraw i r.queue.tail gone) :=
    exec_purgeStep stations purge
  generalize s.withdraw i r.queue.tail gone = w at *
  by_cases emptied : last
  · rw [if_pos emptied] at stepped
    have empty : (w.station i).queue = [] :=
      (congrArg Station.queue record).trans (List.length_eq_zero_iff.1 (by rw [List.length_tail]; omega))
    have ends := State.entryLeaves_tearsDown (rest := rest) wf empty (r := r) (congrArg Station.admin record :)
      (congrArg Station.slot record :) now
    obtain ⟨others'', bm, slots', state'⟩ := w.entryLeaves_keeps rest i
    have closed : w.openSlots = s.openSlots := State.openSlots_congr slots
    have descs' : OtherDescsKeep s (w.entryLeaves rest i).offIfDrained (r.queue.take 1) := fun d out =>
      (State.desc_congr (congrArg _ bm) d).trans (descs d out)
    refine ⟨_, w, _, stepped, taken, canonical', others', record', ⟨form, handed⟩, lists,
      fun more => absurd emptied more, fun _ => ⟨_, rfl, ends⟩, others.trans others'', descs', by rw [bm, mem],
      by rw [bm, ecc], fun k => State.slot_congr (slots'.trans slots) k, fun stopping _ noEntry noSlot => ?_,
      fun other => ?_⟩
    · rw [state', closed]
      rcases state with same | halted
      · exact .inl (if_pos ⟨same.trans stopping, noEntry, noSlot⟩)
      · exact .inr ((if_neg fun h => by rw [halted] at h; cases h.1).trans halted)
    · rw [state', if_neg]
      · exact state
      · rintro ⟨stopping, -⟩
        rcases state with same | halted
        · exact other (same.symm.trans stopping)
        · rw [halted] at stopping; cases stopping
  · rw [if_neg emptied] at stepped
    exact ⟨_, w, w, stepped, taken, canonical', others', record', ⟨form, handed⟩, lists, fun _ => rfl,
      fun is => absurd is emptied, others, descs, mem, ecc, fun k => State.slot_congr slots k,
      fun _ is => absurd is emptied, fun _ => state⟩

end Sys2Proof.Machine
end

section
/-! PROOFS. Fault claims (10 §10.1, 10.3): a claim without effect, a claim that sets the fault flag, and an escalation
(R164, R168, O39). -/
set_option Elab.async false

namespace Sys2Proof.Machine

/-! ### A claim at its record (R164) -/

section
variable {s : State} {c : FaultClaim}

/-- A claim found or taken outside ACTIVE has no effect. -/
theorem State.takeClaim_idle (idle : ¬ (c.admin = .active ∧ (s.station c.station).admin = .active)) :
    s.takeClaim c = s := if_neg idle

theorem State.takeClaim_clear (found : c.admin = .active) (active : (s.station c.station).admin = .active)
    (clear : (s.station c.station).faultFlag = false) :
    s.takeClaim c = s.setStation c.station { s.station c.station with faultFlag := true } := by
  simp [State.takeClaim, found, active, clear]

theorem State.takeClaim_flagged (found : c.admin = .active) (active : (s.station c.station).admin = .active)
    (flagged : (s.station c.station).faultFlag = true) : s.takeClaim c = s.escalate c.station := by
  simp [State.takeClaim, found, active, flagged]

end

/-! ### Escalation (R168) -/

/-- Of the entries that stand only a STOP entry ranks below FAULT (R154). -/
theorem Purpose.rank_lt_fault {p : Purpose} : p.rank < Purpose.rank .fault ↔ p = .stop := by
  cases p <;> simp [Purpose.rank]

/-- Asking for a FAULT entry upgrades a STOP entry in its place, and no other (R154). -/
theorem askPurge_fault (l : List PurgeEntry) (i : Nat) : askPurge l i .fault =
    if ∃ e ∈ l, e.station = i then
      l.map fun e => if e.station = i ∧ e.purpose = .stop then { e with purpose := .fault } else e
    else l ++ [{ station := i, purpose := .fault }] := by
  simp only [askPurge_eq, Purpose.rank_lt_fault]

/-- An escalation before its upgrade of a STOP entry, if it makes one, is handed to the scheduler. -/
def State.escalated (s : State) (i : Nat) : State :=
  { (s.change i false fun r => { r with admin := .faulted }).cancelPoll i with
    purge := askPurge s.purge i .fault
    events := s.events.put s.timeBase (.stationFaulted i) }

/-- The upgrade of a STOP entry may end STOPPING (R144, R154). -/
theorem State.escalate_eq (s : State) (i : Nat) : s.escalate i =
    if ∃ e ∈ s.purge, e.station = i ∧ e.purpose = .stop then (s.escalated i).offIfDrained else s.escalated i := by
  have reported : { (s.change i false fun r => { r with admin := .faulted }).cancelPoll i with
      purge := askPurge s.purge i .fault }.record (.stationFaulted i) = s.escalated i := by
    simp [State.record, State.escalated]
  unfold State.escalate
  simp only [State.cancelPoll_purge, State.change_purge, reported, State.checkStopped_eq,
    upgradesStop_iff _ _ _ (show Purpose.fault ≠ .stop by decide)]

/-- What an escalation does to the record, the lists, the Poll Queue, the Purge List and the Event Queue (R168). -/
theorem State.escalated_spec (s : State) (i : Nat) :
    let u := s.escalated i
    u = { s with
        stations := u.stations
        sched := { s.sched with
          entryList := u.sched.entryList, roundList := u.sched.roundList
          pollQueue := if (s.station i).poll = true then s.sched.pollQueue.filter (· ≠ i) else s.sched.pollQueue }
        purge :=
          if ∃ e ∈ s.purge, e.station = i then
            s.purge.map fun e => if e.station = i ∧ e.purpose = .stop then { e with purpose := .fault } else e
          else s.purge ++ [{ station := i, purpose := .fault }]
        events := s.events.put s.timeBase (.stationFaulted i) }
      ∧ OtherStationsKeep s u i
      ∧ u.station i = { s.station i with admin := .faulted, poll := false, list := (u.station i).list }
      ∧ ListsFollow s u i false := by
  obtain ⟨rest, others, record, lists⟩ := s.change_cancelPoll i .faulted (by decide)
  refine ⟨?_, others, record, lists⟩
  rw [← askPurge_fault]
  exact congrArg (fun t : State => { t with
    purge := askPurge s.purge i .fault, events := s.events.put s.timeBase (.stationFaulted i) }) rest

/-- Settles O39, by whether the claim stands and whether the flag is set. -/
theorem faultClaimSetsFlagOrEscalates : Obligations.FaultClaimSetsFlagOrEscalates := by
  intro s n c found i r
  let w := s.withClaims (s.faultClaims.eraseIdx n)
  have stepped : exec (.faultClaim n) s = .next (w.takeClaim c) := exec_faultClaim found
  refine ⟨fun idle => ?_, fun stood active clear => ?_, fun stood active flagged => ?_⟩
  · rw [stepped, State.takeClaim_idle (s := w) idle]
    rfl
  · rw [State.takeClaim_clear (s := w) stood active clear] at stepped
    have live : r.admin ≠ .free := by simp [active]
    exact ⟨_, stepped, rfl, fun _ ne => State.station_setStation_ne w _ ne,
      State.station_setStation_same w i (Station.ne_free live)⟩
  · rw [State.takeClaim_flagged (s := w) stood active flagged, State.escalate_eq] at stepped
    exact ⟨_, stepped, w.escalated_spec i⟩

end Sys2Proof.Machine
end

section
/-! PROOFS. The Event Queue (R190, O7), and the end of a frame on the System Link line (R9, R176, O14). -/

namespace Sys2Proof.Machine

/-! ### The Event Queue -/

/-- A saturating count rises by one up to the largest value it holds. -/
theorem toNat_saturate16 (c : BitVec 16) : (saturate16 c).toNat = min (c.toNat + 1) 65535 := by
  unfold saturate16
  split_ifs with full
  · rw [full]
    rfl
  · have notFull : c.toNat ≠ 65535 := fun h => full (BitVec.eq_of_toNat_eq h)
    have next : (c + 1).toNat = (c.toNat + 1) % 65536 := BitVec.toNat_add c 1
    have bound := c.isLt
    omega

theorem EventQueue.put_of_lt {q : EventQueue} (room : q.records.length < 32) (now : Stamp) (e : Event) :
    q.put now e = { q with records := q.records ++ [{ stamp := now, event := e }] } := if_pos room

theorem EventQueue.put_of_full {q : EventQueue} (full : 32 ≤ q.records.length) (now : Stamp) (e : Event) :
    q.put now e = { q with lost := saturate16 q.lost } := if_neg full.not_gt

/-- Settles O7, by whether a place is free. -/
theorem eventQueueKeepsThirtyTwo : Obligations.EventQueueKeepsThirtyTwo := by
  refine fun q now e => ⟨fun room => EventQueue.put_of_lt room now e, fun full => ?_⟩
  rw [EventQueue.put_of_full full]
  exact ⟨rfl, toNat_saturate16 q.lost⟩

/-! ### The end of a frame on the line -/

/-- A frame with an end of its own stays on the line (R9). -/
theorem execTransmitterChoice_ownEnd {s : State} {f : OutFrame} (line : s.tx.line = some f) (own : f.ownEnd = true) :
    execTransmitterChoice s = .next s := by
  simp only [execTransmitterChoice, line, own, if_true]

/-- Any other frame ends, and the choice is the one of an idle line (log 10). -/
theorem execTransmitterChoice_ended {s : State} {f : OutFrame} (line : s.tx.line = some f) (other : f.ownEnd = false) :
    execTransmitterChoice s = .next s.lineEnded.chooseFrame := by
  simp only [execTransmitterChoice, line, other, Bool.false_eq_true, if_false]

/-- The end of a frame that is no RESPONSE leaves the response that waits where it is. -/
theorem State.lineEnded_of_ne_response {s : State} {f : OutFrame} (line : s.tx.line = some f)
    (other : ∀ r, f.body ≠ .response r) : s.lineEnded = { s with tx := { s.tx with line := none } } := by
  unfold State.lineEnded
  rw [line]
  dsimp only
  split
  next r is => exact absurd is (other r)
  next => rfl

/-- A transmitter that holds no response takes the one kept, if one is (R176). -/
theorem State.handOver_of_none {s : State} (free : s.tx.response = none) :
    s.handOver = { s with tx := { s.tx with response := s.rp.held }, rp := { s.rp with held := none } } := by
  unfold State.handOver
  rw [free]
  cases held : s.rp.held with
  | none =>
    have sameTx : { s.tx with response := none } = s.tx := by rw [← free]
    have sameRp : { s.rp with held := none } = s.rp := by rw [← held]
    rw [sameTx, sameRp]
  | some kept => rfl

/-- At the end of a RESPONSE frame the transmitter takes the response kept, if one is (R176). -/
theorem State.lineEnded_response {s : State} {f : OutFrame} {r : Response} (line : s.tx.line = some f)
    (is : f.body = .response r) :
    s.lineEnded
      = { s with tx := { s.tx with line := none, response := s.rp.held }, rp := { s.rp with held := none } } := by
  simp only [State.lineEnded, line, is]
  exact State.handOver_of_none rfl

/-- Settles O14, by whether the frame on the line has an end of its own, and whether it is a RESPONSE. -/
theorem transmitterFinishesFrame : Obligations.TransmitterFinishesFrame := by
  refine fun s f line => ⟨execTransmitterChoice_ownEnd line, fun other noResponse => ?_, fun r is other => ?_⟩
  · calc exec .transmitterChoice s
      _ = .next s.lineEnded.chooseFrame := execTransmitterChoice_ended line other
      _ = .next ({ s with tx := { s.tx with line := none } } : State).chooseFrame := by
          rw [State.lineEnded_of_ne_response line noResponse]
      _ = exec .transmitterChoice { s with tx := { s.tx with line := none } } := (execTransmitterChoice_idle rfl).symm
  · calc exec .transmitterChoice s
      _ = .next s.lineEnded.chooseFrame := execTransmitterChoice_ended line other
      _ = .next ({ s with
            tx := { s.tx with line := none, response := s.rp.held }
            rp := { s.rp with held := none } } : State).chooseFrame := by
          rw [State.lineEnded_response line is]
      _ = _ := (execTransmitterChoice_idle rfl).symm

end Sys2Proof.Machine
end

section
/-! PROOFS. Checks 1 to 4 on the head request (R176 to R178, 12.3, 12.4, O43). -/

namespace Sys2Proof.Machine

/-! ### The codes of the requests -/

/-- The codes of the nineteen requests (12.3). -/
def requestCodes : List (Nat × RequestKind) :=
  [(0x01, .identify), (0x02, .setOptions), (0x03, .start), (0x04, .stop), (0x05, .freeze), (0x06, .thaw),
    (0x10, .stationProgram), (0x11, .stationRemove), (0x12, .stationHold), (0x13, .stationRelease),
    (0x15, .stationClearFault), (0x16, .stationRead), (0x17, .backlogMap), (0x20, .classWrite), (0x21, .rateWrite),
    (0x22, .tableCommit), (0x23, .tableRead), (0x24, .counterRead), (0x3F, .partReset)]

/-- Check 1 looks the code up in the list of codes. -/
theorem RequestKind.ofCode_eq_find? (code : Byte) :
    RequestKind.ofCode code = (requestCodes.find? fun p => p.1 == code.toNat).map Prod.snd := by
  have every : ∀ n : Fin 256, RequestKind.ofCode (BitVec.ofFin n)
      = (requestCodes.find? fun p => p.1 == n.val).map Prod.snd := by decide +kernel
  exact every code.toFin

/-! ### The refusal -/

/-- A request that checks 2 to 4 refuse is answered with their reason, whatever its kind (R176, R177). -/
theorem exec_command_refused {s : State} {q : Request} {rest : List Request} {k : RequestKind} {reason : Reason}
    (idle : s.rp.executing = none) (free : s.rp.held = none) (taking : s.rp.stopped = false)
    (queue : s.rp.queue = q :: rest) (code : RequestKind.ofCode q.code = some k)
    (fault : requestFault k q s.sched.state = some reason) (n : Nat) :
    exec (k.command n) s = .next (s.answered rest (refusedResponse q reason) none) := by
  have whole (run) : s.request k run = s.answered rest (refusedResponse q reason) none :=
    State.request_refused idle free taking queue code fault run
  have byClaims (fields claim) : s.claimRequest k fields claim n = s.answered rest (refusedResponse q reason) none :=
    State.claimRequest_refused idle free taking queue code fields (by rw [fault]; rfl) claim n
  cases k with
  | stationProgram | stationRemove | stationHold | stationRelease | stationClearFault | stationRead | counterRead =>
    exact congrArg Host.Outcome.next (byClaims _ _)
  | _ => exact congrArg Host.Outcome.next (whole _)

/-- A request whose code names none is answered UNKNOWN_REQUEST (R177). -/
theorem exec_unknownRequest {s : State} {q : Request} {rest : List Request} (idle : s.rp.executing = none)
    (free : s.rp.held = none) (taking : s.rp.stopped = false) (queue : s.rp.queue = q :: rest)
    (code : RequestKind.ofCode q.code = none) :
    exec .unknownRequest s = .next (s.answered rest (refusedResponse q .unknownRequest) none) := by
  show execUnknownRequest s = _
  rw [execUnknownRequest, State.takeRequest_some idle free taking queue code]
  exact congrArg Host.Outcome.next (State.finish_eq _ _ _)

/-- Settles O43: the refusal of each check, then the states, the lengths and the codes the checks go by. -/
theorem requestsAreCheckedInOrder : Obligations.RequestsAreCheckedInOrder := by
  refine ⟨fun s q rest idle free taking queue =>
      ⟨exec_unknownRequest idle free taking queue, fun k n reason code fault => ?_⟩,
    fun k st => ?_, fun k body => ?_, RequestKind.ofCode_eq_find?⟩
  · exact exec_command_refused idle free taking queue code ((requestFault_eq k q _).trans fault) n
  · cases k with
    | stop | freeze | thaw => cases st <;> rfl
    | _ => rfl
  · cases k with
    | stationProgram | stationRemove | stationClearFault | classWrite | rateWrite => exact decide_eq_true_iff
    | _ => exact beq_iff_eq

end Sys2Proof.Machine
end

section
/-! PROOFS. The requests that report record by record and counter by counter: STATION READ and COUNTER READ (11 §11.4,
11.5, 12.4, O53, O54). -/

namespace Sys2Proof.Machine

/-! ### Counters in a report -/

/-- The width of a counter in a report (R185, R187). -/
def ReportFormat.counterWidth : ReportFormat → Nat
  | .compact => 4
  | .full => 8

theorem length_counterBytes (format : ReportFormat) (c : Counter48) :
    (counterBytes format c).length = format.counterWidth := by
  cases format <;> exact length_beBytes _ _

/-- A field of a sequence of fields of one width. -/
theorem fieldAt_flatten {w : Nat} : ∀ (fields : List (List Byte)) (j : Nat), (∀ x ∈ fields, x.length = w) →
    j < fields.length → fieldAt fields.flatten (w * j) w = fieldAt (fields.getD j []) 0 w
  | [], _, _, h => absurd h (Nat.not_lt_zero _)
  | x :: rest, 0, width, _ => by
    simpa using fieldAt_append_left x rest.flatten 0 w (by simp [width])
  | x :: rest, j + 1, width, h => by
    have here : x.length = w := width x List.mem_cons_self
    have later := fieldAt_flatten rest j (fun y mem => width y (List.mem_cons_of_mem _ mem))
      (Nat.lt_of_succ_lt_succ h)
    rw [List.flatten_cons, fieldAt_append_right _ _ _ _ (by rw [here]; exact Nat.le_mul_of_pos_right _ j.succ_pos), here,
      Nat.mul_succ, Nat.add_sub_cancel]
    exact later

/-! ### The fields of a station report -/

/-- The part of a station report before its counters (R185). -/
def Station.reportHead (r : Station) (i : Nat) : List Byte :=
  beBytes 2 i ++ beBytes 1 r.admin.code ++ beBytes 1 r.cls.val ++ beBytes 1 r.rate.val ++ beBytes 1 r.flagByte
    ++ beBytes 1 r.share.percent ++ beBytes 1 r.list.code ++ beBytes 1 (r.slot.getD 0xFF) ++ zeros 1
    ++ beBytes 6 r.address.toNat ++ beBytes 4 (BitVec.ofInt 32 r.deficit).toNat ++ beBytes 2 r.queue.length ++ zeros 2

/-- The counters of a station report. -/
def Station.reportCounters (r : Station) (format : ReportFormat) : List Byte :=
  (r.counters.inOrder.map (counterBytes format)).flatten

/-- The stamp of a station's head frame, 0 with none. -/
def State.headStamp (s : State) (i : Nat) : Nat :=
  ((s.station i).queue.head?.map fun d => (s.desc d).stamp.toNat).getD 0

/-- The part of a station report after its counters (R185). -/
def State.reportTail (s : State) (format : ReportFormat) (i : Nat) : List Byte :=
  match format with
  | .compact => []
  | .full => beBytes 4 (s.headStamp i) ++ zeros 4

theorem State.stationReport_eq (s : State) (format : ReportFormat) (i : Nat) :
    s.stationReport format i
      = (s.station i).reportHead i ++ (s.station i).reportCounters format ++ s.reportTail format i := by
  have stamp : (match (s.station i).queue with | [] => 0 | d :: _ => (s.desc d).stamp.toNat) = s.headStamp i := by
    unfold State.headStamp
    cases (s.station i).queue <;> rfl
  cases format with
  | compact => rfl
  | full =>
    exact congrArg (fun n => (s.station i).reportHead i ++ (s.station i).reportCounters .full
      ++ (beBytes 4 n ++ zeros 4)) stamp

theorem Station.length_reportHead (r : Station) (i : Nat) : (r.reportHead i).length = 24 := by
  simp [Station.reportHead]

theorem Station.length_reportCounters (r : Station) (format : ReportFormat) :
    (r.reportCounters format).length = 8 * format.counterWidth := by
  simp [Station.reportCounters, StationCounters.inOrder, length_counterBytes]
  ring

theorem State.length_stationReport (s : State) (format : ReportFormat) (i : Nat) :
    (s.stationReport format i).length = if format = .full then 96 else 56 := by
  rw [State.stationReport_eq]
  cases format <;>
    simp [Station.length_reportHead, Station.length_reportCounters, ReportFormat.counterWidth, State.reportTail]

/-- A field before the counters. -/
theorem State.fieldAt_stationReport_head (s : State) (format : ReportFormat) (i : Nat) {offset n : Nat}
    (inHead : offset + n ≤ 24) :
    fieldAt (s.stationReport format i) offset n = fieldAt ((s.station i).reportHead i) offset n := by
  rw [State.stationReport_eq, List.append_assoc,
    fieldAt_append_left _ _ _ _ (inHead.trans_eq (Station.length_reportHead _ _).symm)]

/-- Counter `j` of a report. -/
theorem State.fieldAt_stationReport_counter (s : State) (format : ReportFormat) (i : Nat) {j : Nat} (h : j < 8) :
    fieldAt (s.stationReport format i) (24 + format.counterWidth * j) format.counterWidth
      = fieldAt (counterBytes format ((s.station i).counters.inOrder.getD j 0)) 0 format.counterWidth := by
  let fields := (s.station i).counters.inOrder.map (counterBytes format)
  have count : fields.length = 8 := rfl
  have width : ∀ x ∈ fields, x.length = format.counterWidth := fun x mem => by
    obtain ⟨c, -, rfl⟩ := List.mem_map.1 mem
    exact length_counterBytes format c
  have inside : format.counterWidth * j + format.counterWidth ≤ ((s.station i).reportCounters format).length := by
    rw [Station.length_reportCounters, ← Nat.mul_succ, Nat.mul_comm]
    exact Nat.mul_le_mul_right _ h
  have field : fields.getD j [] = counterBytes format ((s.station i).counters.inOrder.getD j 0) := by
    rw [List.getD_eq_getElem _ _ (count.symm ▸ h), List.getD_eq_getElem _ _ (show j < 8 from h)]
    exact List.getElem_map _
  rw [State.stationReport_eq, List.append_assoc,
    fieldAt_append_right _ _ _ _ (by rw [Station.length_reportHead]; exact Nat.le_add_right _ _),
    Station.length_reportHead, Nat.add_sub_cancel_left, fieldAt_append_left _ _ _ _ inside, ← field]
  exact fieldAt_flatten fields j width (count.symm ▸ h)

theorem State.fieldAt_compactReport_counter (s : State) (i : Nat) {j : Nat} (h : j < 8) :
    fieldAt (s.stationReport .compact i) (24 + 4 * j) 4
      = ((s.station i).counters.inOrder.getD j 0).toNat % 4294967296 := by
  have read := s.fieldAt_stationReport_counter .compact i h
  simp only [ReportFormat.counterWidth, counterBytes, fieldAt_beBytes] at read
  exact read.trans (Nat.mod_mod _ _)

theorem State.fieldAt_fullReport_counter (s : State) (i : Nat) {j : Nat} (h : j < 8) :
    fieldAt (s.stationReport .full i) (24 + 8 * j) 8 = ((s.station i).counters.inOrder.getD j 0).toNat := by
  have read := s.fieldAt_stationReport_counter .full i h
  simp only [ReportFormat.counterWidth, counterBytes, fieldAt_beBytes] at read
  exact read.trans (Nat.mod_eq_of_lt ((BitVec.isLt _).trans (by decide)))

/-- The stamp of the head frame in a FULL report. -/
theorem State.fieldAt_stationReport_headStamp (s : State) (i : Nat) :
    fieldAt (s.stationReport .full i) 88 4 = s.headStamp i := by
  have stamp : s.headStamp i < 256 ^ 4 := by
    unfold State.headStamp
    cases (s.station i).queue with
    | nil => exact Nat.zero_lt_succ _
    | cons d rest => exact (s.desc d).stamp.isLt
  have front : ((s.station i).reportHead i ++ (s.station i).reportCounters .full).length = 88 := by
    rw [List.length_append, Station.length_reportHead, Station.length_reportCounters]
    rfl
  rw [State.stationReport_eq, fieldAt_append_right _ _ _ _ front.le, front, State.reportTail,
    fieldAt_append_left _ _ _ _ (by simp), fieldAt_beBytes, Nat.mod_eq_of_lt stamp]

/-- Every field before the counters stands where 12.4 puts it. -/
theorem Station.fieldAt_reportHead (r : Station) (i : Nat) :
    fieldAt (r.reportHead i) 0 2 = i % 65536 ∧ fieldAt (r.reportHead i) 2 1 = r.admin.code % 256
      ∧ fieldAt (r.reportHead i) 3 1 = r.cls.val % 256 ∧ fieldAt (r.reportHead i) 4 1 = r.rate.val % 256
      ∧ fieldAt (r.reportHead i) 5 1 = r.flagByte % 256 ∧ fieldAt (r.reportHead i) 6 1 = r.share.percent % 256
      ∧ fieldAt (r.reportHead i) 7 1 = r.list.code % 256 ∧ fieldAt (r.reportHead i) 8 1 = r.slot.getD 0xFF % 256
      ∧ fieldAt (r.reportHead i) 10 6 = r.address.toNat
      ∧ fieldAt (r.reportHead i) 16 4 = (BitVec.ofInt 32 r.deficit).toNat
      ∧ fieldAt (r.reportHead i) 20 2 = r.queue.length % 65536 := by
  have address : r.address.toNat < 256 ^ 6 := r.address.isLt
  have deficit : (BitVec.ofInt 32 r.deficit).toNat < 256 ^ 4 := BitVec.isLt _
  simp only [Station.reportHead]
  simp [fieldAt_append_left, fieldAt_append_right, fieldAt_beBytes, -BitVec.toNat_ofInt]
  exact ⟨address, deficit⟩

/-- The flags of a record in their bits (12.4). -/
theorem Station.flagByte_bits (r : Station) :
    let flags := BitVec.ofNat 8 r.flagByte
    flags.getLsbD 7 = (r.rateLock == .locked) ∧ flags.getLsbD 6 = (r.power == .dozing) ∧ flags.getLsbD 5 = r.hold
      ∧ flags.getLsbD 4 = r.faultFlag ∧ flags.getLsbD 3 = r.poll := by
  have bits : ∀ a b c d e : Bool,
      let flags := BitVec.ofNat 8 (128 * a.toNat + 64 * b.toNat + 32 * c.toNat + 16 * d.toNat + 8 * e.toNat)
      flags.getLsbD 7 = a ∧ flags.getLsbD 6 = b ∧ flags.getLsbD 5 = c ∧ flags.getLsbD 4 = d
        ∧ flags.getLsbD 3 = e := by decide
  exact bits _ _ _ _ _

/-- The index of a report in the words of the manual (R184). -/
theorem readIndex_eq (start window k : Nat) : readIndex start window k =
    if window = 0 then (start + k) % 512 else start / window * window + (start % window + k) % window := by
  rw [readIndex, Nat.mul_comm window, ← Nat.mod_eq_sub_div_mul]

/-- A read from the cursor takes its start and its window from the cursor (R182). -/
theorem readStart_cursor {body : List Byte} (h : fieldAt body 0 2 = 0xFFFF) (cursor : Option Cursor) :
    readStart body cursor = ((cursor.map Cursor.next).getD 0, (cursor.map Cursor.window).getD 0) := by
  unfold readStart
  rw [if_pos (show fromCursor body = true from beq_iff_eq.2 h)]
  cases cursor <;> rfl

theorem readStart_fields {body : List Byte} (h : fieldAt body 0 2 ≠ 0xFFFF) (cursor : Option Cursor) :
    readStart body cursor = (fieldAt body 0 2, (byteAt body 3).toNat) := if_neg (mt beq_iff_eq.1 h)

/-! ### One report of STATION READ -/

/-- The index of report `k` of a read. -/
def readPlace (body : List Byte) (cursor : Option Cursor) (k : Nat) : Nat :=
  readIndex (readStart body cursor).1 (readStart body cursor).2 k

/-- The state after the report of station `i`: its counters cleared if the read asks for it (R185). -/
def State.afterReport (s : State) (body : List Byte) (i : Nat) : State :=
  if (byteAt body 5).toNat ≠ 0 then s.clearCounters i else s

/-- The clear touches the counters of one record, and those of a FREE one not at all. -/
theorem State.afterReport_spec (s : State) (body : List Byte) (i : Nat) :
    let u := s.afterReport body i
    let r := s.station i
    u = { s with stations := u.stations } ∧ OtherStationsKeep s u i
      ∧ u.station i =
          if (byteAt body 5).toNat ≠ 0 ∧ r.admin ≠ .free then { r with counters := StationCounters.zero } else r := by
  intro u r
  by_cases cleared : (byteAt body 5).toNat ≠ 0 ∧ r.admin ≠ .free
  · obtain ⟨asked, live⟩ := cleared
    have is : u = s.setStation i { r with counters := StationCounters.zero } := (if_pos asked).trans (if_neg live)
    rw [is, if_pos ⟨asked, live⟩]
    exact ⟨rfl, fun _ other => s.station_setStation_ne _ other, s.station_setStation_same i (Station.ne_free live)⟩
  · have is : u = s := by
      by_cases asked : (byteAt body 5).toNat ≠ 0
      · exact (if_pos asked).trans (if_pos (not_not.1 fun live => cleared ⟨asked, live⟩))
      · exact if_neg asked
    rw [is, if_neg cleared]
    exact ⟨rfl, fun _ _ => rfl, rfl⟩

theorem ReportFormat.beBytes_code (format : ReportFormat) :
    beBytes 1 format.code = [if format = .full then 1 else 0] := by
  cases format <;> rfl

/-- One report of a read: it joins those before, and the last answers the request (R183, R185). -/
theorem State.readClaim_eq (s : State) (e : Execution) :
    let body := e.request.body
    let place := readPlace body s.rp.cursor
    let report := s.stationReport s.rp.options.format (place e.done)
    let u := s.afterReport body (place e.done)
    s.readClaim e =
      if (byteAt body 2).toNat ≤ e.done + 1 then
        u.answered s.rp.queue
          (acceptedResponse e.request
            ([byteAt body 2, if s.rp.options.format = .full then 1 else 0, 0, 0] ++ e.out ++ report))
          (if (byteAt body 4).toNat = 0 then none
           else some { next := place (byteAt body 2).toNat, window := (readStart body s.rp.cursor).2 })
      else u.progress e report := by
  intro body place report u
  obtain ⟨same, -, -⟩ := s.afterReport_spec body (place e.done)
  have queue : u.rp.queue = s.rp.queue := (congrArg (fun t : State => t.rp.queue) same :)
  have answer (r : Response) (c : Option Cursor) : u.finish r c = u.answered s.rp.queue r c := by
    rw [State.finish_eq, queue]
  have header : beBytes 1 (byteAt body 2).toNat ++ beBytes 1 s.rp.options.format.code ++ zeros 2
      = [byteAt body 2, if s.rp.options.format = .full then 1 else 0, 0, 0] := by
    rw [beBytes_byte, ReportFormat.beBytes_code]
    rfl
  rw [← header, ← answer, ← ite_not (p := (byteAt body 4).toNat = 0)]
  rfl

theorem exec_stationRead_one {s : State} {e : Execution} (h : s.Executes .stationRead e) :
    exec (.stationRead 1) s = .next (s.readClaim e) := congrArg Host.Outcome.next (State.claimRequest_one h _ _)

/-- Settles O53: the report is made and carried on, then read field by field. -/
theorem stationReadReport : Obligations.StationReadReport := by
  intro s e running body b fromCursor start window index i r full counters
  have started : readStart body s.rp.cursor = (start, window) := by
    by_cases h : fromCursor
    · rw [readStart_cursor h]
      exact (congrArg₂ Prod.mk (if_pos h) (if_pos h)).symm
    · rw [readStart_fields h]
      exact (congrArg₂ Prod.mk (if_neg h) (if_neg h)).symm
  have place (k : Nat) : readPlace body s.rp.cursor k = index k := by
    rw [readPlace, started]
    exact readIndex_eq start window k
  have ran := exec_stationRead_one running
  rw [State.readClaim_eq, started, place, place] at ran
  obtain ⟨same, others, record⟩ := s.afterReport_spec body i
  obtain ⟨number, admin, cls, rate, flags, share, list, slot, address, deficit, length⟩ := r.fieldAt_reportHead i
  have field {offset n v : Nat} (value : fieldAt (r.reportHead i) offset n = v) (inHead : offset + n ≤ 24) :
      fieldAt (s.stationReport s.rp.options.format i) offset n = v :=
    (s.fieldAt_stationReport_head _ i inHead).trans value
  refine ⟨s.afterReport body i, s.stationReport s.rp.options.format i, ran, same, others, record,
    s.length_stationReport _ i, field number (by decide), ?_, ?_, ?_, ?_, ?_, ?_, ?_, ?_, field address (by decide),
    field deficit (by decide), field length (by decide), ?_, ?_⟩
  · rw [field admin (by decide)]
    cases r.admin <;> rfl
  · rw [field cls (by decide)]
    exact Nat.mod_eq_of_lt (r.cls.isLt.trans (by decide))
  · rw [field rate (by decide)]
    exact Nat.mod_eq_of_lt (r.rate.isLt.trans (by decide))
  · have byte : byteAt (s.stationReport s.rp.options.format i) 5 = BitVec.ofNat 8 r.flagByte :=
      BitVec.eq_of_toNat_eq
        ((fieldAt_one _ 5).symm.trans ((field flags (by decide)).trans (BitVec.toNat_ofNat _ 8).symm))
    obtain ⟨lock, power, rest⟩ := r.flagByte_bits
    rw [byte]
    exact ⟨by rw [lock, beq_iff_eq], by rw [power, beq_iff_eq], rest⟩
  · rw [field share (by decide)]
    cases r.share <;> rfl
  · rw [field list (by decide)]
    cases r.list <;> rfl
  · exact fun none_ => (field slot (by decide)).trans (by rw [none_]; rfl)
  · exact fun k some_ => (field slot (by decide)).trans (by rw [some_]; rfl)
  · intro compact j low
    have format : s.rp.options.format = .compact := by
      cases h : s.rp.options.format with
      | compact => rfl
      | full => exact absurd h compact
    rw [format]
    exact s.fieldAt_compactReport_counter i low
  · intro isFull
    rw [show s.rp.options.format = .full from isFull]
    exact ⟨fun j low => s.fieldAt_fullReport_counter i low, s.fieldAt_stationReport_headStamp i⟩

/-! ### One counter of COUNTER READ -/

/-- Clearing a counter sets its place in the order of R187 to 0, and no other. -/
theorem PartCounters.inOrder_clear (c : PartCounters) : ∀ k, (c.clear k).inOrder = c.inOrder.set k 0
  | 0 | 1 | 2 | 3 | 4 | 5 | 6 | 7 | 8 | 9 | 10 => rfl
  | _ + 11 => rfl

theorem counterBytes_eq (format : ReportFormat) (c : Counter48) :
    counterBytes format c = if format = .full then beBytes 8 c.toNat else beBytes 4 (c.toNat % 4294967296) := by
  cases format <;> rfl

/-- The state after counter `k` has been read: the counter cleared if the read asks for it (R187). -/
def State.afterCounter (s : State) (body : List Byte) (k : Nat) : State :=
  if (byteAt body 0).toNat = 1 then { s with ctr := s.ctr.clear k } else s

/-- The clear touches one counter. -/
theorem State.afterCounter_spec (s : State) (body : List Byte) (k : Nat) :
    let u := s.afterCounter body k
    u = { s with ctr := u.ctr }
      ∧ u.ctr.inOrder = if byteAt body 0 = 1 then s.ctr.inOrder.set k 0 else s.ctr.inOrder := by
  intro u
  have asked : (byteAt body 0).toNat = 1 ↔ byteAt body 0 = 1 := BitVec.toNat_inj (y := (1 : Byte))
  by_cases clear : byteAt body 0 = 1
  · have is : u = { s with ctr := s.ctr.clear k } := if_pos (asked.2 clear)
    rw [is, if_pos clear]
    exact ⟨rfl, s.ctr.inOrder_clear k⟩
  · have is : u = s := if_neg (mt asked.1 clear)
    rw [is, if_neg clear]
    exact ⟨rfl, rfl⟩

/-- One counter of a read: it joins those before, and the eleventh answers the request (R187). -/
theorem State.counterClaim_eq (s : State) (e : Execution) :
    let body := e.request.body
    let full := s.rp.options.format = .full
    let c := s.ctr.inOrder.getD e.done 0
    let report := if full then beBytes 8 c.toNat else beBytes 4 (c.toNat % 4294967296)
    let u := s.afterCounter body e.done
    s.counterClaim e =
      if 11 ≤ e.done + 1 then
        u.answered s.rp.queue (acceptedResponse e.request ([if full then 1 else 0, 0, 0, 0] ++ e.out ++ report)) none
      else u.progress e report := by
  intro body full c report u
  obtain ⟨same, -⟩ := s.afterCounter_spec body e.done
  have queue : u.rp.queue = s.rp.queue := (congrArg (fun t : State => t.rp.queue) same :)
  have answer (r : Response) : u.finish r none = u.answered s.rp.queue r none := by rw [State.finish_eq, queue]
  have header : beBytes 1 s.rp.options.format.code ++ zeros 3 = [if full then 1 else 0, 0, 0, 0] := by
    rw [ReportFormat.beBytes_code]
    rfl
  rw [← header, ← answer, show report = counterBytes s.rp.options.format c from (counterBytes_eq _ c).symm]
  rfl

theorem exec_counterRead_one {s : State} {e : Execution} (h : s.Executes .counterRead e) :
    exec (.counterRead 1) s = .next (s.counterClaim e) := congrArg Host.Outcome.next (State.claimRequest_one h _ _)

/-- Settles O54: the counter is read and carried on, then cleared if asked. -/
theorem counterReadReport : Obligations.CounterReadReport := by
  intro s e running more full c report
  obtain ⟨same, cleared⟩ := s.afterCounter_spec e.request.body e.done
  have last : 11 ≤ e.done + 1 ↔ e.done = 10 := by omega
  refine ⟨s.afterCounter e.request.body e.done, ?_, same, cleared, rfl⟩
  rw [exec_counterRead_one running, State.counterClaim_eq, if_congr last rfl rfl]
  rfl

end Sys2Proof.Machine
end

section
/-! PROOFS. Steps and resets: the command at the front of the queue (O1), one microsecond on an empty queue (O2), and
the state after a power-on reset and after a soft reset (02 §2.8, 11 §11.6, 11.7, O3, O4, O6, O55). -/

set_option Elab.async false

namespace Sys2Proof.Machine

/-! ### The command queue -/

/-- Settles O1: a step reads the front of the queue. -/
theorem stepTakesFrontCommand : Obligations.StepTakesFrontCommand := by
  intro c rest s waiting
  unfold step
  rw [waiting]

/-- With no command waiting a microsecond passes (log 2). -/
theorem step_idle {s : State} (idle : s.pending = []) : step s = .next s.tick := by
  unfold step
  rw [idle]

/-! ### One microsecond (R12, R112, R148, R151) -/

theorem Timer.tick_eq (t : Timer) :
    t.tick = { t with elapsed := if t.elapsed < t.limit then t.elapsed + 1 else t.elapsed } := by
  unfold Timer.tick
  split <;> rfl

/-- The settle count moves towards the end it counts to, and the link stands (R12). -/
theorem RadioLink.tick_eq (r : RadioLink) :
    r.tick = { r with
      settle :=
        if (r.up = false ∧ r.lock = true ∧ r.settle < 1000) ∨ (r.up = true ∧ r.lock = false ∧ r.settle < 100) then
          r.settle + 1
        else r.settle } := by
  unfold RadioLink.tick
  by_cases rising : r.up = false ∧ r.lock = true ∧ r.settle < 1000
  · rw [if_pos rising, if_pos (.inl rising)]
  · by_cases falling : r.up = true ∧ r.lock = false ∧ r.settle < 100
    · rw [if_neg rising, if_pos falling, if_pos (.inr falling)]
    · rw [if_neg rising, if_neg falling, if_neg (not_or.2 ⟨rising, falling⟩)]

/-- Damage writes descriptors alone (log 9). -/
theorem BufferManager.damage_frame (b : BufferManager) (x : Option (Nat × Config.Damage)) :
    b.damage x = { b with descs := (b.damage x).descs } := by
  unfold BufferManager.damage
  split
  · rfl
  · simp only
    split <;> rfl

/-- Damage leaves each descriptor its place, its reason and its bad cell (log 9). -/
theorem BufferManager.desc_damage (b : BufferManager) (x : Option (Nat × Config.Damage)) (d : Nat) :
    ((b.damage x).desc d).place = (b.desc d).place ∧ ((b.damage x).desc d).reason = (b.desc d).reason
      ∧ ((b.damage x).desc d).badCell = (b.desc d).badCell := by
  unfold BufferManager.damage
  split
  · exact ⟨rfl, rfl, rfl⟩
  case h_2 e new =>
    simp only
    split
    case isFalse => exact ⟨rfl, rfl, rfl⟩
    case isTrue struck =>
      by_cases other : d = e
      case neg => rw [desc_setDesc_ne _ _ other]; exact ⟨rfl, rfl, rfl⟩
      case pos =>
        subst other
        rw [desc_setDesc_same]
        · exact ⟨rfl, rfl, rfl⟩
        · intro cleared
          have free : (b.desc d).place = .free := congrArg Descriptor.place cleared
          rw [free] at struck
          simp at struck

/-- Damage to a word changes how it reads against its code alone (log 7). -/
theorem BufferManager.damageWord_frame (b : BufferManager) (x : Option (Nat × Ecc)) :
    b.damageWord x = { b with ecc := (b.damageWord x).ecc } := by
  unfold BufferManager.damageWord
  split
  · rfl
  · split <;> rfl

/-- What a microsecond leaves of the Buffer Manager: both kinds of damage are free values (log 7, log 9). -/
def State.damagedBm (s : State) : BufferManager :=
  (s.bm.damage (Config.descriptorDamage s.freeCtr)).damageWord (Config.memoryDamage s.freeCtr)

theorem State.damagedBm_frame (s : State) :
    s.damagedBm = { s.bm with descs := s.damagedBm.descs, ecc := s.damagedBm.ecc } := by
  unfold State.damagedBm
  rw [BufferManager.damageWord_frame, BufferManager.damage_frame]

theorem State.desc_damagedBm (s : State) (d : Nat) :
    (s.damagedBm.desc d).place = (s.desc d).place ∧ (s.damagedBm.desc d).reason = (s.desc d).reason
      ∧ (s.damagedBm.desc d).badCell = (s.desc d).badCell := by
  unfold State.damagedBm
  rw [BufferManager.damageWord_frame]
  exact s.bm.desc_damage _ d

/-- Outside a reset a microsecond passes for the Time Base, the timers and the settle count. -/
theorem State.tick_running {s : State} (running : s.inReset = false) :
    s.tick = { s with
      timeBase := s.timeBase + 1
      radio := s.radio.tick
      sched := { s.sched with slots := s.sched.slots.map fun e => (e.1, e.2.map Grant.tick) }
      sweep := { s.sweep with timer := s.sweep.timer.map Timer.tick }
      bm := s.damagedBm
      freeCtr := s.freeCtr + 1 } := if_neg (by rw [running]; nofun)

/-- Every open slot ticks, and no other (R112). -/
theorem State.slot_tick {s : State} (running : s.inReset = false) (k : Nat) :
    s.tick.slot k = (s.slot k).map Grant.tick := by
  rw [State.tick_running running]
  exact Table.get_map none (f := Option.map Grant.tick) rfl _ k

theorem Grant.tick_streaming {g : Grant} (streaming : g.stream = .streaming) : g.tick = g := by
  unfold Grant.tick
  rw [streaming]

theorem Grant.tick_sent {g : Grant} {tm : Timer} (sent : g.stream = .sent tm) :
    g.tick = { g with stream := .sent tm.tick } := by
  unfold Grant.tick
  rw [sent]

/-- Settles O2: the microsecond block by block, then what it leaves of each. -/
theorem idleStepPassesOneMicrosecond : Obligations.IdleStepPassesOneMicrosecond := by
  intro s idle
  refine ⟨fun resetting => (step_idle idle).trans (congrArg _ (if_pos resetting)), fun running => ?_⟩
  have slot := State.slot_tick running
  have is := State.tick_running running
  have radio : s.tick.radio = s.radio.tick := congrArg State.radio is
  have timer : s.tick.sweep.timer = s.sweep.timer.map Timer.tick := congrArg (fun t : State => t.sweep.timer) is
  have bm : s.tick.bm = s.damagedBm := congrArg State.bm is
  refine ⟨s.tick, step_idle idle, ?_, fun k free => ?_, fun k g open_ streaming => ?_, fun k g tm open_ sent => ?_,
    fun off => ?_, fun tm on => ?_, ?_, fun d => ?_⟩
  · have link : s.radio.tick = { s.radio with settle := s.tick.radio.settle } := by rw [radio, RadioLink.tick_eq]
    have pools : s.damagedBm = { s.bm with descs := s.tick.bm.descs, ecc := s.tick.bm.ecc } := by
      rw [bm]
      exact s.damagedBm_frame
    have slots : s.sched.slots.map (fun e => (e.1, e.2.map Grant.tick)) = s.tick.sched.slots :=
      (congrArg (fun t : State => t.sched.slots) is).symm
    exact is.trans (by rw [← link, ← slots, timer, ← pools])
  · rw [slot, free]
    rfl
  · rw [slot, open_, Option.map_some, Grant.tick_streaming streaming]
  · rw [slot, open_, Option.map_some, Grant.tick_sent sent, Timer.tick_eq]
  · rw [timer, off]
    rfl
  · rw [timer, on, Option.map_some, Timer.tick_eq]
  · rw [radio, RadioLink.tick_eq]
  · have desc : s.tick.desc d = s.damagedBm.desc d := congrArg (fun b : BufferManager => b.desc d) bm
    rw [desc]
    exact s.desc_damagedBm d

/-! ### The state after a reset (2.8) -/

/-- Settles O3: the free lists hold all their numbers in order, and every other field is at its reset value. -/
theorem resetLeavesResetValues : Obligations.ResetLeavesResetValues := by
  have freeDescs : State.reset.bm.freeDescs.toList = List.range 8192 := Runs.toList_upTo 8192
  have freeCells : State.reset.bm.freeCells.toList = List.range 16384 := Runs.toList_upTo 16384
  have freeGeneral : State.reset.bm.freeGeneral = 8160 := by
    rw [BufferManager.freeGeneral_eq, freeDescs, List.length_range]
  have freeCellCount : State.reset.bm.freeCellCount = 16384 := by
    rw [BufferManager.freeCellCount_eq, freeCells, List.length_range]
  exact ⟨fun _ => rfl, freeDescs, fun _ => rfl, freeCells, freeGeneral, freeCellCount, rfl, rfl, rfl, rfl, rfl,
    fun _ => rfl, rfl, rfl, fun _ => ⟨rfl, rfl⟩, fun _ => ⟨rfl, rfl⟩, rfl, rfl, rfl, fun _ => rfl, rfl,
    rfl, rfl, rfl, rfl, rfl, rfl, rfl, rfl, rfl, rfl, rfl, rfl, rfl, rfl, rfl, rfl⟩

/-- The blocks at their reset values differ from the state after a power-on reset in what is carried over, and in that
the reset has not ended. -/
theorem State.blocksReset_eq (pending : List Instr) (lock up : Bool) (mem : Memory) (ecc : Table Ecc) (n : Nat) :
    State.blocksReset pending lock up mem ecc n =
      { State.reset with
        pending := pending
        inReset := true
        radio := { up := up, lock := lock, settle := 0, stream := none }
        bm := { State.reset.bm with mem := mem, ecc := ecc }
        sched := { State.reset.sched with causes := { host := false, radio := false, link := !up } }
        events := { records := [], lost := 0 }
        freeCtr := n } := rfl

/-- Settles O4: the reset ends at once with the strap low, and waits for the self-test with it high. -/
theorem powerOnResetReachesReset : Obligations.PowerOnResetReachesReset := by
  intro s
  have blocks := State.blocksReset_eq s.pending s.radio.lock false s.bm.mem s.bm.ecc s.freeCtr
  exact ⟨congrArg (fun t => Host.Outcome.next (State.endReset t true)) blocks, congrArg Host.Outcome.next blocks⟩

/-- The ACCEPTED response to PART RESET on the line is what SOFT_RESET waits for (R188). -/
theorem State.partResetOnLine_of_line {s : State} {flag : Bool} {r : Response}
    (line : s.tx.line = some { pauseFlag := flag, body := .response r }) (code : r.code = 0x3F)
    (accepted : r.status = .accepted) : s.partResetOnLine = true := by
  simp [State.partResetOnLine, OutFrame.ownEnd, line, code, accepted]

/-- Settles O6: the blocks are reset with the link as it stands, and the reset ends at once. -/
theorem softResetKeepsLinkState : Obligations.SoftResetKeepsLinkState := by
  intro s flag r line code accepted
  have blocks := State.blocksReset_eq s.pending s.radio.lock s.radio.up s.bm.mem s.bm.ecc s.freeCtr
  have taken : exec .softReset s = .next ((State.blocksReset ..).endReset false) :=
    congrArg Host.Outcome.next (if_pos (State.partResetOnLine_of_line line code accepted))
  exact taken.trans (congrArg (fun t => Host.Outcome.next (State.endReset t false)) blocks)

/-! ### The laws at reset -/

theorem State.canonical_reset : State.reset.Canonical := ⟨rfl, rfl, rfl, rfl, rfl, rfl, rfl, rfl, rfl, rfl⟩

theorem State.withinCapacity_reset : State.reset.WithinCapacity :=
  ⟨Nat.zero_le _, Nat.zero_le _, Nat.zero_le _, by decide⟩

/-- Settles O55: the laws hold with every block at its reset values, and the end of the reset keeps them. -/
theorem resetObeysLaws : Obligations.ResetObeysLaws := by
  have governed : State.reset.Governed := .reset ..
  have lawful : State.reset.Lawful := (State.lawful_blocksReset ..).endReset true
  have places : State.reset.Places none [] := (State.places_blocksReset ..).stands (State.stands_endReset _ true)
  have cells : State.reset.bm.CellsSound := BufferManager.cellsSound_afterReset [] []
  exact ⟨State.canonical_reset, State.withinCapacity_reset, cells.2, governed.relations, governed.clock.timer,
    governed.feeder, governed.clock.retire, lawful.stationLaws, places.placeLaw⟩

end Sys2Proof.Machine
end

section
/-! PROOFS. Requests executed claim by claim (R59): what begins one, and that its claims may be divided at any claim (04
§4.3, 11 §11.4, 11.5, O49). -/

set_option Elab.async false

namespace Sys2Proof.Machine

/-! ### A claim stays with its request -/

/-- The request in execution, if one is, is `q`. -/
def State.StaysWith (t : State) (q : Request) : Prop := ∀ e, t.rp.executing = some e → e.request = q

theorem State.executing_finish (t : State) (r : Response) (c : Option Cursor) : (t.finish r c).rp.executing = none := by
  rw [State.finish_eq]
  rfl

theorem State.staysWith_finish (t : State) (r : Response) (c : Option Cursor) (q : Request) :
    (t.finish r c).StaysWith q := by
  intro e running
  rw [State.executing_finish] at running
  cases running

theorem State.staysWith_progress (t : State) (e : Execution) (out : List Byte) :
    (t.progress e out).StaysWith e.request := by
  rintro _ ⟨⟩
  rfl

/-- A claim that is either the last or one of those before it. -/
theorem State.staysWith_last_or_progress (c : Prop) [Decidable c] (t : State) (e : Execution) (out : List Byte)
    (r : Response) (cursor : Option Cursor) :
    (if c then t.finish r cursor else t.progress e out).StaysWith e.request := by
  split
  · exact t.staysWith_finish r cursor _
  · exact t.staysWith_progress e out

theorem State.staysWith_entryClaim (s : State) (e : Execution) (entries index : Nat) (result : Except Reason State) :
    (s.entryClaim e entries index result).StaysWith e.request := by
  cases result with
  | error reason => exact s.staysWith_finish _ none _
  | ok t => exact t.staysWith_last_or_progress (entries ≤ e.done + 1) e _ _ none

/-- Claims that each stay with their request stay with it together. -/
theorem State.staysWith_claims {claim : Execution → State → State}
    (stays : ∀ e t, (claim e t).StaysWith e.request) {q : Request} : ∀ (n : Nat) {s : State}, s.StaysWith q →
    (State.claims claim n s).StaysWith q
  | 0, _, h => h
  | n + 1, s, h => by
    rw [State.claims]
    split
    · exact h
    case h_2 e running => exact State.staysWith_claims stays n (h e running ▸ stays e s)

/-! ### What serving a request claim by claim can come to -/

theorem State.code_of_takeRequest {s u : State} {k : Option RequestKind} {q : Request}
    (taken : s.takeRequest k = some (q, u)) : RequestKind.ofCode q.code = k := by
  unfold State.takeRequest at taken
  split at taken
  · split at taken
    · split at taken
      case isTrue code =>
        cases taken
        exact code
      case isFalse => cases taken
    · cases taken
  · cases taken

/-- The state with request `q` in execution and nothing of it done (R59). -/
def State.begun (s : State) (q : Request) : State :=
  { s with rp := { s.rp with executing := some { request := q, done := 0, out := [] } } }

/-- A request in execution goes on (R59). -/
theorem State.claimRequest_executes {s : State} {k : RequestKind} {e : Execution} (h : s.Executes k e)
    (fields : Request → State → Option Reason) (claim : Execution → State → State) (n : Nat) :
    s.claimRequest k fields claim n = State.claims claim n s := by
  obtain ⟨running, code⟩ := h
  unfold State.claimRequest
  simp only [running, code, if_true]

/-- Whatever the number of claims, it is one of three: nothing, a refusal, or claims of a request in execution. -/
theorem State.claimRequest_cases (s : State) (k : RequestKind) (fields : Request → State → Option Reason)
    (claim : Execution → State → State) :
    (∀ n, s.claimRequest k fields claim n = s)
      ∨ (∃ u : State, u.rp.executing = none ∧ ∀ n, s.claimRequest k fields claim n = u)
      ∨ ∃ (u : State) (e : Execution), u.Executes k e
          ∧ ∀ n, s.claimRequest k fields claim n = State.claims claim n u := by
  cases running : s.rp.executing with
  | some e =>
    by_cases own : RequestKind.ofCode e.request.code = some k
    · exact .inr (.inr ⟨s, e, ⟨running, own⟩, State.claimRequest_executes ⟨running, own⟩ fields claim⟩)
    · exact .inl fun n => by simp only [State.claimRequest, running, own, if_false]
  | none =>
    cases taken : s.takeRequest (some k) with
    | none => exact .inl fun n => by simp only [State.claimRequest, running, taken]
    | some p =>
      obtain ⟨q, u⟩ := p
      cases fault : (requestFault k q u.sched.state <|> fields q u) with
      | some reason =>
        exact .inr (.inl ⟨_, u.executing_finish (q.refused reason) none, fun n => by
          simp only [State.claimRequest, running, taken, fault]⟩)
      | none =>
        exact .inr (.inr ⟨u.begun q, _, ⟨rfl, State.code_of_takeRequest taken⟩, fun n => by
          simp only [State.claimRequest, running, taken, fault, State.begun]⟩)

/-- The claims of a request may be divided at any claim; after its answer none is left (R59). -/
theorem State.claimRequest_add {claim : Execution → State → State}
    (stays : ∀ e t, (claim e t).StaysWith e.request) (s : State) (k : RequestKind)
    (fields : Request → State → Option Reason) (m n : Nat) :
    s.claimRequest k fields claim (m + n) =
      if (s.claimRequest k fields claim m).rp.executing = none then s.claimRequest k fields claim m
      else (s.claimRequest k fields claim m).claimRequest k fields claim n := by
  rcases s.claimRequest_cases k fields claim with nothing | ⟨u, answered, refused⟩ | ⟨u, e, ⟨running, code⟩, goesOn⟩
  · rw [nothing, nothing, nothing, ite_self]
  · rw [refused, refused, if_pos answered]
  · have first : u.StaysWith e.request := fun e' is => by
      rw [running] at is
      cases is
      rfl
    rw [goesOn, goesOn, State.claims_add]
    cases after : (State.claims claim m u).rp.executing with
    | none => rw [if_pos rfl, State.claims_none claim after]
    | some e' =>
      have same : e'.request = e.request := State.staysWith_claims stays m first e' after
      rw [if_neg nofun, State.claimRequest_executes ⟨after, by rw [same]; exact code⟩]

/-! ### The requests executed claim by claim -/

/-- Check 5 of R177 on a whole request: the fields of STATION READ (R182) and of COUNTER READ (R187). -/
def State.wholeCheck (s : State) (k : RequestKind) (q : Request) : Option Reason :=
  let b := fun j => (byteAt q.body j).toNat
  let most := if s.rp.options.format = .compact then 32 else 8
  if k = .stationRead then
    if b 2 = 0 ∨ most < b 2 then some .badField
    else if fieldAt q.body 0 2 = 0xFFFF then (if s.rp.cursor = none then some .noCursor else none)
    else if 512 ≤ fieldAt q.body 0 2 ∨ b 3 ∉ [0, 8, 16, 32, 64] then some .badField
    else none
  else if k = .counterRead then (if 1 < b 0 then some .badField else none)
  else none

theorem readFields_eq (q : Request) (s : State) : readFields q s = s.wholeCheck .stationRead q := by
  have count (c most : Nat) : ¬ (1 ≤ c ∧ c ≤ most) ↔ c = 0 ∨ most < c := by omega
  have start : fromCursor q.body = true ↔ fieldAt q.body 0 2 = 0xFFFF := beq_iff_eq
  have cursor : s.rp.cursor.isNone = true ↔ s.rp.cursor = none := Option.isNone_iff_eq_none
  unfold readFields State.wholeCheck
  refine Eq.trans ?_ (if_pos rfl).symm
  cases s.rp.options.format <;>
    exact if_congr (count _ _) rfl (if_congr start (if_congr cursor rfl rfl) (if_congr (or_congr_left not_lt) rfl rfl))

theorem counterFields_eq (q : Request) (s : State) : counterFields q s = s.wholeCheck .counterRead q := by
  show (if (byteAt q.body 0).toNat ≤ 1 then none else some Reason.badField)
    = if 1 < (byteAt q.body 0).toNat then some .badField else none
  rw [← ite_not]
  exact if_congr not_le rfl rfl

/-- `k` is served by claims that stay with their request, on its own check of the whole request. -/
def RequestKind.ServedByClaims (k : RequestKind) : Prop :=
  ∃ (fields : Request → State → Option Reason) (claim : Execution → State → State),
    (∀ q s, fields q s = s.wholeCheck k q) ∧ (∀ e t, (claim e t).StaysWith e.request)
      ∧ ∀ n s, exec (k.command n) s = .next (s.claimRequest k fields claim n)

theorem RequestKind.servedByClaims {k : RequestKind}
    (mem : k ∈ [RequestKind.stationProgram, .stationRemove, .stationHold, .stationRelease, .stationClearFault,
      .stationRead, .counterRead]) : k.ServedByClaims := by
  cases k with
  | stationProgram | stationRemove | stationClearFault =>
    exact ⟨noFields, _, fun _ _ => rfl, fun e t => t.staysWith_entryClaim e _ _ _, fun _ _ => rfl⟩
  | stationHold | stationRelease =>
    exact ⟨noFields, _, fun _ _ => rfl, fun e t => State.staysWith_last_or_progress _ _ e _ _ _, fun _ _ => rfl⟩
  | stationRead =>
    exact ⟨readFields, _, readFields_eq, fun e t => State.staysWith_last_or_progress _ _ e _ _ _, fun _ _ => rfl⟩
  | counterRead =>
    exact ⟨counterFields, _, counterFields_eq, fun e t => State.staysWith_last_or_progress _ _ e _ _ _,
      fun _ _ => rfl⟩
  | _ => simp at mem

/-- Settles O49: a request is refused by its own check or begun, and its claims run on where they stopped. -/
theorem claimsRunOnWhereTheyStopped : Obligations.ClaimsRunOnWhereTheyStopped := by
  intro s k mem
  obtain ⟨fields, claim, check, stays, served⟩ := RequestKind.servedByClaims mem
  refine ⟨?_, fun m n t ran => ?_⟩
  · intro q rest serves b most reason
    have checked : fields q (s.awaiting rest) = reason := check q (s.awaiting rest)
    rw [served]
    clear_value reason
    cases reason with
    | none => exact congrArg Host.Outcome.next (State.claimRequest_begin serves fields checked claim 0)
    | some reason =>
      obtain ⟨idle, free, taking, queue, code, short, state, length⟩ := serves
      have sound : requestFault k q s.sched.state = none := by
        rw [requestFault_eq]
        simp [short, state, length]
      exact congrArg Host.Outcome.next
        (State.claimRequest_refused idle free taking queue code fields (by rw [sound]; exact checked) claim 0)
  · rw [served] at ran
    cases ran
    rw [served, served, State.claimRequest_add stays, apply_ite Host.Outcome.next]

end Sys2Proof.Machine
end
